-- ==== Sys2Proof/Word.lean ====
section
/-! DEFINITION. The word types of the Plollaell and their plainest arithmetic (spec/00_scope.md R2, R3). -/

namespace Sys2Proof

/-- A general register, an address in a register, a control register (09 R93). -/
abbrev Word := BitVec 64

/-- The smallest addressable unit of memory (00 R3). -/
abbrev Byte := BitVec 8

/-- One row of an accumulator tile, 128 bytes read little-endian (11 R130). -/
abbrev Row := BitVec 1024

/-- An instruction word (05 R50). -/
abbrev IWord := BitVec 32

end Sys2Proof
end

