-- ==== Sys2Proof/Syntax.lean ====
section
/-! DEFINITION. The instructions of the Plollaell and the events of the device: one constructor for each row of
spec/opcode_table.json (05 Tables 5.7 to 5.10; spec/95_what_each_step_holds.md). -/

namespace Sys2Proof

/-- A g or v register field (05 R59). -/
abbrev Reg := Fin 32

/-- A q field, a tile, a stream or a channel field (05 R59). -/
abbrev Reg8 := Fin 8

/-- Memory ordering (05 Table 5.3). -/
inductive Ordering where
  | rlx | acq | rel | ar
  deriving DecidableEq, Repr

/-- Kinds of FENCE (17 Table 17.3). -/
inductive FenceKind where
  | acq | rel | full
  deriving DecidableEq, Repr

/-- Scope (05 Table 5.3, 17 Table 17.1), narrowest first. -/
inductive Scope where
  | slot | core | clu | die | pkg | sys
  deriving DecidableEq, Repr

/-- Integer widths (05 Table 5.3). -/
inductive Width where
  | d | w | h | b
  deriving DecidableEq, Repr

/-- Scalar floating-point widths: FP64, FP32, FP16, BF16 (05 Table 5.3). -/
inductive FWidth where
  | d | s | h | b
  deriving DecidableEq, Repr

/-- Load sizes in the order of majors 0x08 to 0x0E (05 Table 5.7). -/
inductive LdSize where
  | b | bu | h | hu | w | wu | d
  deriving DecidableEq, Repr

/-- Store sizes in the order of majors 0x10 to 0x13 (05 Table 5.7). -/
inductive StSize where
  | b | h | w | d
  deriving DecidableEq, Repr

/-- Sizes of an atomic (05 Table 5.9). -/
inductive AtSize where
  | w | d
  deriving DecidableEq, Repr

/-- Saturation of an integer result (05 Table 5.3). -/
inductive Sat where
  | wrap | sat
  deriving DecidableEq, Repr

/-- Rounding modes (05 Table 5.3). -/
inductive Rounding where
  | rne | rtz | rdn | rup | sr
  deriving DecidableEq, Repr

/-- Conditions of FCMP (09 Table 9.6). -/
inductive FCond where
  | eq | lt | le | un
  deriving DecidableEq, Repr

/-- Conditions of FSGN (09 Table 9.6). -/
inductive SgnOp where
  | copy | neg | xor
  deriving DecidableEq, Repr

/-- Conditions of VCMP (05 Table 5.10). -/
inductive VCond where
  | eq | ne | lt | le | ltu | leu | un
  deriving DecidableEq, Repr

/-- Direction of FCVT (09 R105): `out` from the width's format, `into` to it. -/
inductive CvtDir where
  | out | into
  deriving DecidableEq, Repr

/-- Number formats, in the order of their codes (07 Table 7.1). -/
inductive Fmt where
  | bf16 | fp16 | fp8e4 | fp8e5 | fp4 | int8 | tern | fp32 | int16 | int32 | fp64
  deriving DecidableEq, Repr

/-- Hints of PREF (15 R216). -/
inductive PrefHint where
  | l1 | l2 | own
  deriving DecidableEq, Repr

/-- Source of a matrix command's A operand (11 Table 11.10). -/
inductive ASrc where
  | window (ga : Reg)
  | stream (k : Reg8)
  deriving DecidableEq, Repr

/-- Control registers (05 Table 5.5). -/
inductive CReg where
  | wid | wfmt | slotid | feat
  | fmta | fmtb | scla | sclb | arg
  | epc | ecause | eaddr | einfo | tvec | status
  | timer | tcmp | wdog
  | domain | rev | seed | mfault
  | slottab | mweight
  | ev (n : Fin 16)
  deriving DecidableEq, Repr

/-- Where a context image stands: an image of the thread-context cache, or the address in a register (23 R316). -/
inductive ImageRef where
  | cache (i : Reg)
  | at (ga : Reg)
  deriving DecidableEq, Repr

/-- A place of a thread: die, core within the die, slot within the core (00 R6). -/
structure Party where
  die  : Nat
  core : Nat
  slot : Nat
  deriving DecidableEq, Repr

/-- Why a fetch makes no bundle (09 R110, 15 R194, R203). -/
inductive FetchFail where
  | address                  -- bit 63 or one of bits [62:56] is set
  | protection (reason : Nat)
  | translation (kind : Nat)
  deriving DecidableEq, Repr

/-- One operation or event of the device. The first part holds the 195 instruction words, the second the 88 events. -/
inductive Instr where
  -- C-words, system (05 Table 5.9 major 0x00)
  | nop
  | mfc (d : Reg) (c : CReg)
  | mtc (c : CReg) (d : Reg)
  | trap (code : BitVec 10)
  | eret
  | dbg (code : BitVec 10)
  | harvest (a b : Reg)
  | tlbsd (a b : Reg)
  | plbinv (a : Reg)
  | terp (d a b : Reg)
  | unterp (d a : Reg)
  -- control transfer
  | call (d : Reg) (off : BitVec 19)
  | callr (d a : Reg)
  | jmpr (a : Reg)
  | ret
  | beq (d a : Reg) (off : BitVec 14)
  | bne (d a : Reg) (off : BitVec 14)
  | blt (d a : Reg) (off : BitVec 14)
  | bge (d a : Reg) (off : BitVec 14)
  | bltu (d a : Reg) (off : BitVec 14)
  | bgeu (d a : Reg) (off : BitVec 14)
  | loop (d : Reg) (off : BitVec 14)
  -- memory
  | ld (z : LdSize) (o : Ordering) (s : Scope) (d a : Reg) (off : BitVec 9)
  | ldIndexed (z : LdSize) (o : Ordering) (s : Scope) (d a b : Reg)
  | ldv (s : Scope) (d a b : Reg)
  | ldvff (s : Scope) (d a b : Reg)
  | ldvg (s : Scope) (d a b : Reg)
  | pref (h : PrefHint) (s : Scope) (a b : Reg)
  | st (z : StSize) (o : Ordering) (s : Scope) (d a : Reg) (off : BitVec 9)
  | stIndexed (z : StSize) (o : Ordering) (s : Scope) (d a b : Reg)
  | stv (s : Scope) (d a b : Reg)
  | stvs (s : Scope) (d a b : Reg)
  | aadd (z : AtSize) (o : Ordering) (s : Scope) (d a b : Reg)
  | aand (z : AtSize) (o : Ordering) (s : Scope) (d a b : Reg)
  | aor (z : AtSize) (o : Ordering) (s : Scope) (d a b : Reg)
  | axor (z : AtSize) (o : Ordering) (s : Scope) (d a b : Reg)
  | amin (z : AtSize) (o : Ordering) (s : Scope) (d a b : Reg)
  | amax (z : AtSize) (o : Ordering) (s : Scope) (d a b : Reg)
  | aminu (z : AtSize) (o : Ordering) (s : Scope) (d a b : Reg)
  | amaxu (z : AtSize) (o : Ordering) (s : Scope) (d a b : Reg)
  | aswp (z : AtSize) (o : Ordering) (s : Scope) (d a b : Reg)
  | acas (z : AtSize) (o : Ordering) (s : Scope) (d a b : Reg)
  | afadd (z : AtSize) (o : Ordering) (s : Scope) (d a b : Reg)
  | fence (k : FenceKind) (s : Scope)
  -- address arithmetic
  | lea (d a b : Reg) (s : Fin 4)
  | cadd (d a b : Reg)
  | cmov (d a b : Reg)
  | caddi (d a : Reg) (imm : BitVec 11)
  -- polders
  | attach (d a b : Reg)
  | detach (a : Reg)
  | hand (a b : Reg)
  | pwait (d a b : Reg)
  | pquery (d a : Reg)
  | pkeep (d a b : Reg)
  | pzero (a : Reg)
  -- streams and channels
  | sbind (k : Reg8) (a b : Reg)
  | sfree (k : Reg8)
  | sstat (d : Reg) (k : Reg8)
  | sflush (d : Reg) (k : Reg8)
  | cbind (k : Reg8) (a b : Reg)
  | cfree (k : Reg8)
  | alt (d a : Reg)
  | cpoll (d : Reg) (k : Reg8)
  | cgrant (d : Reg) (k : Reg8) (b : Reg)
  -- matrix and tiles
  | mma (t : Reg8) (zero : Bool) (src : ASrc) (b : Reg)
  | mmas (t : Reg8) (zero : Bool) (src : ASrc) (b : Reg)
  | mtrans (t : Reg8) (a b : Reg)
  | mperm (t : Reg8) (a b : Reg)
  | mrsum (t : Reg8) (a : Reg)
  | mzero (t : Reg8)
  | acfg (t : Reg8) (f : Fmt)
  | abind (t : Reg8)
  | abindNone
  | mload (o : Ordering) (s : Scope) (t : Reg8) (a b : Reg)
  | mstore (o : Ordering) (s : Scope) (t : Reg8) (a b : Reg)
  | wload (w : Fin 16) (a b : Reg)
  | wfree (w : Fin 16)
  | mwait
  -- engines, barriers, routing
  | copy (s : Scope) (d a : Reg)
  | xcopy (s : Scope) (d a : Reg)
  | cwait (s : Scope)
  | barm (a : Reg) (n : Fin 16)
  | barr (d : Reg) (n : Fin 16)
  | bara (d : Reg) (n : Fin 16)
  | barw (d : Reg) (n : Fin 16)
  | bto (pkg : Bool) (a : Reg)
  | csum (a : Reg) (n : Fin 16)
  | route (d a b : Reg)
  | rtswap (d a : Reg)
  | sptake (d : Reg) (k : Reg8)
  -- revisions
  | region (d a : Reg)
  | fork (d : Reg)
  | join (d a : Reg)
  | revq (d a : Reg)
  -- waiting, launching, contexts
  | wfe (a : Reg)
  | sleep (d a : Reg)
  | yield
  | quit
  | launch (d a b : Reg)
  | cdec (a : Reg)
  | rpush (d a : Reg)
  | rpop (d a : Reg)
  | swapout (i : ImageRef)
  | swapin (i : ImageRef)
  | migrate (a : Reg)
  -- A-words, integer
  | add (w : Width) (m : Sat) (d a b : Reg)
  | sub (w : Width) (m : Sat) (d a b : Reg)
  | mul (w : Width) (m : Sat) (d a b : Reg)
  | mulh (w : Width) (d a b : Reg)
  | mulhu (w : Width) (d a b : Reg)
  | div (w : Width) (d a b : Reg)
  | divu (w : Width) (d a b : Reg)
  | rem (w : Width) (d a b : Reg)
  | remu (w : Width) (d a b : Reg)
  | min (w : Width) (d a b : Reg)
  | max (w : Width) (d a b : Reg)
  | minu (w : Width) (d a b : Reg)
  | maxu (w : Width) (d a b : Reg)
  | slt (w : Width) (d a b : Reg)
  | sltu (w : Width) (d a b : Reg)
  | and (w : Width) (d a b : Reg)
  | or (w : Width) (d a b : Reg)
  | xor (w : Width) (d a b : Reg)
  | shl (w : Width) (d a b : Reg)
  | shr (w : Width) (d a b : Reg)
  | sar (w : Width) (d a b : Reg)
  | clz (w : Width) (d a : Reg)
  | ctz (w : Width) (d a : Reg)
  | popc (w : Width) (d a : Reg)
  | sel (d a b c : Reg)
  | addi (d a : Reg) (imm : BitVec 14)
  | andi (d a : Reg) (imm : BitVec 14)
  | ori (d a : Reg) (imm : BitVec 14)
  | xori (d a : Reg) (imm : BitVec 14)
  | shli (d a : Reg) (c : BitVec 6)
  | shri (d a : Reg) (c : BitVec 6)
  | sari (d a : Reg) (c : BitVec 6)
  | slti (d a : Reg) (imm : BitVec 14)
  | lui (d : Reg) (imm : BitVec 19)
  | ext (d a : Reg) (pos len1 : BitVec 6)   -- len1 is the length less 1 (05 Table 5.6)
  | ins (d a : Reg) (pos len1 : BitVec 6)
  -- scalar floating point
  | fadd (w : FWidth) (m : Rounding) (d a b : Reg)
  | fsub (w : FWidth) (m : Rounding) (d a b : Reg)
  | fmul (w : FWidth) (m : Rounding) (d a b : Reg)
  | fma (w : FWidth) (m : Rounding) (d a b : Reg)
  | fdiv (w : FWidth) (m : Rounding) (d a b : Reg)
  | fsqrt (w : FWidth) (m : Rounding) (d a : Reg)
  | fmin (w : FWidth) (d a b : Reg)
  | fmax (w : FWidth) (d a b : Reg)
  | fcmp (c : FCond) (w : FWidth) (d a b : Reg)
  | fcvt (dir : CvtDir) (w : FWidth) (m : Rounding) (d a : Reg) (g : Fmt)
  | fclass (w : FWidth) (d a : Reg)
  | fsgn (c : SgnOp) (w : FWidth) (d a b : Reg)
  -- predicates
  | pcnt (d : Reg8) (a : Reg)
  | pmin (d a : Reg8) (b : Reg)
  | pmov (d a : Reg8)
  | pread (d : Reg) (a : Reg8)
  -- vector
  | vadd (m : Rounding) (t : Sat) (q : Reg8) (d a b : Reg)
  | vsub (m : Rounding) (t : Sat) (q : Reg8) (d a b : Reg)
  | vmul (m : Rounding) (t : Sat) (q : Reg8) (d a b : Reg)
  | vmulh (m : Rounding) (t : Sat) (q : Reg8) (d a b : Reg)
  | vmin (q : Reg8) (d a b : Reg)
  | vmax (q : Reg8) (d a b : Reg)
  | vabs (t : Sat) (q : Reg8) (d a : Reg)
  | vneg (t : Sat) (q : Reg8) (d a : Reg)
  | vfma (m : Rounding) (q : Reg8) (d a b : Reg)
  | vdiv (m : Rounding) (q : Reg8) (d a b : Reg)
  | vsqrt (m : Rounding) (q : Reg8) (d a : Reg)
  | vrcp (m : Rounding) (q : Reg8) (d a : Reg)
  | vrsq (m : Rounding) (q : Reg8) (d a : Reg)
  | vexp2 (m : Rounding) (q : Reg8) (d a : Reg)
  | vlog2 (m : Rounding) (q : Reg8) (d a : Reg)
  | vand (q : Reg8) (d a b : Reg)
  | vor (q : Reg8) (d a b : Reg)
  | vxor (q : Reg8) (d a b : Reg)
  | vshl (t : Sat) (q : Reg8) (d a b : Reg)
  | vshr (q : Reg8) (d a b : Reg)
  | vsar (q : Reg8) (d a b : Reg)
  | vcmp (c : VCond) (q : Reg8) (d a b : Reg)
  | vclamp (q : Reg8) (d a b c : Reg)
  | vsel (q : Reg8) (d a b c : Reg)
  | vmov (q : Reg8) (d a : Reg)
  | vbcast (q : Reg8) (d a : Reg)
  | vextr (q : Reg8) (d a b : Reg)
  | vins (q : Reg8) (d a b : Reg)
  | vperm (q : Reg8) (d a b : Reg)
  | viota (q : Reg8) (d : Reg)
  | vcomp (q : Reg8) (d a b : Reg)
  | vexpand (q : Reg8) (d a b : Reg)
  | vredsum (m : Rounding) (q : Reg8) (d a : Reg)
  | vredmax (q : Reg8) (d a : Reg)
  | vredmin (q : Reg8) (d a : Reg)
  | vcvt (m : Rounding) (t : Sat) (q : Reg8) (d a : Reg) (f : Fmt)   -- t: Table 5.3's column, .sat by default
  | vsort (q : Reg8) (d a : Reg)
  | vhist (q : Reg8) (d a : Reg)
  -- events of the device (no encoding)
  | boot (badPackage : Bool) (badDies : List Nat) (hashes : List Nat)
  | powerThrottle (dies : List Nat)
  | clusterQuarantine (die cluster : Nat)
  | laneSpareSwap (culvert : Nat)
  | flitReplay (culvert channel : Nat)
  | keyLoad (culvert key : Nat)
  | keyRetire (culvert : Nat)
  | schedulerAccept (queue prio : Nat)
  | hostReasonWrite (queue value : Nat)
  | waitWordRead (launch entry : Nat)
  | blockDispatch (queue : Nat)
  | gangRetire (gang : Nat)
  | codeletStart (p : Party)
  | cdecPerform (op : Nat)
  | asyncEventTrap (p : Party)
  | timerCompare (p : Party)
  | sleepWake (p : Party)
  | tenantSliceEnd (queue : Nat)
  | tenantSlotChange (p : Party)
  | loadReply (op part : Nat)
  | vectorRowFill (op : Nat)
  | matrixCommandStart (die cluster : Nat)
  | matrixCommandComplete (die cluster : Nat)
  | wloadComplete (op : Nat)
  | mloadRowArrival (op part : Nat)
  | storePerformed (op part : Nat)
  | atomicPerform (op : Nat)
  | plbFill (p : Party) (addr : Nat)
  | translationWalk (die cluster addr rev : Nat)
  | adWritebackTimeout (die cluster : Nat)
  | l1Eviction (die core line : Nat) (bad : List Nat)
  | l2Fill (pa : Nat)
  | l2Eviction (pa : Nat) (bad : List Nat)
  | hostWrite (pa : Nat) (data : List Byte)
  | hostRead (pa size : Nat)
  | attachPerform (op : Nat)
  | handFlip (op : Nat)
  | polderArrival (op : Nat)
  | detachFlip (op : Nat)
  | pzeroComplete (op : Nat)
  | streamDescriptorRead (p : Party) (k : Nat)
  | streamFill (p : Party) (k : Nat)
  | streamDrain (p : Party) (k : Nat)
  | channelConnect (op : Nat)
  | channelWordArrival (op : Nat)
  | channelGrantArrival (op : Nat)
  | channelTimeout (p : Party)
  | copyEngineStart (die engine : Nat) (granules : List Nat)
  | copyEngineComplete (die engine : Nat)
  | copyEngineFault (die engine : Nat)
  | barrierComplete (die bar : Nat)
  | barrierTimeout (p : Party)
  | tokenArrival (op : Nat)
  | tokenDrained (die core qid : Nat)
  | joinStitch (rev addr : Nat)
  | joinComplete (rev : Nat)
  | revisionDiscard (rev : Nat)
  | preemptSave (p : Party)
  | contextResume (p : Party)
  | watchdogStage1 (queue : Nat)
  | watchdogStage2 (queue : Nat)
  | migrationQuiesce (gang : Nat)
  | migrationResume (gang : Nat)
  | forwardDelivery (op : Nat)
  | hbmChannelFailure (stack channel : Nat)
  | hostCtrlEnable
  | hostRegisterWrite (offset : Nat) (value : Word)
  | qcreate
  | qstop
  | qresume
  | qkill
  | qdestroy
  | split
  | merge
  | halt
  | run
  | snap
  | patch
  | pcbload
  | qwdog
  | retire
  | illegalEncoding (addr : Word) (w : IWord) (second : Bool)
  | bundleMisplacement (addr : Word) (w : IWord) (second : Bool)
  | fetchFault (addr : Word) (why : FetchFail)
  | voltageDroop (die : Nat)
  | tlbsdComplete (p : Party)
  | harvestComplete (p : Party)
  | plbinvComplete (p : Party)
  deriving DecidableEq, Repr

end Sys2Proof
end

