-- ==== Sys2Proof/Machine/Formats.lean ====
section
/-! DEFINITION. Number formats, rounding, conversion and the exact arithmetic behind every floating-point
operation (spec/07_formats.md). Values are bit patterns held in Nat; an operation returns the pattern of its result
and the event counters it adds 1 to. -/

namespace Sys2Proof

/-- The event counters that one operation adds 1 to, one entry for each count (07 R90, Table 7.7). -/
abbrev Counts := List Nat

def evInvalid : Nat := 0
def evDivzero : Nat := 1
def evOverflow : Nat := 2
def evUnderflow : Nat := 3
def evInexact : Nat := 4
def evIsat : Nat := 5
def evCvtsat : Nat := 6
def evIdivz : Nat := 7
def evTernres : Nat := 8
def evStconf : Nat := 9
def evRingovf : Nat := 10
def evSpill : Nat := 11
def evEcccor : Nat := 12
def evL1miss : Nat := 13
def evParkcyc : Nat := 14
def evRetired : Nat := 15

/-- A signed reading of the low n bits of x (07 R77). -/
def signedOf (n x : Nat) : Int :=
  let y := x % 2 ^ n
  if y < 2 ^ (n - 1) then (y : Int) else (y : Int) - (2 ^ n : Nat)

/-- The low n bits of an integer's two's complement pattern. -/
def wrapTo (n : Nat) (v : Int) : Nat := (v % ((2 ^ n : Nat) : Int)).toNat

/-- The value clamped to the signed bounds of n bits (07 R77, R87). -/
def clampTo (n : Nat) (v : Int) : Int :=
  let lo : Int := -((2 ^ (n - 1) : Nat) : Int)
  let hi : Int := ((2 ^ (n - 1) : Nat) : Int) - 1
  if v < lo then lo else if hi < v then hi else v

/-- An integer result under wrap or saturation, with ISAT when it clamps (07 R87). -/
def intResult (n : Nat) (t : Sat) (v : Int) : Nat × Counts :=
  match t with
  | .wrap => (wrapTo n v, [])
  | .sat => if clampTo n v = v then (wrapTo n v, []) else (wrapTo n (clampTo n v), [evIsat])

/-- Shape of a binary floating-point format (07 Table 7.4). -/
structure FpShape where
  expBits : Nat
  manBits : Nat
  bias : Nat
  hasInf : Bool
  hasNan : Bool
  maxFinite : Nat     -- pattern of the largest finite magnitude
  defaultNan : Nat
  deriving DecidableEq, Repr

/-- Width of the format in bits. -/
def FpShape.bits (f : FpShape) : Nat := 1 + f.expBits + f.manBits

def FpShape.fp64 : FpShape := ⟨11, 52, 1023, true, true, 0x7FEFFFFFFFFFFFFF, 0x7FF8000000000000⟩
def FpShape.fp32 : FpShape := ⟨8, 23, 127, true, true, 0x7F7FFFFF, 0x7FC00000⟩
def FpShape.fp16 : FpShape := ⟨5, 10, 15, true, true, 0x7BFF, 0x7E00⟩
def FpShape.bf16 : FpShape := ⟨8, 7, 127, true, true, 0x7F7F, 0x7FC0⟩
def FpShape.fp8e5 : FpShape := ⟨5, 2, 15, true, true, 0x7B, 0x7E⟩
def FpShape.fp8e4 : FpShape := ⟨4, 3, 7, false, true, 0x7E, 0x7F⟩
def FpShape.fp4 : FpShape := ⟨2, 1, 1, false, false, 0x7, 0⟩

/-- The pattern of +∞ in a format that has it. -/
def FpShape.infBits (f : FpShape) : Nat := (2 ^ f.expBits - 1) * 2 ^ f.manBits

/-- The sign bit at the top of a pattern. -/
def FpShape.signBit (f : FpShape) (neg : Bool) : Nat := if neg then 2 ^ (f.expBits + f.manBits) else 0

/-- The exponent of the last place of the subnormals. -/
def FpShape.minExp (f : FpShape) : Int := 1 - (f.bias : Int) - (f.manBits : Int)

/-- The floating-point shape of a format code; none for an integer format or TERN (07 Table 7.1). -/
def Fmt.shape : Fmt → Option FpShape
  | .bf16 => some .bf16
  | .fp16 => some .fp16
  | .fp8e4 => some .fp8e4
  | .fp8e5 => some .fp8e5
  | .fp4 => some .fp4
  | .fp32 => some .fp32
  | .fp64 => some .fp64
  | .int8 | .tern | .int16 | .int32 => none

/-- Bits of one element (07 Table 7.1). -/
def Fmt.bits : Fmt → Nat
  | .bf16 | .fp16 | .int16 => 16
  | .fp8e4 | .fp8e5 | .int8 => 8
  | .fp4 => 4
  | .tern => 2
  | .fp32 | .int32 => 32
  | .fp64 => 64

/-- The format of a code (07 Table 7.1). -/
def fmtOfCode (c : Nat) : Option Fmt :=
  ([.bf16, .fp16, .fp8e4, .fp8e5, .fp4, .int8, .tern, .fp32, .int16, .int32, .fp64] : List Fmt)[c]?

/-- The scalar widths of floating point (05 Table 5.3). -/
def FWidth.shape : FWidth → FpShape
  | .d => .fp64
  | .s => .fp32
  | .h => .fp16
  | .b => .bf16

def FWidth.fmt : FWidth → Fmt
  | .d => .fp64
  | .s => .fp32
  | .h => .fp16
  | .b => .bf16

/-- A floating-point value read from its pattern: a NaN with its sign, quiet bit, mantissa and mantissa width,
an infinity, or ±m × 2^e exactly (07 R79). -/
inductive FpVal where
  | nan (neg quiet : Bool) (man manBits : Nat)
  | inf (neg : Bool)
  | fin (neg : Bool) (m : Nat) (e : Int)
  deriving DecidableEq, Repr

def FpVal.isNan : FpVal → Bool
  | .nan .. => true
  | _ => false

def FpVal.isSignalling : FpVal → Bool
  | .nan _ q _ _ => !q
  | _ => false

def FpVal.neg : FpVal → Bool
  | .nan s _ _ _ => s
  | .inf s => s
  | .fin s _ _ => s

def FpVal.isZero : FpVal → Bool
  | .fin _ m _ => m == 0
  | _ => false

/-- The value with its sign inverted. -/
def FpVal.negate : FpVal → FpVal
  | .nan s q m k => .nan (!s) q m k
  | .inf s => .inf (!s)
  | .fin s m e => .fin (!s) m e

/-- Reads a pattern (07 R79, Table 7.4). -/
def FpShape.read (f : FpShape) (x : Nat) : FpVal :=
  let s := x / 2 ^ (f.expBits + f.manBits) % 2 == 1
  let e := x / 2 ^ f.manBits % 2 ^ f.expBits
  let m := x % 2 ^ f.manBits
  if f.hasInf && e == 2 ^ f.expBits - 1 then
    if m == 0 then .inf s else .nan s (m / 2 ^ (f.manBits - 1) % 2 == 1) m f.manBits
  else if !f.hasInf && f.hasNan && e == 2 ^ f.expBits - 1 && m == 2 ^ f.manBits - 1 then
    .nan s true 0 0
  else if e == 0 then .fin s m f.minExp
  else .fin s (2 ^ f.manBits + m) (f.minExp + (e : Int) - 1)

/-- An integer as an exact value. -/
def FpVal.ofInt (v : Int) : FpVal := .fin (decide (v < 0)) v.natAbs 0

/-- An exact result before its rounding: ±(m + δ) × 2^e, with 0 < δ < 1 when `sticky` and δ = 0 otherwise. -/
structure Exact where
  neg : Bool
  m : Nat
  e : Int
  sticky : Bool := false
  deriving DecidableEq, Repr

/-- Whether an exact value's discarded part rounds the kept magnitude up (07 R83, R84).
`rem` is the discarded part in units of 2^-sh of the last place kept. -/
def roundsUp (rm : Rounding) (draw : Nat) (neg : Bool) (kept rem sh : Nat) (sticky : Bool) : Bool :=
  let inexact := rem != 0 || sticky
  match rm with
  | .rne => decide (2 ^ sh < 2 * rem) || (2 * rem == 2 ^ sh && (sticky || kept % 2 == 1))
  | .rtz => false
  | .rdn => neg && inexact
  | .rup => !neg && inexact
  | .sr => decide (draw < rem * 2 ^ 32 / 2 ^ sh)

/-- The result of cutting an exact value at the last place 2^q: the magnitude rounded, and whether it was inexact. -/
def cutAt (rm : Rounding) (draw : Nat) (x : Exact) (q : Int) : Nat × Bool :=
  if q ≤ x.e then (x.m * 2 ^ (x.e - q).toNat, x.sticky)
  else
    -- a cut far above the value keeps nothing; the bound leaves every decision as it is
    let sh := Nat.min (q - x.e).toNat (Nat.log2 x.m + 40)
    let kept := x.m / 2 ^ sh
    let rem := x.m % 2 ^ sh
    (if roundsUp rm draw x.neg kept rem sh x.sticky then kept + 1 else kept, rem != 0 || x.sticky)

/-- The value of |x| against a format's largest finite magnitude (07 R84, R86). -/
def FpShape.beyondLargest (f : FpShape) (x : Exact) : Bool :=
  let m := f.maxFinite % 2 ^ f.manBits + 2 ^ f.manBits
  let e := f.minExp + (f.maxFinite / 2 ^ f.manBits : Nat) - 1
  if x.e ≤ e then
    let sh := (e - x.e).toNat
    if Nat.log2 x.m + 1 < sh then false
    else decide (m * 2 ^ sh < x.m) || (m * 2 ^ sh == x.m && x.sticky)
  else
    decide ((Nat.log2 x.m : Int) + x.e > Nat.log2 m + e) || decide (m < x.m * 2 ^ (Nat.min (x.e - e).toNat 64))

/-- The rounded pattern without regard to overflow, with UNDERFLOW and INEXACT (07 R83). x.m is not 0. -/
def FpShape.roundRaw (f : FpShape) (rm : Rounding) (draw : Nat) (x : Exact) : Nat × Counts :=
  let top : Int := (Nat.log2 x.m : Int) + x.e
  let free : Int := top - f.manBits
  let q : Int := if free < f.minExp then f.minExp else free
  let r := cutAt rm draw x q
  let bits := (q - f.minExp).toNat * 2 ^ f.manBits + r.1
  let tiny :=
    match rm with
    | .sr => decide (bits < 2 ^ f.manBits)
    | _ => decide (top < 1 - (f.bias : Int)) &&
        !(decide (top = -(f.bias : Int)) && (cutAt rm draw x free).1 == 2 ^ (f.manBits + 1))
  (bits, if r.2 then (if tiny then [evUnderflow, evInexact] else [evInexact]) else [])

/-- An arithmetic result of a format with infinities, rounded (07 R83 to R85). x.m is not 0. -/
def FpShape.round (f : FpShape) (rm : Rounding) (draw : Nat) (x : Exact) : Nat × Counts :=
  let s := f.signBit x.neg
  let toInf :=
    match rm with
    | .rne | .sr => true
    | .rtz => false
    | .rdn => x.neg
    | .rup => !x.neg
  let beyond := (s + (if toInf then f.infBits else f.maxFinite), [evOverflow, evInexact])
  if rm == .sr && f.beyondLargest x then beyond
  else
    let r := f.roundRaw rm draw x
    if f.maxFinite < r.1 then beyond else (s + r.1, r.2)

/-- A zero of a sign. -/
def FpShape.zero (f : FpShape) (neg : Bool) : Nat := f.signBit neg

/-- The pattern of an infinity. -/
def FpShape.infinity (f : FpShape) (neg : Bool) : Nat := f.signBit neg + f.infBits

/-- A NaN value written in a format: quieted, its sign kept, its payload carried at the top of the mantissa; the
default NaN from or to FP8E4 (07 R89). -/
def FpShape.writeNan (f : FpShape) : FpVal → Nat
  | .nan s _ m k =>
    if f.hasInf && k != 0 then
      let payload := m % 2 ^ (k - 1)
      let fit := f.manBits - 1
      let moved := if k - 1 ≤ fit then payload * 2 ^ (fit - (k - 1)) else payload / 2 ^ (k - 1 - fit)
      f.signBit s + f.infBits + 2 ^ fit + moved
    else f.defaultNan
  | _ => f.defaultNan

/-- The NaN that an operation delivers: the first NaN among the operands, quieted, else the default NaN (07 R89). -/
def FpShape.pickNan (f : FpShape) (xs : List FpVal) : Nat :=
  match xs.find? FpVal.isNan with
  | some x => f.writeNan x
  | none => f.defaultNan

/-- INVALID for an operation that is invalid or has a signalling operand: it counts once (07 R85). -/
def invalidIf (b : Bool) : Counts := if b then [evInvalid] else []

/-- Delivers an exact finite value: the zero of `zeroNeg` when it is 0, else the rounded value. -/
def FpShape.deliver (f : FpShape) (rm : Rounding) (draw : Nat) (zeroNeg : Bool) (x : Exact) : Nat × Counts :=
  if x.m == 0 && !x.sticky then (f.zero zeroNeg, []) else f.round rm draw x

/-- A signed magnitude as an exact value. -/
def Exact.ofInt (v : Int) (e : Int) : Exact := ⟨decide (v < 0), v.natAbs, e, false⟩

/-- The signed integer of ±m. -/
def signedNat (neg : Bool) (m : Nat) : Int := if neg then -(m : Int) else (m : Int)

/-- The exact sum of ±m1 × 2^e1 and ±m2 × 2^e2. -/
def exactSum (s1 : Bool) (m1 : Nat) (e1 : Int) (s2 : Bool) (m2 : Nat) (e2 : Int) : Exact :=
  let e := if e1 ≤ e2 then e1 else e2
  Exact.ofInt (signedNat s1 (m1 * 2 ^ (e1 - e).toNat) + signedNat s2 (m2 * 2 ^ (e2 - e).toNat)) e

/-- The sign of an exact zero sum (07 R83, R85): the common sign of two zeros, else − only in RDN. -/
def zeroSumNeg (rm : Rounding) (s1 s2 bothZero : Bool) : Bool :=
  if bothZero && s1 == s2 then s1 else rm == .rdn

/-- x + y (07 R85, R89, R92). -/
def FpShape.add (f : FpShape) (rm : Rounding) (draw : Nat) (x y : FpVal) : Nat × Counts :=
  match x, y with
  | .fin s1 m1 e1, .fin s2 m2 e2 =>
    f.deliver rm draw (zeroSumNeg rm s1 s2 (m1 == 0 && m2 == 0)) (exactSum s1 m1 e1 s2 m2 e2)
  | .inf s1, .inf s2 => if s1 == s2 then (f.infinity s1, []) else (f.defaultNan, [evInvalid])
  | .inf s, .fin .. => (f.infinity s, [])
  | .fin .., .inf s => (f.infinity s, [])
  | x, y => (f.pickNan [x, y], invalidIf (x.isSignalling || y.isSignalling))

/-- x − y: a NaN operand keeps its own sign (07 R89). -/
def FpShape.sub (f : FpShape) (rm : Rounding) (draw : Nat) (x y : FpVal) : Nat × Counts :=
  f.add rm draw x (if y.isNan then y else y.negate)

/-- x × y. -/
def FpShape.mul (f : FpShape) (rm : Rounding) (draw : Nat) (x y : FpVal) : Nat × Counts :=
  let s := x.neg != y.neg
  match x, y with
  | .fin _ m1 e1, .fin _ m2 e2 => f.deliver rm draw s ⟨s, m1 * m2, e1 + e2, false⟩
  | .inf _, .inf _ => (f.infinity s, [])
  | .inf _, .fin _ m _ => if m == 0 then (f.defaultNan, [evInvalid]) else (f.infinity s, [])
  | .fin _ m _, .inf _ => if m == 0 then (f.defaultNan, [evInvalid]) else (f.infinity s, [])
  | x, y => (f.pickNan [x, y], invalidIf (x.isSignalling || y.isSignalling))

/-- Whether a product is 0 × ∞. -/
def zeroTimesInf (x y : FpVal) : Bool :=
  match x, y with
  | .inf _, .fin _ m _ => m == 0
  | .fin _ m _, .inf _ => m == 0
  | _, _ => false

/-- x × y + z, rounded once (07 R92; 09 R103: an invalid product with a NaN addend still counts). -/
def FpShape.fma (f : FpShape) (rm : Rounding) (draw : Nat) (x y z : FpVal) : Nat × Counts :=
  let s := x.neg != y.neg
  if x.isNan || y.isNan || z.isNan then
    (f.pickNan [x, y, z],
      invalidIf (x.isSignalling || y.isSignalling || z.isSignalling || zeroTimesInf x y))
  else if zeroTimesInf x y then (f.defaultNan, [evInvalid])
  else
    match x, y, z with
    | .fin _ m1 e1, .fin _ m2 e2, .fin s3 m3 e3 =>
      f.deliver rm draw (zeroSumNeg rm s s3 (m1 * m2 == 0 && m3 == 0)) (exactSum s (m1 * m2) (e1 + e2) s3 m3 e3)
    | .fin .., .fin .., z => (f.infinity z.neg, [])
    | _, _, .inf s3 => if s == s3 then (f.infinity s, []) else (f.defaultNan, [evInvalid])
    | _, _, _ => (f.infinity s, [])

/-- The exact quotient of magnitudes to enough bits for every rounding, SR's 32-bit draw included (07 R84). -/
def exactQuotient (f : FpShape) (s : Bool) (m1 : Nat) (e1 : Int) (m2 : Nat) (e2 : Int) : Exact :=
  let k := f.manBits + 40 + Nat.log2 m2
  let n := m1 * 2 ^ k
  ⟨s, n / m2, e1 - e2 - k, n % m2 != 0⟩

/-- x ÷ y (07 R85). -/
def FpShape.div (f : FpShape) (rm : Rounding) (draw : Nat) (x y : FpVal) : Nat × Counts :=
  let s := x.neg != y.neg
  match x, y with
  | .fin _ m1 e1, .fin _ m2 e2 =>
    if m2 == 0 then
      if m1 == 0 then (f.defaultNan, [evInvalid]) else (f.infinity s, [evDivzero])
    else if m1 == 0 then (f.zero s, [])
    else f.round rm draw (exactQuotient f s m1 e1 m2 e2)
  | .inf _, .inf _ => (f.defaultNan, [evInvalid])
  | .inf _, .fin .. => (f.infinity s, [])
  | .fin .., .inf _ => (f.zero s, [])
  | x, y => (f.pickNan [x, y], invalidIf (x.isSignalling || y.isSignalling))

/-- Adds the bits of the integer square root of n from bit k − 1 down to 0. -/
def isqrtFrom (n : Nat) : Nat → Nat → Nat
  | 0, r => r
  | k + 1, r =>
    let t := r + 2 ^ k
    isqrtFrom n k (if t * t ≤ n then t else r)

/-- The integer square root. -/
def isqrt (n : Nat) : Nat := isqrtFrom n (Nat.log2 n / 2 + 1) 0

/-- The exact square root of m × 2^e, m ≠ 0, to enough bits for every rounding. -/
def exactSqrt (f : FpShape) (m : Nat) (e : Int) : Exact :=
  let k := 2 * (f.manBits + 40) + (if e % 2 = 0 then 0 else 1)
  let n := m * 2 ^ k
  let r := isqrt n
  ⟨false, r, (e - k) / 2, r * r != n⟩

/-- The square root; that of −0 is −0 (09 R103). -/
def FpShape.sqrt (f : FpShape) (rm : Rounding) (draw : Nat) (x : FpVal) : Nat × Counts :=
  match x with
  | .fin s m e =>
    if m == 0 then (f.zero s, [])
    else if s then (f.defaultNan, [evInvalid])
    else f.round rm draw (exactSqrt f m e)
  | .inf s => if s then (f.defaultNan, [evInvalid]) else (f.infinity false, [])
  | x => (f.pickNan [x], invalidIf x.isSignalling)

/-- 1 ÷ x (11 R142). -/
def FpShape.rcp (f : FpShape) (rm : Rounding) (draw : Nat) (x : FpVal) : Nat × Counts :=
  match x with
  | .nan .. => (f.pickNan [x], invalidIf x.isSignalling)
  | x => f.div rm draw (.fin false 1 0) x

/-- 1 ÷ √x (11 R142). -/
def FpShape.rsqrt (f : FpShape) (rm : Rounding) (draw : Nat) (x : FpVal) : Nat × Counts :=
  match x with
  | .fin s m e =>
    if m == 0 then (f.infinity s, [evDivzero])
    else if s then (f.defaultNan, [evInvalid])
    else
      -- √(2^k ÷ m), with k + e even
      let k0 := 2 * (f.manBits + 40) + Nat.log2 m
      let k := if ((k0 : Int) + e) % 2 = 0 then k0 else k0 + 1
      let r := isqrt (2 ^ k / m)
      f.round rm draw ⟨false, r, -((k : Int) + e) / 2, r * r * m != 2 ^ k⟩
  | .inf s => if s then (f.defaultNan, [evInvalid]) else (f.zero false, [])
  | x => (f.pickNan [x], invalidIf x.isSignalling)

/-- Bits behind the point of the fixed-point series for 2^x and log2 (DEDUCED: log 26). -/
def seriesBits : Nat := 256

/-- 2 × artanh(num ÷ den) in fixed point: Σ 2 z^(2i+1) ÷ (2i+1), from the term of index i on. -/
def artanhFrom (z2 : Nat) : Nat → Nat → Nat → Nat
  | 0, _, _ => 0
  | k + 1, i, p => 2 * p / (2 * i + 1) + artanhFrom z2 k (i + 1) (p * z2 / 2 ^ seriesBits)

/-- ln((1 + z) ÷ (1 − z)) for a fixed-point z of at most 1/3. -/
def lnRatio (z : Nat) : Nat := artanhFrom (z * z / 2 ^ seriesBits) 84 0 z

/-- ln 2 in fixed point. -/
def ln2 : Nat := lnRatio (2 ^ seriesBits / 3)

/-- e^y in fixed point, from the term y^i ÷ i! on. -/
def expFrom (y : Nat) : Nat → Nat → Nat → Nat
  | 0, _, _ => 0
  | k + 1, i, t => t + expFrom y k (i + 1) (t * y / 2 ^ seriesBits / (i + 1))

/-- 2^x for a finite x that is not 0 (11 R142): exact at an integer, else to far more bits than any rounding looks
at (DEDUCED: log 26). -/
def exactExp2 (s : Bool) (m : Nat) (e : Int) : Exact :=
  if 0 ≤ e then ⟨false, 1, signedNat s (m * 2 ^ e.toNat), false⟩
  else
    let k := (-e).toNat
    let whole := m / 2 ^ k
    let part := m % 2 ^ k
    if part == 0 then ⟨false, 1, signedNat s whole, false⟩
    else
      -- x = n + frac with 0 < frac < 1
      let n : Int := if s then -(whole : Int) - 1 else whole
      let up := if s then 2 ^ k - part else part
      let frac := up * 2 ^ seriesBits / 2 ^ k
      let y := frac * ln2 / 2 ^ seriesBits
      ⟨false, expFrom y 60 0 (2 ^ seriesBits), n - seriesBits, true⟩

/-- 2^x. -/
def FpShape.exp2 (f : FpShape) (rm : Rounding) (draw : Nat) (x : FpVal) : Nat × Counts :=
  match x with
  | .fin s m e => f.round rm draw (if m == 0 then ⟨false, 1, 0, false⟩ else exactExp2 s m e)
  | .inf s => if s then (f.zero false, []) else (f.infinity false, [])
  | x => (f.pickNan [x], invalidIf x.isSignalling)

/-- log2 of m × 2^e, m ≠ 0, where the value is not 0 or an integer: to far more bits than any rounding looks at
(DEDUCED: log 26). -/
def exactLog2 (m : Nat) (e : Int) : Exact :=
  let t := Nat.log2 m
  let n : Int := (t : Int) + e
  if m == 2 ^ t then ⟨decide (n < 0), n.natAbs, 0, false⟩
  else
    let f := m - 2 ^ t
    let z := f * 2 ^ seriesBits / (2 ^ (t + 1) + f)
    let l := lnRatio z * 2 ^ seriesBits / ln2
    if 0 ≤ n then ⟨false, n.toNat * 2 ^ seriesBits + l, -seriesBits, true⟩
    else ⟨true, n.natAbs * 2 ^ seriesBits - l - 1, -seriesBits, true⟩

/-- log2 of x. -/
def FpShape.log2 (f : FpShape) (rm : Rounding) (draw : Nat) (x : FpVal) : Nat × Counts :=
  match x with
  | .fin s m e =>
    if m == 0 then (f.infinity true, [evDivzero])
    else if s then (f.defaultNan, [evInvalid])
    else f.deliver rm draw false (exactLog2 m e)
  | .inf s => if s then (f.defaultNan, [evInvalid]) else (f.infinity false, [])
  | x => (f.pickNan [x], invalidIf x.isSignalling)

/-- Result of a comparison. -/
inductive Cmp where
  | lt | eq | gt
  deriving DecidableEq, Repr

/-- Order of two values that are no NaN, with +0 = −0. -/
def FpVal.cmp (x y : FpVal) : Cmp :=
  match x, y with
  | .inf s1, .inf s2 => if s1 == s2 then .eq else if s1 then .lt else .gt
  | .inf s, _ => if s then .lt else .gt
  | _, .inf s => if s then .gt else .lt
  | .fin s1 m1 e1, .fin s2 m2 e2 =>
    let d := exactSum s1 m1 e1 (!s2) m2 e2
    if d.m == 0 then .eq else if d.neg then .lt else .gt
  | _, _ => .eq

/-- x < y, false for a NaN. -/
def FpVal.lt (x y : FpVal) : Bool := !x.isNan && !y.isNan && x.cmp y == .lt

/-- x = y, false for a NaN, +0 equal to −0. -/
def FpVal.eqv (x y : FpVal) : Bool := !x.isNan && !y.isNan && x.cmp y == .eq

/-- FMIN, FMAX, VMIN, VMAX and the FMAX stitch on patterns: −0 below +0; one quiet NaN gives way (07 R89). -/
def FpShape.minMax (f : FpShape) (wantMax : Bool) (a b : Nat) : Nat × Counts :=
  let x := f.read a
  let y := f.read b
  if x.isSignalling || y.isSignalling then (f.pickNan [x, y], [evInvalid])
  else
    match x.isNan, y.isNan with
    | true, true => (f.pickNan [x, y], [])
    | true, false => (b, [])
    | false, true => (a, [])
    | false, false =>
      let xLow := x.lt y || (x.isZero && y.isZero && x.neg && !y.neg)
      let yLow := y.lt x || (x.isZero && y.isZero && y.neg && !x.neg)
      if wantMax then (if xLow then b else a, []) else (if yLow then b else a, [])

/-- Conversion of a value to a floating-point format in the column of Table 7.6 that `t` selects (07 R86, R89):
the first rows of the table look at the source value (DEDUCED: log 25). -/
def FpShape.convert (f : FpShape) (rm : Rounding) (t : Sat) (draw : Nat) (x : FpVal) : Nat × Counts :=
  match x with
  | .nan _ q _ _ =>
    if f.hasNan then (f.writeNan x, invalidIf (!q)) else (0, [evInvalid])
  | .inf s =>
    if f.hasInf then (f.infinity s, [])
    else
      match t, f.hasNan with
      | .wrap, true => (f.defaultNan, [])
      | _, _ => (f.signBit s + f.maxFinite, [evCvtsat])
  | .fin s m e =>
    let v : Exact := ⟨s, m, e, false⟩
    if m == 0 then (f.zero s, [])
    else if f.beyondLargest v then
      match t, f.hasInf, f.hasNan with
      | .wrap, true, _ => (f.infinity s, [evOverflow, evInexact])
      | .wrap, false, true => (f.defaultNan, [evOverflow, evInexact])
      | _, _, _ => (f.signBit s + f.maxFinite, [evCvtsat, evOverflow, evInexact])
    else
      let r := f.roundRaw rm draw v
      (f.signBit s + r.1, r.2)

/-- Conversion of a value to a signed integer of n bits: rounded first, then Table 7.6 (07 R86). -/
def convertToInt (n : Nat) (rm : Rounding) (t : Sat) (draw : Nat) (x : FpVal) : Nat × Counts :=
  match x with
  | .nan .. => (0, [evInvalid])
  | .inf s => (wrapTo n (clampTo n (signedNat s (2 ^ n))), [evIsat])
  | .fin s m e =>
    if m == 0 then (0, [])
    else
      let r := cutAt rm draw ⟨s, m, e, false⟩ 0
      let v := signedNat s r.1
      if clampTo n v = v then (wrapTo n v, if r.2 then [evInexact] else [])
      else
        match t with
        | .sat => (wrapTo n (clampTo n v), [evIsat])
        | .wrap => (wrapTo n v, [evIsat])

/-- Reads a pattern in any format that is a source of a conversion: an integer is an exact value (07 R77, R79). -/
def Fmt.read (f : Fmt) (x : Nat) : FpVal :=
  match f.shape with
  | some s => s.read x
  | none => FpVal.ofInt (signedOf f.bits x)

/-- Convert(x, T, F, rm, sat) of 00 Table 0.2: the pattern in F of x read in T (07 R86, R89, Table 7.6). -/
def convert (src dst : Fmt) (rm : Rounding) (t : Sat) (draw : Nat) (x : Nat) : Nat × Counts :=
  match dst.shape with
  | some f => f.convert rm t draw (src.read x)
  | none => convertToInt dst.bits rm t draw (src.read x)

/-- The bit of FCLASS (09 Table 9.7). -/
def FpShape.classBit (f : FpShape) (a : Nat) : Nat :=
  match f.read a with
  | .inf s => if s then 0 else 7
  | .nan _ q _ _ => if q then 9 else 8
  | .fin s m e =>
    if m == 0 then (if s then 3 else 4)
    else if e == f.minExp && m < 2 ^ f.manBits then (if s then 2 else 5)
    else if s then 1 else 6

/-- The key of the totalOrder predicate: patterns of a format ordered as 11 R150 says. -/
def FpShape.totalKey (f : FpShape) (a : Nat) : Int :=
  let top := 2 ^ (f.expBits + f.manBits)
  let mag := a % top
  if a / top % 2 == 1 then -(mag : Int) - 1 else mag

/-- One step of the generator of SR (07 R84). -/
def stepSeed (x : Nat) : Nat :=
  let m := 2 ^ 32
  let x1 := Nat.xor x (x * 2 ^ 13 % m)
  let x2 := Nat.xor x1 (x1 / 2 ^ 17)
  Nat.xor x2 (x2 * 2 ^ 5 % m)

/-- The value of a ternary code and whether it is the reserved one (07 Table 7.3). -/
def ternOfCode (c : Nat) : Int × Counts :=
  match c % 4 with
  | 0 => (0, [])
  | 1 => (1, [])
  | 3 => (-1, [])
  | _ => (0, [evTernres])

/-- Element i of a TERN5 byte (07 R78). The byte above 242 is counted by its reader, once. -/
def tern5Digit (v i : Nat) : Int :=
  if 242 < v then 0
  else
    match v / 3 ^ i % 3 with
    | 0 => 0
    | 1 => 1
    | _ => -1

/-- A scale byte read in a scale code (07 R80, R81). -/
inductive ScaleVal where
  | nan                       -- NaN or a reserved FS8 code
  | zero                      -- FS8 0x00
  | val (m : Nat) (e : Int)   -- m × 2^e
  deriving DecidableEq, Repr

/-- Scale code 1 is E8M0, code 2 FS8; code 0 gives every element scale 1 (07 Table 7.1). -/
def readScale (code x : Nat) : ScaleVal :=
  match code with
  | 1 => if x % 256 == 255 then .nan else .val 1 ((x % 256 : Nat) - 127 : Int)
  | 2 =>
    let b := x % 256
    let ex := b / 8
    let f := b % 8
    if 128 ≤ b || b == 0x7F then .nan
    else if b == 0 then .zero
    else if ex == 0 then .val f (-9)
    else .val (8 + f) ((ex : Int) - 10)
  | _ => .val 1 0

/-- The mode in which FCVT rounds: a conversion from a format to itself rounds nothing, and so draws nothing (07 R84;
09 R105). -/
def cvtMode (src dst : Fmt) (m : Rounding) : Rounding := if src = dst then .rne else m

end Sys2Proof
end

