-- ==== Sys2Proof/Config.lean ====
section
/-! DEFINITION. What the package fixes (spec/01_device.md), which units are present, and the free values: results
for which the manual states no value (DESIGN CHOICE: log 21). -/

namespace Sys2Proof

/-- Dies, cores of a die, slots of a core, clusters of a die (01 R8, R11, R12). -/
def Config.dies : Nat := 12
def Config.coresPerDie : Nat := 256
def Config.slotsPerCore : Nat := 16
def Config.clustersPerDie : Nat := 32

/-- d0 to d7 are M-dies, d8 to d11 S-dies (01 R9). -/
def Config.isSDie (die : Nat) : Bool := decide (8 ≤ die)

/-- FEAT of a die (01 Table 1.2, Table 1.3). -/
def Config.feat (die : Nat) : Nat := if Config.isSDie die then 0x0009 else 0x0007

/-- Row, column and cluster of a core, and its position in the cluster (00 R6, 01 R11). -/
def Config.row (core : Nat) : Nat := core / 16
def Config.col (core : Nat) : Nat := core % 16
def Config.clusterOf (core : Nat) : Nat := Config.row core / 2 * 4 + Config.col core / 4
def Config.posOf (core : Nat) : Nat := Config.row core % 2 * 4 + Config.col core % 4

/-- The core at a position of a cluster. -/
def Config.coreAt (cluster pos : Nat) : Nat :=
  (cluster / 4 * 2 + pos / 4) * 16 + cluster % 4 * 4 + pos % 4

/-- The die that a grid place holds: rows d0–d3, d8–d11, d4–d7 (01 Table 1.1). -/
def Config.gridRow (die : Nat) : Nat := if die < 4 then 0 else if die < 8 then 2 else 1
def Config.gridCol (die : Nat) : Nat := die % 4

/-- The die at a grid place. -/
def Config.dieAtGrid (row col : Nat) : Nat := (if row = 0 then 0 else if row = 1 then 8 else 4) + col

/-- The two dies that a culvert joins: 0 to 8 within rows, row by row, and 9 to 16 between rows (01 R8; the manual does not
number them: DESIGN CHOICE, log 113). -/
def Config.culvertEnds (c : Nat) : Option (Nat × Nat) :=
  if c < 9 then some (Config.dieAtGrid (c / 3) (c % 3), Config.dieAtGrid (c / 3) (c % 3 + 1))
  else if c < 17 then some (Config.dieAtGrid ((c - 9) / 4) ((c - 9) % 4), Config.dieAtGrid ((c - 9) / 4 + 1) ((c - 9) % 4))
  else none

/-- Whether two dies are neighbours in a row or a column of the grid (01 R8). -/
def Config.neighbours (a b : Nat) : Bool :=
  decide (a < 12) && decide (b < 12) &&
    ((Config.gridRow a == Config.gridRow b && (Config.gridCol a + 1 == Config.gridCol b || Config.gridCol b + 1 == Config.gridCol a)) ||
      (Config.gridCol a == Config.gridCol b && (Config.gridRow a + 1 == Config.gridRow b || Config.gridRow b + 1 == Config.gridRow a)))

/-- The die that holds an HBM4E stack (15 R191). -/
def Config.stackDie (stack : Nat) : Nat := if stack < 8 then stack else 8 + (stack - 8) / 2

/-- Copy engines of a die (01 Table 1.2). -/
def Config.engines (die : Nat) : Nat := if Config.isSDie die then 8 else 4

/-- Whether a cluster is present: the full grade has every unit (00 R1, 01 R20; DESIGN CHOICE: log 10). -/
def Config.clusterPresent (die cluster : Nat) : Bool := decide (die < 12) && decide (cluster < 32)

/-- The n-th free value of 64 bits: nothing constrains it (DESIGN CHOICE: log 21). -/
opaque Config.freeValue : Nat → BitVec 64

end Sys2Proof
end

