-- ==== Sys2Proof/Machine/Table.lean ====
section
/-! DEFINITION. Sparse tables: lists of (key, value) with keys strictly rising; the memory of bytes, which lists no
byte that equals what an unlisted address reads as; and the bytes of numbers (spec/00_scope.md R3). -/

namespace Sys2Proof.Machine

/-- A sparse table. -/
abbrev Table (α : Type) := List (Nat × α)

/-- The value at a key. -/
def tget {α : Type} (t : Table α) (k : Nat) : Option α :=
  match t with
  | [] => none
  | (j, a) :: r => if j = k then some a else tget r k

/-- The value at a key, or a default. -/
def tgetD {α : Type} (t : Table α) (k : Nat) (d : α) : α := (tget t k).getD d

/-- Puts a value at a key. -/
def tset {α : Type} (t : Table α) (k : Nat) (v : α) : Table α :=
  match t with
  | [] => [(k, v)]
  | (j, a) :: r => if j = k then (k, v) :: r else if k < j then (k, v) :: (j, a) :: r else (j, a) :: tset r k v

/-- Removes a key. -/
def terase {α : Type} (t : Table α) (k : Nat) : Table α := t.filter (fun e => e.1 != k)

/-- Puts a value at a key, leaving no entry where the value is the default. -/
def tput {α : Type} [DecidableEq α] (t : Table α) (k : Nat) (d v : α) : Table α :=
  if v = d then terase t k else tset t k v

/-- Keys strictly rising. -/
def tsorted {α : Type} : Table α → Bool
  | [] => true
  | (j, _) :: r => r.all (fun e => decide (j < e.1)) && tsorted r

/-- Memory of bytes (15 R191; DESIGN CHOICE: log 4). -/
abbrev Memory := List Host.Cell

/-- What an unlisted address reads as (DESIGN CHOICE: log 4). -/
def Memory.fill : Byte := 0

/-- The canonical form: addresses strictly rising, no entry equal to what an unlisted address reads as. -/
def Memory.wf (m : Memory) : Bool := tsorted m && m.all (fun e => e.2 != Memory.fill)

/-- One byte. -/
def Memory.read (m : Memory) (a : Nat) : Byte := tgetD m a Memory.fill

/-- Stores one byte. -/
def Memory.write (m : Memory) (a : Nat) (v : Byte) : Memory := tput m a Memory.fill v

/-- n bytes at a, little-endian, as a number. -/
def Memory.readN (m : Memory) (a : Nat) : Nat → Nat
  | 0 => 0
  | n + 1 => (Memory.read m a).toNat + 256 * Memory.readN m (a + 1) n

/-- Stores the n low bytes of v at a, little-endian. -/
def Memory.writeN (m : Memory) (a : Nat) (v : Nat) : Nat → Memory
  | 0 => m
  | n + 1 => Memory.writeN (Memory.write m a (BitVec.ofNat 8 v)) (a + 1) (v / 256) n

/-- Bits [hi:lo] of a number (00 R3). -/
def bits (x hi lo : Nat) : Nat := x / 2 ^ lo % 2 ^ (hi + 1 - lo)

/-- One bit of a number. -/
def bit (x n : Nat) : Bool := x / 2 ^ n % 2 == 1

/-- A Bool as a bit. -/
def b2n (b : Bool) : Nat := if b then 1 else 0

/-- x with bits [hi:lo] replaced. -/
def putBits (x hi lo v : Nat) : Nat :=
  x / 2 ^ (hi + 1) * 2 ^ (hi + 1) + v % 2 ^ (hi + 1 - lo) * 2 ^ lo + x % 2 ^ lo

/-- A number as a register value. -/
def w64 (n : Nat) : Word := BitVec.ofNat 64 n

/-- 16-byte granules that a range of bytes touches, by their number. -/
def granulesOf (a n : Nat) : List Nat :=
  if n = 0 then [] else (List.range ((a + n - 1) / 16 + 1 - a / 16)).map (· + a / 16)

/-- Whether two byte ranges overlap. -/
def overlap (a n b m : Nat) : Bool := decide (a < b + m) && decide (b < a + n) && decide (0 < n) && decide (0 < m)

/-- Adds k to a counter that saturates at 32 ones (07 R90). -/
def satAdd32 (c k : Nat) : Nat := Nat.min (c + k) 0xFFFFFFFF

/-- The i-th element of a list, or a default. -/
def nth {α : Type} (l : List α) (i : Nat) (d : α) : α := (l[i]?).getD d

/-- A list with its i-th element replaced; unchanged where there is none. -/
def setNth {α : Type} (l : List α) (i : Nat) (v : α) : List α := l.set i v

/-- Element i of a vector, or a default. -/
def vget {α : Type} {n : Nat} (v : Vector α n) (i : Nat) (d : α) : α := if h : i < n then v[i] else d

/-- A vector with element i replaced; unchanged where there is none. -/
def vset {α : Type} {n : Nat} (v : Vector α n) (i : Nat) (a : α) : Vector α n := if h : i < n then v.set i a h else v

/-- A vector with element i changed. -/
def vmod {α : Type} {n : Nat} (v : Vector α n) (i : Nat) (f : α → α) : Vector α n :=
  if h : i < n then v.set i (f v[i]) h else v

/-- The first element that satisfies a test, with its position. -/
def findPos {α : Type} (f : α → Bool) : List α → Nat → Option (Nat × α)
  | [], _ => none
  | a :: r, i => if f a then some (i, a) else findPos f r (i + 1)

end Sys2Proof.Machine
end

