-- ==== Sys2Proof/Machine/State.lean ====
section
/-! DEFINITION. Everything the manual gives the machine, as plain data, and the machine right after reset. Names are
the manual's. Sparse tables hold an entry only where something has happened (DESIGN CHOICE: log 5). -/

namespace Sys2Proof.Machine

/-- Why the model stops. -/
inductive Fault where
  /-- Raised by a meaning of an instruction word when the slot of `State.cur` holds no context: the core offers such
  a slot no turn (03 R38), so only a call of exec outside step reaches it. Safe: nothing is claimed after it. -/
  | noContext
  deriving DecidableEq, Repr

/-- Why the model has no meaning. -/
inductive Refusal where
  /-- Raised by an arm of exec whose instruction has no meaning yet. Safe: nothing is claimed after it. -/
  | notModelled (mnemonic : String)
  deriving DecidableEq, Repr

/-! ### Registers of a context -/

/-- Operations of an atomic (15 R224). -/
inductive AtomOp where
  | add | and | or | xor | min | max | minu | maxu | swp | cas | fadd
  deriving DecidableEq, Repr

/-- What ERET sends again for a poisoned register (15 R199, R202). For a LAUNCH, `at_` is the address of its access that
failed, which the trap reports (DEDUCED: log 97). -/
inductive ReplayOp where
  | load
  | atomic (op : AtomOp) (x c : Nat)
  | launch (gb at_ : Nat)
  deriving DecidableEq, Repr

/-- A replay record (15 R199; 23 Table 23.3, items 1 and 10). `seq` gives its age in program order. -/
structure Replay where
  op : ReplayOp
  addr : Nat
  log2 : Nat
  signed : Bool
  ord : Ordering
  scope : Scope
  dom : Nat
  rev : Nat
  kind : Nat
  iaddr : Nat
  seq : Nat
  again : Bool      -- whether ERET sends it again (15 R202)
  deriving DecidableEq, Repr

/-- A general register: full, empty until the operation named arrives, or poisoned (15 R199, R218). -/
inductive RegCell where
  | val (w : Word)
  | empty (op : Nat)
  | poison (r : Replay)
  deriving DecidableEq, Repr

/-- A predicate register: a count, or empty after LDVFF (15 R221). -/
inductive QCell where
  | val (n : Nat)
  | empty (op : Nat)
  deriving DecidableEq, Repr

/-- A row of a tile (11 R132). -/
inductive RowFill where
  | full
  | empty (op : Nat)
  | poison (r : Replay)
  deriving DecidableEq, Repr

structure TileRow where
  data : Row
  fill : RowFill
  deriving DecidableEq, Repr

/-- An accumulator tile: type, tag and 32 rows (11 R130, R131). -/
structure Tile where
  typ : Fmt
  tag : Option Nat
  rows : Vector TileRow 32
  deriving DecidableEq, Repr

/-- A tile at reset: untagged, FP32, all bits 0 (11 R131). -/
def Tile.reset : Tile := { typ := .fp32, tag := none, rows := Vector.replicate 32 ⟨0, .full⟩ }

/-! ### Places of data -/

/-- A byte of memory as an access names it: a global virtual address, a byte of a polder
(polder number over the package × 65,536 + offset), or a physical address. -/
inductive Loc where
  | va (a : Nat)
  | sram (i : Nat)
  | pa (a : Nat)
  deriving DecidableEq, Repr

/-- Loc n bytes further on. -/
def Loc.plus : Loc → Nat → Loc
  | .va a, n => .va (a + n)
  | .sram i, n => .sram (i + n)
  | .pa a, n => .pa (a + n)

/-! ### Streams and channels -/

/-- A stream of a thread (19 R254 to R263, R283). -/
structure Stream where
  op : Nat                   -- operation number of its SBIND
  qcw : Word                 -- queue control word
  desc : Loc                 -- where the descriptor stands
  words : Option (List Nat)  -- the descriptor's eight words, once read
  buf : Nat                  -- byte of the polder at which the buffer begins
  dom : Nat
  rev : Nat
  sup : Bool
  iaddr : Nat
  after : Nat                -- rows are read after every access with a smaller operation number
  fault : Option Nat         -- reason of cause 0x0C
  faultAddr : Nat            -- element address of reason 6
  before : Nat               -- rows popped or pushed since SBIND and before the last re-binding (19 R261, R263)
  moved : Nat                -- rows popped or pushed since then
  filled : Nat               -- rows read, or rows drained, since then
  bad : List (Nat × Replay)  -- rows present that are poisoned
  claims : List (Nat × Nat)  -- matrix commands that wait for rows: (command, rows still due)
  lastClaim : Nat            -- the command that took the last claimed row
  weir : Option Nat          -- its weir entry
  qid : Option Nat           -- token queue number
  spHead : Nat               -- spillway: rows taken
  spTail : Nat               -- spillway: rows put
  drained : Bool
  deriving DecidableEq, Repr

/-- State of an outbound endpoint (19 R266, R269). -/
inductive ChanState where
  | waiting | opened | refused | freed
  deriving DecidableEq, Repr

/-- A channel endpoint (19 R265, R266). -/
structure Chan where
  out : Bool
  peer : Party
  ep : Nat
  auto : Bool
  conn : Option Nat     -- operation number of the inbound endpoint's CBIND, once known
  st : ChanState
  rbuf : Nat            -- receive buffer of the core
  head : Nat            -- words popped since binding
  b : Nat
  g : Nat
  a : Nat
  dom : Nat
  deriving DecidableEq, Repr

/-! ### Operations in flight -/

/-- One part of an access: its place, its bytes and what has become of it. -/
structure Part where
  addr : Nat                      -- the address as the instruction names it
  loc : Loc
  size : Nat
  data : Nat
  done : Bool
  fail : Option Nat               -- KIND of a failure
  hit : Option (Nat × Bool)       -- physical address and REVD of the page, when an L1 line served it at issue
  wide : Bool                     -- part of a row transfer, which is always translated (15 R198)
  seen : List Nat                 -- contexts of the core that have read it, not yet performed; 0 stands for all (17 R238)
  deriving DecidableEq, Repr

/-- Where a load delivers (15 R218 to R222). -/
inductive Goal where
  | none
  | g (r : Nat) (signed : Bool)
  | row (tile r : Nat)                       -- eight 16-byte parts
  | lanes (tile r e : Nat)                   -- one part for each lane
  | first (tile r e : Nat) (keep : Option Replay)   -- LDVFF, with the poison of the row that it found
  | tile (tile : Nat)                        -- MLOAD: eight parts for each of 32 rows
  deriving DecidableEq, Repr

/-- Operations whose register is filled by a status (09 R124; 13 R183; 15 R227; 19 R262, R285, R286; 21 R298 to R303). -/
inductive StatusOp where
  | launch (ga gb : Nat)
  | attach (polder window : Nat) (pin : Bool) (unit : Nat)
  | terp (base len : Nat)
  | region (words : List Nat)
  | fork
  | revq (a : Nat)
  | join (rev : Nat)
  | rtswap (a : Nat)
  | sptake (k : Nat)
  | sflush (op rows : Nat)     -- the stream by the operation number of its SBIND, and the rows pushed before
  deriving DecidableEq, Repr

inductive FlightKind where
  | load (goal : Goal)
  | store
  | scatter (ga : Nat) (idx data : Row)       -- STVS: parts in lane order
  | atomic (op : AtomOp) (x c : Nat) (d : Nat)
  | status (op : StatusOp) (d : Nat)
  | cdec (die core off : Nat)
  | word (conn : Nat) (v : Word)             -- a channel word on its way to an inbound endpoint
  | grant (conn n : Nat)                     -- an allowance on its way to the sender
  | connect (k : Nat) (peer : Party) (ep : Nat)
  | token (row : Row) (entry k : Nat) (d gen : Nat)   -- replica word and index; number of the bank
  | row (stream k r buf : Nat)               -- a pushed row of an outbound stream, by the stream's number
  | vfill (core tile r at_ : Nat)            -- a vector result on its way to its row
  | hand (window polder target tag : Nat) (pin : Option Nat) (asked : Option Nat)  -- asked: its place in the target's queue
  | detach (window polder : Nat)
  | kill (window polder : Nat)               -- quarantine after the wait of a kill (13 R188)
  | pzero (window polder : Nat)
  | wload (slot : Nat) (ga gb : Nat) (again : Bool)   -- again: a repeat that a command waits for (11 R168, R169)
  deriving DecidableEq, Repr

/-- A release at the scope of a cluster or a die that was performed before stores that it follows: until they are performed, no
party within its scope reads it (17 R232, R238). -/
structure Veil where
  party : Party           -- where it was issued
  scope : Scope
  loc : Loc               -- the physical place that it wrote
  size : Nat
  rev : Nat               -- and the view
  behind : List Nat       -- the stores that it follows
  deriving DecidableEq, Repr

/-- An operation in flight. Its number gives the issue order. -/
structure Flight where
  id : Nat
  party : Party
  ctx : Nat
  kind : FlightKind
  parts : List Part
  ord : Ordering
  scope : Scope
  dom : Nat
  rev : Nat
  sup : Bool
  iaddr : Nat
  moved : Bool                    -- its thread has migrated; a forwarding entry must pass it on (23 R323)
  deriving DecidableEq, Repr

/-! ### What a context waits for and owes -/

/-- Operations that park their slot until they complete (15 R229 to R231). -/
inductive SysOp where
  | harvest (a n : Nat)
  | tlbsd (a n : Nat)
  | plbinv (all : Bool) (dom : Nat)
  deriving DecidableEq, Repr

/-- Why a slot is parked (03 R40, Table 3.6 and the entries of the instructions). -/
inductive ParkWhy where
  | reg (r : Nat)
  | pred
  | row (tile row : Nat)
  | rows (tile : Nat)
  | stream (k n : Nat)                 -- room for a row, or n rows present
  | descriptor (k : Nat)
  | send (k n : Nat)                   -- allowance for n words
  | word (k n : Nat)                   -- n words buffered
  | alt (mask : Nat)
  | arrival (seen : Nat)
  | window (w : Nat)
  | plb (addr : Nat)
  | port (l : Loc) (n : Nat) (write : Bool)    -- earlier accesses of the core to the bytes of an operand
  | earlier (loads stores : Bool) (op : Nat)   -- accesses older than the operation number
  | barrier (bar phase : Nat) (again : Bool)   -- again: the bundle that waits holds BARR, whose wait has a limit (19 R278)
  | joinUses (rev : Nat)
  | matrixQueue
  | matrixDone
  | wfe (mask : Nat)
  | sleep (until_ : Nat) (d : Nat)
  | barw (bar phase : Nat) (d : Nat)
  | ops (ids : List Nat)
  | drained (op : Nat)                 -- what SWAPOUT waits for
  | stored (op : Nat)                  -- the stores of SWAPOUT
  | sys (op : SysOp)
  | quit
  deriving DecidableEq, Repr

/-- A parked slot. `after` marks a bundle that has issued (03 R40). -/
structure Park where
  why : ParkWhy
  after : Bool
  waited : Nat      -- cycles counted toward a time-out (19 R270)
  second : Bool     -- the word that waits is the A-word of a pair
  deriving DecidableEq, Repr

/-- A held store (15 R201; 23 Table 23.3, items 2 and 9): the failed parts of a store, a scatter, an atomic without
a destination, a drained row, a stitch or a release behind it, or the rest of a copy command (19 R273). -/
inductive HeldWhat where
  | flight (f : Flight)
  | copy (op offset : Nat) (iaddr addr : Nat)
  | stitch (rev : Nat) (iaddr addr : Nat)
  deriving DecidableEq, Repr

structure Held where
  what : HeldWhat
  kind : Nat
  seq : Nat
  page : Nat      -- its page holds 2 ^ page bytes (15 R201)
  deriving DecidableEq, Repr

/-- A trap owed before the next bundle (09 R115). -/
structure Owed where
  cause : Nat
  eaddr : Word
  einfo : Word
  deriving DecidableEq, Repr

/-- A thread's last arrival at a barrier: its operation number, its phase, and the status once that phase has completed
(19 R278). -/
structure Arrived where
  op : Nat
  phase : Nat
  status : Option Nat
  deriving DecidableEq, Repr

/-- A thread context (03 R36; 09 R93, R112; 23 Table 23.2). -/
structure Thread where
  ctx : Nat                   -- identity of the context (21 R291)
  unit : Nat                  -- the gang, or the codelet's own unit
  pc : Word
  g : Vector RegCell 32
  q : Vector QCell 8
  tile : Option (Fin 8)       -- bound tile (11 R134)
  wid : Word
  wfmt : Word
  fmta : Word
  fmtb : Word
  scla : Word
  sclb : Word
  arg : Word
  epc : Word
  ecause : Word
  eaddr : Word
  einfo : Word
  tvec : Word
  status : Word               -- Table 9.12, but for MPEND, which follows the core's message queue (09 R116)
  tcmp : Word
  domain : Word
  rev : Word
  seed : Word
  mfault : Word
  btoDie : Nat
  btoPkg : Nat
  memEvent : Word × Word      -- record address and index of a pending memory-error event (09 R116)
  streams : Vector (Option Stream) 8
  leaving : List Stream       -- freed inbound streams that still owe rows to matrix commands
  chans : Vector (Option Chan) 8
  held : List Held
  owed : List Owed
  arrived : Table Arrived
  park : Option Park
  halted : Bool               -- at a breakpoint or by HALT (23 R327, R328)
  readyAt : Nat               -- earliest cycle of the next issue (09 R95)
  yield : Option (List Nat × Nat)   -- slots still to be offered a turn, and the last cycle (09 R122)
  quitting : Bool
  follow : Option (Nat × Bool) -- home die of a FOLLOW access, until the bundle boundary, and whether it may (15 R197)
  firstTrap : Option Owed     -- trap of a codelet's first bundle (03 R45)
  deriving DecidableEq, Repr

/-- A context with every register 0 (03 R36; DESIGN CHOICE: log 5). -/
def Thread.blank : Thread where
  ctx := 0
  unit := 0
  pc := 0
  g := Vector.replicate 32 (.val 0)
  q := Vector.replicate 8 (.val 0)
  tile := none
  wid := 0
  wfmt := 0
  fmta := 0
  fmtb := 0
  scla := 0
  sclb := 0
  arg := 0
  epc := 0
  ecause := 0
  eaddr := 0
  einfo := 0
  tvec := 0
  status := 0
  tcmp := 0
  domain := 0
  rev := 0
  seed := 1
  mfault := 0
  btoDie := 0
  btoPkg := 0
  memEvent := (0, 0)
  streams := Vector.replicate 8 none
  leaving := []
  chans := Vector.replicate 8 none
  held := []
  owed := []
  arrived := []
  park := none
  halted := false
  readyAt := 0
  yield := none
  quitting := false
  follow := none
  firstTrap := none

/-! ### A core -/

/-- A matrix command's form (11 R158, R163). -/
inductive MatForm where
  | mma | mmas | mtrans (g : Nat) | mperm (p : List Nat) | mrsum
  deriving DecidableEq, Repr

/-- A record of a WLOAD (11 R156). -/
structure WRec where
  ga : Word
  gb : Word
  op : Nat
  deriving DecidableEq, Repr

/-- A matrix command in its core's queue (11 R151, R161, R168). -/
structure MatCmd where
  id : Nat
  slot : Nat
  ctx : Nat
  form : MatForm
  word : Nat                     -- the instruction word (23 Table 23.3, item 7)
  zero : Bool
  tile : Nat
  a : Option Loc                 -- A window, or none for a stream
  ga : Nat                       -- its address, or the element position at which its rows of the stream begin
  aRows : List (Row × Option Nat)  -- rows of a stream claimed so far, with the data address of a poisoned one
  gb : Nat
  fmta : Nat
  fmtb : Nat
  scla : Nat
  sclb : Nat
  dom : Nat
  rev : Nat
  iaddr : Nat
  code : Nat                     -- compression code and records of its weight slot at issue
  recs : List WRec
  block : Nat                    -- K-block to start at
  held : Bool
  heldAt : Nat                   -- address of the granule or scale byte that holds it
  resumed : Bool                 -- held once and resumed since (11 R168)
  counts : List Nat              -- its sixteen counts so far, which reach the core at its completion (11 R153)
  done : Bool                    -- it has run all its blocks
  deriving DecidableEq, Repr

/-- A window of a core (13 R171, R173). -/
inductive WinState where
  | pending | opened | closed
  deriving DecidableEq, Repr

structure Window where
  st : WinState
  polder : Nat          -- number over the package: (die × 32 + cluster) × 64 + polder
  dom : Nat
  holder : Nat          -- unit that holds it
  pin : Option Nat
  deriving DecidableEq, Repr

/-- An entry of an arrival queue (13 R179, R180). -/
structure Arrival where
  polder : Nat
  tag : Nat
  sender : Nat
  pin : Option Nat
  dom : Nat
  seen : Bool           -- visible to the receiver (13 R186)
  op : Nat
  deriving DecidableEq, Repr

/-- A protection lookaside buffer entry: one region of one domain (15 R192, R193). -/
structure PlbEntry where
  dom : Nat
  base : Nat
  last : Nat
  r : Bool
  w : Bool
  x : Bool
  s : Bool
  deriving DecidableEq, Repr

/-- An L1 line: its tag and which of its words are valid and dirty; the bytes stand in memory (15 R206, R207; DESIGN CHOICE: log 7). -/
structure L1Line where
  line : Nat            -- VA ÷ 64
  dom : Nat
  rev : Nat
  pa : Nat              -- physical line ÷ 64
  valid : Nat
  dirty : Nat
  owned : Bool
  revd : Bool           -- REVD of its page
  writer : Nat          -- domain of the last writer (15 R215)
  deriving DecidableEq, Repr

/-- Events raised for a slot that holds no context (23 R319). -/
structure SlotEvents where
  timer : Bool
  mem : Option (Word × Word)
  deriving DecidableEq, Repr

/-- A forwarding entry (23 R323): for the loads of a context, an endpoint of a connection, or a token queue by the
operation number of its stream, for the tokens resolved under banks up to one (19 R286). -/
inductive Fwd where
  | loads (ctx : Nat)
  | chan (conn : Nat) (out : Bool)
  | waiting (ctx k : Nat)       -- an outbound endpoint that has yet to be connected
  | queue (op gen : Nat)
  deriving DecidableEq, Repr

structure CoreSt where
  lastSlot : Nat               -- the slot that issued last in the rotation
  lastCycle : Option Nat       -- cycle of the last issue turn
  tiles : Vector Tile 8
  mweight : Nat
  slottab : Word
  slottabNext : Option Word
  vecLost : Nat                -- cycles that were no vector turn (03 R42)
  vecFree : Nat                -- first cycle at which the pipe is free
  refused : List Nat           -- slots refused a vector turn, longest first
  ev : Vector Nat 16
  rings : Vector (Nat × Nat) 4 -- head and tail of each ready ring
  ringC : List Nat             -- c[0..2] of Select (03 R33)
  ringCycle : Nat              -- the last cycle in which a ring operation was served after the issue, and the last such
  ringStep : Nat               -- operation: 2 the pop for an idle slot, 3 a push by CDEC, 4 a push by RPUSH (09 R129)
  msgs : List (Nat × Word)     -- message queue (09 R116)
  msgLost : Bool
  windows : Table Window
  arrivals : List Arrival
  arrivalCount : Nat           -- arrivals seen so far
  plb : List PlbEntry          -- most recently used first
  l1 : List L1Line             -- most recently used first
  mq : List MatCmd
  fwd : List Fwd               -- forwarding entries
  slotEvents : Table SlotEvents
  deriving DecidableEq, Repr

def CoreSt.reset : CoreSt where
  lastSlot := 15
  lastCycle := none
  tiles := Vector.replicate 8 Tile.reset
  mweight := 1
  slottab := 0x4000000000000000
  slottabNext := none
  vecLost := 0
  vecFree := 0
  refused := []
  ev := Vector.replicate 16 0
  rings := Vector.replicate 4 (0, 0)
  ringC := [0, 0, 0]
  ringCycle := 0
  ringStep := 0
  msgs := []
  msgLost := false
  windows := []
  arrivals := []
  arrivalCount := 0
  plb := []
  l1 := []
  mq := []
  fwd := []
  slotEvents := []

/-! ### A cluster -/

/-- STATE of an attach entry (13 Table 13.2). -/
inductive AttState where
  | detached | attached | handing | quarantined
  deriving DecidableEq, Repr

/-- An attach entry (13 Table 13.2). -/
structure Attach where
  st : AttState
  window : Nat
  owner : Nat
  ooff : Nat
  pinv : Bool
  pslot : Nat
  keeper : Nat
  koff : Nat
  dom : Nat
  count : Nat
  deriving DecidableEq, Repr

/-- A pool entry at reset (DESIGN CHOICE: log 5). -/
def Attach.reset : Attach := ⟨.detached, 0, 0, 0, false, 0, 0, 0, 0, 0⟩

inductive WState where
  | free | loading | loaded
  deriving DecidableEq, Repr

/-- A weight slot (11 R154 to R157). -/
structure WSlot where
  st : WState
  dom : Nat
  code : Nat
  recs : List WRec
  freeAt : Option Nat   -- a WFREE received here that waits for the commands received before it (11 R157)
  deriving DecidableEq, Repr

def WSlot.reset : WSlot := ⟨.free, 0, 0, [], none⟩

/-- A weir entry: its range, and the further runs of one that lies in several windows (19 R252). -/
structure Weir where
  op : Nat
  loc : Loc
  len : Nat
  dest : Bool
  more : List (Loc × Nat)
  deriving DecidableEq, Repr

/-- A translation buffer entry (15 R198, R204). -/
structure TlbEntry where
  vpage : Nat          -- virtual address of the page
  size : Nat           -- bytes of the page
  rev : Nat
  base : Nat           -- physical base
  attr : Nat
  revd : Bool
  leaf : Nat           -- physical address of the leaf entry
  acc : Bool           -- gathered and not yet written
  dirty : Bool
  since : Option Nat   -- cycle at which it first gathered state that has not been written
  users : List Nat     -- launches whose threads used it
  deriving DecidableEq, Repr

structure ClusterSt where
  attach : Table Attach
  wslots : Vector WSlot 16
  weir : Vector (Option Weir) 32
  tlb : List TlbEntry         -- oldest first
  muPos : Nat                 -- p of NextCore (11 R152)
  muLeft : Nat
  muRun : List (Nat × Nat)    -- core and command of those that have started and not completed, oldest first
  quarantined : Bool
  deriving DecidableEq, Repr

def ClusterSt.reset : ClusterSt where
  attach := []
  wslots := Vector.replicate 16 WSlot.reset
  weir := Vector.replicate 32 none
  tlb := []
  muPos := 0
  muLeft := 0
  muRun := []
  quarantined := false

/-! ### A die -/

/-- A terp range register (15 R211). -/
structure Terp where
  base : Nat
  len : Nat
  dom : Nat
  hits : Nat
  missed : Nat
  deriving DecidableEq, Repr

/-- A copy command (19 R271, R272). -/
structure Copy where
  op : Nat
  party : Party
  ctx : Nat
  dst : Loc
  src : Loc
  dstA : Nat           -- the addresses as the descriptor names them
  srcA : Nat
  len : Nat
  flag : Option Nat
  scope : Scope
  dom : Nat
  rev : Nat
  iaddr : Nat
  from_ : Nat          -- offset to go on from (19 R273)
  started : Bool
  stopped : Bool       -- held after a failed granule
  moved : List Nat     -- granules from there on that have been moved
  deriving DecidableEq, Repr

structure Engine where
  queue : List Copy
  deriving DecidableEq, Repr

/-- A member thread of a barrier, by its place and context. -/
structure Member where
  party : Party
  ctx : Nat
  deriving DecidableEq, Repr

/-- A count record armed by CSUM (19 R280). -/
structure CsumRec where
  member : Member
  addr : Nat
  dom : Nat
  rev : Nat
  sup : Bool
  iaddr : Nat
  phase : Nat
  deriving DecidableEq, Repr

/-- A bobbin barrier (19 R275 to R280). -/
structure Barrier where
  members : List Member
  phase : Nat
  dom : Nat
  arrived : List (Member × Nat)          -- with the operation number of the arrival
  lost : Bool
  changes : List (Member × Bool)         -- joins and leaves that wait for the completion
  csums : List CsumRec
  counts : List (Nat × List Nat)         -- counters taken, by core
  deriving DecidableEq, Repr

def Barrier.reset : Barrier := ⟨[], 0, 0, [], false, [], [], []⟩

/-- An L2 line of 256 bytes (15 R208, R212): which sectors it holds, which of these no request has reached since their
fill, and which terp registers pin it. -/
structure L2Line where
  sectors : Nat
  unserved : Nat
  dirty : Bool
  strm : Bool
  pins : List Nat
  writer : Nat
  used : Nat            -- place of its last use in the order of its die's uses
  deriving DecidableEq, Repr

structure DieSt where
  started : Bool
  clock : Nat
  lowered : Bool
  halted : Bool
  terps : Vector (Option Terp) 8
  engines : Table Engine
  bars : Table Barrier          -- b0 to b11
  l2 : Table L2Line             -- by line number PA ÷ 256
  l2Uses : Nat                  -- uses of its lines so far
  bank : List Nat               -- current replica words, entry × 4 + k (19 R282)
  bankNext : Option (List Nat)
  deriving DecidableEq, Repr

def DieSt.reset : DieSt where
  started := false
  clock := 0
  lowered := false
  halted := false
  terps := Vector.replicate 8 none
  engines := []
  bars := []
  l2 := []
  l2Uses := 0
  bank := []
  bankNext := none

/-! ### Launches, gangs, queues -/

/-- A gang, or the unit of one codelet (03 R25, R45). -/
inductive UnitState where
  | running | moving | saved (cause : Nat) | dead
  deriving DecidableEq, Repr

structure Work where
  queue : Option Nat
  launch : Option Nat
  codelet : Option Nat          -- descriptor offset
  index : Nat                   -- gang index within the launch
  dom : Nat
  members : List Party          -- GCORE-major, GSLOT-minor places
  gslots : Nat                  -- slots per core
  polders : Nat
  featNeed : Nat
  need : Nat                    -- record of needed features (23 R322)
  st : UnitState
  resumeEpc : Option Nat
  target : Option Nat           -- die named by MIGRATE or FOLLOW
  byFollow : Bool               -- its migration follows a FOLLOW access
  followed : Option (Nat × Nat) -- die and cycle of the last resumption from a FOLLOW migration (23 R326)
  deriving DecidableEq, Repr

/-- A launch accepted by the scheduler (03 R29, R30). -/
structure Launch where
  queue : Nat
  prio : Nat
  index : Nat                   -- HEAD count of its record
  words : List Nat              -- the twelve words of the record
  matched : List Nat            -- wait entries that match, by their last reads
  started : Nat                 -- gangs started
  retired : Nat                 -- gangs retired
  dead : Bool                   -- discarded or rejected
  deriving DecidableEq, Repr

/-- A rejection that is reported or held (03 R31). -/
structure Reject where
  prio : Nat
  reason : Nat
  index : Nat
  accepted : Option Nat         -- the launch, when rejected after acceptance
  reported : Bool
  deriving DecidableEq, Repr

/-- A registered launch queue (03 R28; 23 R321, R331). -/
structure LQueue where
  entry : List Nat              -- the eight words of its queue table entry
  wdog : Word
  progress : Nat
  since : Nat                   -- cycle of the last change of progress
  stage1 : Option Nat           -- cycle at which stage one began
  stopped : Bool
  launches : List Nat           -- accepted launches that have not started all their gangs, in order
  selC : List Nat               -- c[0..2] of Select
  fails : List (Nat × Nat)      -- launches whose next block did not fit, with the tries in a row
  rejects : List Reject
  sliceAt : Nat                 -- cycle at which the current slice began
  current : Bool                -- the queue whose slice is current (03 R45, R48)
  changing : List Party         -- slots still to be pre-empted, or to change at a slice end
  reached : List Party          -- those of them that the rotation has reached at a slice end (03 R48)
  saveFailed : Bool             -- a slot could not be saved (23 R320)
  heads : Table Nat             -- HEAD of its rings as the scheduler last read or stored it (03 R31)
  deriving DecidableEq, Repr

/-! ### Revisions -/

/-- A region of a domain (21 R294). -/
structure Region where
  base : Nat
  len : Nat
  stitch : Nat
  esize : Nat
  deriving DecidableEq, Repr

/-- A version line: 64 bytes, the poison of its granules and the virtual line it was written through. -/
structure VLine where
  data : Nat
  poison : Nat
  line : Nat
  deriving DecidableEq, Repr

/-- A join in progress (21 R301). -/
structure Joining where
  op : Nat
  order : Nat                     -- order of the JOINs
  party : Party
  ctx : Nat
  todo : Option (List (Nat × Nat × Nat × Nat))   -- once the stitch has begun, the elements that are left: virtual address,
                                  -- physical address, element bytes, stitch type
  conflicts : Nat
  deriving DecidableEq, Repr

/-- A held revision (21 R291, R299). -/
structure Rev where
  dom : Nat
  parent : Nat
  depth : Nat
  owner : Nat                     -- context that forked it
  seq : Nat                       -- fork order
  hold : Bool
  live : Bool
  abandoned : Bool
  reserved : Nat                  -- version lines reserved
  view : Table VLine              -- lines of its view that differ from its ancestor image, by physical line
  anc : Table VLine               -- lines of its ancestor image that its parent has since changed
  joining : Option Joining
  deriving DecidableEq, Repr

/-! ### The bundle in progress, the agenda, the package -/

/-- What the last word did. -/
inductive Result where
  | done | trapped | parked
  deriving DecidableEq, Repr

/-- The state that both words of a pair read (05 R53, R54). While the bundle issues, `before` has the number of its first
operation and the windows of the core. -/
structure Snap where
  thread : Thread
  tiles : Vector Tile 8
  before : Option (Nat × Table Window)
  deriving DecidableEq, Repr

/-- The A-word of a pair whose C-word has issued and waits (03 R40): its word, the state that both read, the pops that the
C-word made, and what the A-word's own pops gave when the bundle read its registers (05 R55). -/
structure Rest where
  instr : Instr
  pre : Snap
  word : IWord
  popped : List (Nat × Nat)
  ahead : List Nat
  deriving DecidableEq, Repr

/-- A context saved by pre-emption or migration (23 R314, R315, R319), with the place of its records. -/
structure Saved where
  queue : Nat
  party : Party
  thread : Thread
  rest : Option Rest
  cause : Nat
  tiles : List (Nat × Tile)
  weights : List (Nat × WSlot)
  cmds : List MatCmd            -- its held commands, and those of it that wait behind
  words : List (Nat × List Nat) -- buffered words of its inbound endpoints
  tleft : Word
  addr : Nat
  len : Nat
  woken : Option (Nat × Word)   -- its barrier wait has ended since: the register that receives the status, and the status
  deriving DecidableEq, Repr

/-- A poisoned register, row or held store as the trap of a read or of a release point reports it (15 R200, Table 15.8).
`seq` gives its age in program order. -/
structure Poison where
  seq : Nat
  kind : Nat
  vreg : Bool
  reg : Nat
  addr : Nat
  iaddr : Nat
  deriving DecidableEq, Repr

/-- The bundle whose words exec runs. -/
structure Issue where
  pc : Word
  nx : Word
  next : Word
  second : Bool                   -- the A-word of a pair
  pre : Option Snap               -- set for the A-word of a pair
  word : IWord                    -- the word that runs
  popped : List (Nat × Nat)       -- pops of this bundle, last first: channel k as k, stream k as 8 + k; and what each gave
  ahead : List Nat                -- what the pops of the A-word gave, where they have been made already
  mate : Option Poison            -- the oldest poison that the A-word reads, while the C-word runs
  last : Result
  deriving DecidableEq, Repr

def Issue.reset : Issue := ⟨0, 0, 0, false, none, 0, [], [], none, .done⟩

/-- What moves next (DESIGN CHOICE: log 1). -/
inductive Move where
  | turn (die core : Nat)
  | cycles (die n : Nat)
  | event (i : Instr)
  | corrected (die core : Nat)          -- an access of the core meets a corrected error (15 R213)
  | unreadable (stack channel : Nat)    -- a failing channel can no longer be read (23 R333)
  deriving DecidableEq, Repr

/-- What the configuration record reports of the package as it runs: the dies that are absent, the channels retired and, for
each stack that has lost one, its new channel function (01 R24; 23 R333; its layout in memory is not stated: DESIGN CHOICE,
log 82). -/
structure CfgRecord where
  absent : List Nat
  retired : List Nat           -- stack × 32 + channel
  spread : Table (List Nat)    -- by stack: the channels that its lines go round, in order
  deriving DecidableEq, Repr

/-- The host port and what the package keeps (23 R329, R330). -/
structure HostPort where
  cfgrec : Word
  record : Option CfgRecord
  pcb : Word
  enable : Bool
  cmdtail : Nat
  cmdhead : Nat
  begun : Bool                    -- the command at the head has begun and not completed
  block : List Nat                -- the eight words of the package control block as last read
  deriving DecidableEq, Repr

def HostPort.reset : HostPort := ⟨0, none, 0, false, 0, 0, false, [0, 0, 0, 0, 0, 0, 0, 0]⟩

/-- A culvert: spares left, half width, and its flit keys (01 R22; 19 R287, R288). -/
structure Culvert where
  spares : Nat
  half : Bool
  keyIndex : Nat
  keys : List (Nat × Nat)
  resent : Nat
  deriving DecidableEq, Repr

/-- A culvert at reset (DESIGN CHOICE: log 12). -/
def Culvert.reset : Culvert := ⟨4, false, 0, [], 0⟩

structure State where
  threads : Table Thread          -- contexts, by place
  rest : Table Rest               -- A-words that wait for their C-words, by place
  cores : Table CoreSt            -- by die × 256 + core
  clusters : Table ClusterSt      -- by die × 32 + cluster
  dies : Table DieSt
  mem : Memory                    -- physical memory
  memPoison : List Nat            -- poisoned granules of memory, PA ÷ 16
  sram : Memory                   -- polders
  sramPoison : List Nat
  wmem : Memory                   -- weight buffers: (cluster × 16 + slot) × 131,072 + offset
  wmemPoison : List Nat
  units : Table Work
  launches : Table Launch
  queues : Table LQueue
  saved : List Saved
  nodes : List Nat                -- buddy nodes that are split, by node code (03 R47)
  revs : Table Rev
  regions : Table (List Region)   -- by domain
  pendingRevs : List (Nat × Nat × Nat × Nat)  -- records appended by LAUNCH and not yet accepted: QCB, ring, index, REV
  bars : Table Barrier            -- b12 to b15
  swapPending : Bool              -- a replica swap is pending (19 R286)
  swaps : Nat                     -- replica swaps so far
  flights : List Flight           -- oldest first
  veils : List Veil
  latched : List Nat              -- acquires that have taken their value, in their part, before they return
  port : HostPort
  culverts : Table Culvert
  channels : Table Nat            -- HBM4E channels: stack × 32 + channel → 1 failing, reported; 2 retired; 3 failing, not reported
  attest : List Nat               -- attestation log
  booted : Bool
  failed : Bool                   -- the package firmware failed its verification (01 R24)
  eventSeq : Nat                  -- the package arbiter's order (17 R249)
  cur : Party                     -- whose bundle exec runs
  issue : Issue
  agenda : List Move
  nextOp : Nat
  nextCtx : Nat
  nextUnit : Nat
  nextLaunch : Nat
  freeCount : Nat
  deriving DecidableEq, Repr

/-- The machine right after reset: every die held in reset until the boot (01 R24); registers without a reset value
in the manual are 0 (DESIGN CHOICE: log 5). -/
def State.reset : State where
  threads := []
  rest := []
  cores := []
  clusters := []
  dies := []
  mem := []
  memPoison := []
  sram := []
  sramPoison := []
  wmem := []
  wmemPoison := []
  units := []
  launches := []
  queues := []
  saved := []
  nodes := []
  revs := []
  regions := []
  pendingRevs := []
  bars := []
  swapPending := false
  swaps := 0
  flights := []
  veils := []
  latched := []
  port := HostPort.reset
  culverts := []
  channels := []
  attest := []
  booted := false
  failed := false
  eventSeq := 0
  cur := ⟨0, 0, 0⟩
  issue := Issue.reset
  agenda := []
  nextOp := 1
  nextCtx := 1
  nextUnit := 1
  nextLaunch := 1
  freeCount := 0

end Sys2Proof.Machine
end

