-- ==== Sys2Proof/Machine/Base.lean ====
section
/-! DEFINITION. Access to the parts of State by their place, the event counters, STATUS and the clocks. -/

namespace Sys2Proof.Machine

/-- The place of a slot as a number: die × 4,096 + core × 16 + slot (23 R319). -/
def Party.key (p : Party) : Nat := p.die * 4096 + p.core * 16 + p.slot

/-- The place that a number names. -/
def partyOf (k : Nat) : Party := ⟨k / 4096, k / 16 % 256, k % 16⟩

def Party.coreKey (p : Party) : Nat := p.die * 256 + p.core

def Party.cluster (p : Party) : Nat := Config.clusterOf p.core

def Party.clusterKey (p : Party) : Nat := p.die * 32 + Party.cluster p

namespace State

def thread? (s : State) (p : Party) : Option Thread := tget s.threads (Party.key p)

/-- The context in a slot, or a blank one. -/
def thread (s : State) (p : Party) : Thread := (s.thread? p).getD Thread.blank

def setThread (s : State) (p : Party) (t : Thread) : State := { s with threads := tset s.threads (Party.key p) t }

def dropThread (s : State) (p : Party) : State := { s with threads := terase s.threads (Party.key p) }

/-- Changes the context in a slot, if it holds one. -/
def mapThread (s : State) (p : Party) (f : Thread → Thread) : State :=
  match s.thread? p with
  | some t => s.setThread p (f t)
  | none => s

def coreAt (s : State) (k : Nat) : CoreSt := tgetD s.cores k CoreSt.reset

def setCoreAt (s : State) (k : Nat) (c : CoreSt) : State := { s with cores := tset s.cores k c }

def core (s : State) (p : Party) : CoreSt := s.coreAt (Party.coreKey p)

def setCore (s : State) (p : Party) (c : CoreSt) : State := s.setCoreAt (Party.coreKey p) c

def clusterAt (s : State) (k : Nat) : ClusterSt := tgetD s.clusters k ClusterSt.reset

def setClusterAt (s : State) (k : Nat) (c : ClusterSt) : State := { s with clusters := tset s.clusters k c }

def cluster (s : State) (p : Party) : ClusterSt := s.clusterAt (Party.clusterKey p)

def setCluster (s : State) (p : Party) (c : ClusterSt) : State := s.setClusterAt (Party.clusterKey p) c

def dieAt (s : State) (d : Nat) : DieSt := tgetD s.dies d DieSt.reset

def setDie (s : State) (d : Nat) (x : DieSt) : State := { s with dies := tset s.dies d x }

/-- The context whose bundle runs, with its effects so far. -/
def me (s : State) : Thread := s.thread s.cur

def setMe (s : State) (t : Thread) : State := s.setThread s.cur t

/-- The context as the words of the bundle read it: as it stood before the bundle (05 R54). -/
def src (s : State) : Thread :=
  match s.issue.pre with
  | some x => x.thread
  | none => s.me

/-- The tiles as the words of the bundle read them. -/
def srcTiles (s : State) : Vector Tile 8 :=
  match s.issue.pre with
  | some x => x.tiles
  | none => (s.core s.cur).tiles

/-- Cycles of a die since its reset (09 R117). -/
def clock (s : State) (d : Nat) : Nat := (s.dieAt d).clock

/-- Adds k to event counter n of a core (07 R90). -/
def addEv (s : State) (k n m : Nat) : State :=
  let c := s.coreAt k
  s.setCoreAt k { c with ev := vmod c.ev n (fun x => satAdd32 x m) }

/-- Adds 1 for each count of an operation, in the counters of a core (07 R90). -/
def countAt (s : State) (k : Nat) (evs : Counts) : State :=
  if evs.isEmpty then s
  else
    let c := s.coreAt k
    s.setCoreAt k { c with ev := evs.foldl (fun ev n => vmod ev n (fun x => satAdd32 x 1)) c.ev }

/-- Counts in the core of the current slot. -/
def count (s : State) (evs : Counts) : State := s.countAt (Party.coreKey s.cur) evs

/-- A new operation number. -/
def newOp (s : State) : Nat × State := (s.nextOp, { s with nextOp := s.nextOp + 1 })

/-- A value that nothing constrains (DESIGN CHOICE: log 21). -/
def fresh (s : State) : BitVec 64 × State := (Config.freeValue s.freeCount, { s with freeCount := s.freeCount + 1 })

/-- The next number in the package arbiter's order (17 R249). -/
def nextSeq (s : State) : Nat × State := (s.eventSeq, { s with eventSeq := s.eventSeq + 1 })

end State

/-! ### STATUS (09 Table 9.12) -/

def stMode : Nat := 0
def stPmode : Nat := 1
def stDbg : Nat := 2
def stIe : Nat := 3
def stPie : Nat := 4
def stEtim : Nat := 8
def stEmsg : Nat := 9
def stEmem : Nat := 10
def stTpend : Nat := 16
def stMpend : Nat := 17
def stEpend : Nat := 18

/-- Bit n of a register. -/
def wbit (w : Word) (n : Nat) : Bool := bit w.toNat n

/-- A register with bit n set to v. -/
def wset (w : Word) (n : Nat) (v : Bool) : Word := w64 (putBits w.toNat n n (b2n v))

def Thread.sup (t : Thread) : Bool := wbit t.status stMode

def Thread.setStatus (t : Thread) (n : Nat) (v : Bool) : Thread := { t with status := wset t.status n v }

def Thread.dom (t : Thread) : Nat := t.domain.toNat % 128

def Thread.revNo (t : Thread) : Nat := t.rev.toNat % 4096

/-- STATUS as it reads: MPEND follows the core's message queue, at slot 15 only (09 R116). -/
def State.statusOf (s : State) (p : Party) : Word :=
  let t := s.thread p
  wset t.status stMpend (p.slot == 15 && !(s.core p).msgs.isEmpty)

/-- The first enabled pending event, as its cause: EPEND, MPEND, TPEND (09 R115). -/
def State.pendingEvent (s : State) (p : Party) : Option Nat :=
  let w := s.statusOf p
  if !wbit w stIe then none
  else if wbit w stEpend && wbit w stEmem then some 0x14
  else if wbit w stMpend && wbit w stEmsg then some 0x12
  else if wbit w stTpend && wbit w stEtim then some 0x11
  else none

/-! ### Units, queues, partitions -/

def State.work (s : State) (u : Nat) : Option Work := tget s.units u

def State.setWork (s : State) (u : Nat) (w : Work) : State := { s with units := tset s.units u w }

def State.queue (s : State) (q : Nat) : Option LQueue := tget s.queues q

def State.setQueue (s : State) (q : Nat) (x : LQueue) : State := { s with queues := tset s.queues q x }

/-- Node code fields (23 R331): die, level, index. -/
def nodeDie (n : Nat) : Nat := n % 16
def nodeLevel (n : Nat) : Nat := n / 16 % 8
def nodeIndex (n : Nat) : Nat := n / 128 % 32

/-- Index of the node of a level that holds a core (03 Table 3.7). -/
def nodeIndexOf (level core : Nat) : Nat :=
  let r := Config.row core
  let c := Config.col core
  match level with
  | 0 => 0
  | 1 => r / 8
  | 2 => r / 8 * 2 + c / 8
  | 3 => r / 4 * 2 + c / 8
  | 4 => r / 4 * 4 + c / 4
  | _ => Config.clusterOf core

/-- Whether a queue's partition holds a core (03 R47; 23 R331). -/
def LQueue.holds (q : LQueue) (die core : Nat) : Bool :=
  let w := nth q.entry 1 0
  let dies := bits w 23 12
  if dies != 0 then bit dies die
  else
    let n := bits w 11 0
    nodeDie n == die && nodeIndex n == nodeIndexOf (nodeLevel n) core

/-- The launch queue of a core's partition: its owner, or the queue whose slice is current (03 R45). -/
def State.queueOf (s : State) (die core : Nat) : Option Nat :=
  ((s.queues.find? (fun e => e.2.holds die core && e.2.current)).map (·.1))

/-- The launch queue that a context counts in (03 R45). -/
def State.queueOfThread (s : State) (p : Party) (t : Thread) : Option Nat :=
  match s.work t.unit with
  | some w => w.queue
  | none => s.queueOf p.die p.core

/-- Whether a core lies in the partition of a context; one without a queue is bound to none (DESIGN CHOICE: log 13). -/
def State.inPartition (s : State) (p : Party) (t : Thread) (die core : Nat) : Bool :=
  match s.queueOfThread p t with
  | some q =>
    match s.queue q with
    | some x => x.holds die core
    | none => true
  | none => true

/-- The lowest-numbered die of a queue's partition, whose scheduler serves it (03 R47). -/
def LQueue.die (q : LQueue) : Nat :=
  let w := nth q.entry 1 0
  let dies := bits w 23 12
  if dies != 0 then ((List.range 12).find? (bit dies)).getD 0 else nodeDie (bits w 11 0)

/-- Whether a core is present: its die started and its cluster not fused off (01 R20, R24). -/
def State.corePresent (s : State) (die core : Nat) : Bool :=
  decide (die < 12) && decide (core < 256) && (s.dieAt die).started && Config.clusterPresent die (Config.clusterOf core)

/-- Places that hold a context, of a die. -/
def State.placesOfDie (s : State) (d : Nat) : List Party :=
  (s.threads.map (fun e => partyOf e.1)).filter (fun p => p.die == d)

/-- Contexts with their places. -/
def State.contexts (s : State) : List (Party × Thread) := s.threads.map (fun e => (partyOf e.1, e.2))

/-- Changes a context, in its slot or saved. -/
def State.mapCtx (s : State) (ctx : Nat) (f : Thread → Thread) : State :=
  { s with
    threads := s.threads.map (fun e => if e.2.ctx == ctx then (e.1, f e.2) else e)
    saved := s.saved.map (fun x => if x.thread.ctx == ctx then { x with thread := f x.thread } else x) }

/-- The place of a context. -/
def State.findCtx (s : State) (ctx : Nat) : Option (Party × Thread) := s.contexts.find? (fun e => e.2.ctx == ctx)

/-! ### Polders by number over the package -/

/-- Polder j of a cluster. -/
def polderNo (clusterKey j : Nat) : Nat := clusterKey * 64 + j

/-- The home polder of a core (01 R14). -/
def homePolder (p : Party) : Nat := polderNo (Party.clusterKey p) (Config.posOf p.core)

/-- The first byte of a polder among the bytes of all polders. -/
def polderBase (n : Nat) : Nat := n * 65536

/-- A byte of the home polder of a core. -/
def homeByte (p : Party) (off : Nat) : Nat := polderBase (homePolder p) + off

/-- Zeroes n bytes of polders. -/
def State.zeroSram (s : State) (a n : Nat) : State :=
  { s with
    sram := s.sram.filter (fun e => !(decide (a ≤ e.1) && decide (e.1 < a + n)))
    sramPoison := s.sramPoison.filter (fun g => !(decide (a ≤ g * 16) && decide (g * 16 + 16 ≤ a + n))) }

/-- The attach entry of a polder; those of p0 to p7 are fixed (13 R173). -/
def State.attachOf (s : State) (n : Nat) : Attach :=
  let j := n % 64
  if j < 8 then ⟨.attached, 0, j, 0, false, 0, j, 0, 0, 0⟩
  else tgetD (s.clusterAt (n / 64)).attach j Attach.reset

def State.setAttach (s : State) (n : Nat) (e : Attach) : State :=
  let c := s.clusterAt (n / 64)
  s.setClusterAt (n / 64) { c with attach := tset c.attach (n % 64) e }

/-- The cluster beside a cluster of a die in a direction: own, north, east, south, west; none off the grid (13 R172). -/
def clusterBeside (clusterKey dir : Nat) : Option Nat :=
  let k := clusterKey % 32
  let d := clusterKey / 32
  let t : Option Nat :=
    match dir with
    | 0 => some k
    | 1 => if 4 ≤ k then some (k - 4) else none
    | 2 => if k % 4 < 3 then some (k + 1) else none
    | 3 => if k < 28 then some (k + 4) else none
    | 4 => if 0 < k % 4 then some (k - 1) else none
    | _ => none
  t.map (d * 32 + ·)

/-- The cluster in a direction that may be reached: a fused or quarantined one counts as none (13 R172). -/
def State.clusterToward (s : State) (clusterKey dir : Nat) : Option Nat :=
  (clusterBeside clusterKey dir).bind (fun j =>
    if dir == 0 || (Config.clusterPresent (j / 32) (j % 32) && !(s.clusterAt j).quarantined) then some j else none)

/-- The direction from one cluster to another, where the second is within reach. -/
def State.directionTo (s : State) (from_ to_ : Nat) : Option Nat :=
  (List.range 5).find? (fun dir => s.clusterToward from_ dir == some to_)

/-- The direction in which a cluster stands from another one beside it, in reach or not: what an offset or a name says of
a polder that was attached while it was in reach (13 Tables 13.2, 13.4). -/
def bearing (from_ to_ : Nat) : Nat := ((List.range 5).find? (fun dir => clusterBeside from_ dir == some to_)).getD 0

end Sys2Proof.Machine
end

