-- ==== Sys2Proof/Machine/Access.lean ====
section
/-! DEFINITION. Memory as accesses reach it: physical bytes and poison, revision views, page walks and translation
buffers, the L1s and the L2, protection, windows and the weir table (spec/13, 15, 19, 21). -/

namespace Sys2Proof.Machine

/-! ### Physical memory (15 R191, R214) -/

/-- Bytes that a retired channel takes from its stack: 1.5 GiB. -/
def channelBytes : Nat := 0x60000000

/-- Channels of a stack that have been retired (23 R333). -/
def State.retired (s : State) (stack : Nat) : Nat :=
  (s.channels.filter (fun e => e.1 / 32 == stack && e.2 == 2)).length

/-- The retired channels of a stack, by their numbers in it. -/
def State.channelsOut (s : State) (stack : Nat) : List Nat :=
  (s.channels.filter (fun e => e.1 / 32 == stack && e.2 == 2)).map (fun e => e.1 % 32)

/-- The channels of a stack over which its range is spread. -/
def State.channelsIn (s : State) (stack : Nat) : List Nat :=
  (List.range 32).filter (fun c => !(s.channelsOut stack).contains c)

/-- The channel of its stack at which a physical address is homed: by the function of 15 R191 while all 32 are in service,
and else by the new one (23 R333), which the manual does not state: the lines of 256 bytes go round the channels left
(DESIGN CHOICE: log 82). -/
def State.channelOf (s : State) (pa : Nat) : Nat :=
  let stack := pa / 2 ^ 36
  if (s.channelsOut stack).isEmpty then Nat.xor (Nat.xor (bits pa 12 8) (bits pa 17 13)) (bits pa 22 18)
  else
    let left := s.channelsIn stack
    nth left (pa / 256 % left.length) 0

/-- Whether a physical address is present (15 Table 15.1). -/
def State.present (s : State) (pa : Nat) : Bool :=
  if pa < 2 ^ 48 then
    decide (pa / 2 ^ 36 < 16) && decide (pa % 2 ^ 36 + channelBytes * s.retired (pa / 2 ^ 36) < 0xC00000000)
  else decide (pa < 2 ^ 52)

/-- Host and peer memory (15 Table 15.1). -/
def isHostPa (pa : Nat) : Bool := decide (2 ^ 48 ≤ pa)

/-- The die on which a physical address is homed; host memory is homed on none. -/
def homeDie (pa : Nat) : Option Nat := if isHostPa pa then none else some (Config.stackDie (pa / 2 ^ 36))

def State.readPa (s : State) (pa n : Nat) : Nat := Memory.readN s.mem pa n

/-- Whether a granule of the range is poisoned (15 R214). -/
def poisonIn (g : List Nat) (a n : Nat) : Bool := (granulesOf a n).any (fun x => g.contains x)

/-- The granules that a write of the range covers whole (15 R214). -/
def coveredGranules (a n : Nat) : List Nat :=
  (granulesOf a n).filter (fun g => decide (a ≤ g * 16) && decide (g * 16 + 16 ≤ a + n))

/-- Writes physical bytes; a write of a whole granule clears its poison (15 R214). -/
def State.writePa (s : State) (pa n v : Nat) : State :=
  { s with
    mem := Memory.writeN s.mem pa v n
    memPoison := if s.memPoison.isEmpty then [] else s.memPoison.filter (fun g => !(coveredGranules pa n).contains g) }

/-- Marks the granules of a physical range as poisoned. -/
def State.poisonPa (s : State) (pa n : Nat) : State :=
  { s with memPoison := s.memPoison ++ (granulesOf pa n).filter (fun g => !s.memPoison.contains g) }

def State.readSram (s : State) (i n : Nat) : Nat := Memory.readN s.sram i n

def State.writeSram (s : State) (i n v : Nat) : State :=
  { s with
    sram := Memory.writeN s.sram i v n
    sramPoison :=
      if s.sramPoison.isEmpty then [] else s.sramPoison.filter (fun g => !(coveredGranules i n).contains g) }

def State.poisonSram (s : State) (i n : Nat) : State :=
  { s with sramPoison := s.sramPoison ++ (granulesOf i n).filter (fun g => !s.sramPoison.contains g) }

/-! ### Revision views (21 R292, R293, R304) -/

/-- The region of a domain that holds a virtual address. -/
def State.regionOf (s : State) (dom va : Nat) : Option Region :=
  (tgetD s.regions dom []).find? (fun r => decide (r.base ≤ va) && decide (va < r.base + r.len))

/-- Whether the line of an address is revisioned for a domain (21 R292). -/
def State.revisioned (s : State) (dom va : Nat) (revd : Bool) (attr : Nat) : Bool :=
  revd && attr != 3 && (s.regionOf dom va).isSome

/-- The line as main memory holds it. -/
def State.baseLine (s : State) (pl : Nat) : VLine :=
  ⟨s.readPa (pl * 64) 64,
    (List.range 4).foldl (fun m i => m + b2n (s.memPoison.contains (pl * 4 + i)) * 2 ^ i) 0, 0⟩

/-- A line in the view of a revision: its own copy, else its ancestor image, else the view of its parent
(21 R293). The depth is at most 15. -/
def State.viewLine (s : State) : Nat → Nat → Nat → VLine
  | 0, _, pl => s.baseLine pl
  | fuel + 1, r, pl =>
    match tget s.revs r with
    | none => s.baseLine pl
    | some v =>
      match tget v.view pl with
      | some l => l
      | none =>
        match tget v.anc pl with
        | some l => l
        | none => s.viewLine fuel v.parent pl

/-- The line in a view. -/
def State.lineIn (s : State) (r pl : Nat) : VLine := if r = 0 then s.baseLine pl else s.viewLine 16 r pl

/-- Before a view first changes a line, the children forked from it keep the line as their ancestor image
(21 R293). -/
def State.keepAncestors (s : State) (r pl : Nat) (old : VLine) : State :=
  { s with
    revs := s.revs.map (fun e =>
      if e.2.parent == r && (tget e.2.anc pl).isNone then (e.1, { e.2 with anc := tset e.2.anc pl old }) else e) }

/-- Replaces bytes [o, o + n) of a line. -/
def VLine.put (l : VLine) (o n v va : Nat) : VLine :=
  { data := putBits l.data (8 * (o + n) - 1) (8 * o) v
    poison := (List.range 4).foldl
      (fun m i => m + b2n (bit l.poison i && !(decide (o ≤ i * 16) && decide (i * 16 + 16 ≤ o + n))) * 2 ^ i) 0
    line := va / 64 }

/-- Writes bytes of one line in a view. -/
def State.writeView (s : State) (r pa n v va : Nat) : State :=
  let pl := pa / 64
  let old := s.lineIn r pl
  let s := if s.revs.isEmpty then s else s.keepAncestors r pl old
  if r = 0 then s.writePa pa n v
  else
    match tget s.revs r with
    | none => s.writePa pa n v
    | some x => { s with revs := tset s.revs r { x with view := tset x.view pl (old.put (pa % 64) n v va) } }

/-- The revision whose view an L1 line holds; 0 for a line that is not revisioned (21 R292, R304). -/
def State.lineView (s : State) (l : L1Line) : Nat := if s.revisioned l.dom (l.line * 64) l.revd 0 then l.rev else 0

/-- Whether an L1 line is a copy of the physical line in a view: a view has its own physical line (15 R206,
21 R304). -/
def State.sameLine (s : State) (l : L1Line) (pl rev : Nat) (revisioned : Bool) : Bool :=
  l.pa == pl && s.lineView l == (if revisioned then rev else 0)

/-- Every L1 copy of a physical line of a view, but the one of a core, returns its words and is invalidated
(15 R209). -/
def State.invalidateOthers (s : State) (keep : Option Nat) (pl rev : Nat) (revisioned : Bool) : State :=
  { s with
    cores := s.cores.map (fun e =>
      if keep == some e.1 || !e.2.l1.any (fun l => s.sameLine l pl rev revisioned) then e
      else (e.1, { e.2 with l1 := e.2.l1.filter (fun l => !s.sameLine l pl rev revisioned) })) }

/-- Splits a range at 64-byte lines: (offset, bytes) pieces. -/
def linePieces (a n : Nat) : List (Nat × Nat) :=
  if n = 0 then []
  else (List.range ((a + n - 1) / 64 + 1 - a / 64)).map (fun i =>
    let lo := Nat.max a ((a / 64 + i) * 64)
    let hi := Nat.min (a + n) ((a / 64 + i + 1) * 64)
    (lo - a, hi - lo))

/-- A write by a unit of the device at the home slice: every L1 copy of its lines is invalidated before it (15 R209). -/
def State.putHome (s : State) (pa n v : Nat) : State :=
  ((linePieces pa n).foldl (fun s p => s.invalidateOthers none ((pa + p.1) / 64) 0 false) s).writePa pa n v

/-- A page as an access meets it (15 R196, R198). -/
structure Xlat where
  pa : Nat
  attr : Nat
  revd : Bool
  deriving DecidableEq, Repr

/-- Reads bytes of global memory in the view of a revision; none when a granule is poisoned. -/
def State.readVirt (s : State) (dom rev va : Nat) (x : Xlat) (n : Nat) : Option Nat :=
  let r := if s.revisioned dom va x.revd x.attr then rev else 0
  if r = 0 then (if poisonIn s.memPoison x.pa n then none else some (s.readPa x.pa n))
  else
    (linePieces x.pa n).foldl (fun acc p =>
      acc.bind (fun v =>
        let a := x.pa + p.1
        let l := s.lineIn r (a / 64)
        if (granulesOf (a % 64) p.2).any (bit l.poison) then none
        else some (v + l.data / 2 ^ (8 * (a % 64)) % 2 ^ (8 * p.2) * 2 ^ (8 * p.1)))) (some 0)

/-- Writes bytes of global memory in the view of a revision. -/
def State.writeVirt (s : State) (dom rev va : Nat) (x : Xlat) (n v : Nat) : State :=
  let r := if s.revisioned dom va x.revd x.attr then rev else 0
  if r = 0 && s.revs.isEmpty then s.writePa x.pa n v
  else
    (linePieces x.pa n).foldl
      (fun s p => s.writeView r (x.pa + p.1) p.2 (v / 2 ^ (8 * p.1) % 2 ^ (8 * p.2)) (va + p.1)) s

/-! ### Page walks and translation buffers (15 R195 to R198, R204) -/

/-- Levels of the page table: index bits and page bits below (15 Table 15.4). -/
def pageLevels : List (Nat × Nat × Nat) := [(0, 55, 46), (1, 45, 36), (2, 35, 30), (3, 29, 21), (4, 20, 16)]

/-- Bytes of the table at a level. -/
def tableBytes (level : Nat) : Nat :=
  match level with
  | 0 | 1 => 8192
  | 2 => 512
  | 3 => 4096
  | _ => 256

/-- What a walk found: the leaf's page and the address of its entry. -/
structure Leaf where
  vpage : Nat
  size : Nat
  base : Nat
  attr : Nat
  revd : Bool
  entry : Nat
  deriving DecidableEq, Repr

/-- Walks from a table on; the failure is a kind of Table 15.7 (15 R198). -/
def State.walkFrom (s : State) (va : Nat) : List (Nat × Nat × Nat) → Nat → Except Nat Leaf
  | [], _ => .error 1
  | (level, hi, lo) :: rest, table => do
    let entry := table + 8 * bits va hi lo
    if !s.present entry || poisonIn s.memPoison entry 8 then throw 5
    let e := s.readPa entry 8
    if !bit e 63 then throw 0
    let leaf := bit e 62
    let addr := bits e 51 8 * 256
    if bits e 56 52 != 0 || bits e 7 0 != 0 then throw 1
    if leaf then
      if level == 0 || addr % 2 ^ lo != 0 then throw 1
      let attr := bits e 61 60
      let pa := addr + va % 2 ^ lo
      if !s.present pa then throw 2
      if (attr == 3) != isHostPa pa then throw 3
      pure ⟨va / 2 ^ lo * 2 ^ lo, 2 ^ lo, addr, attr, bit e 57, entry⟩
    else
      if level == 4 || bits e 61 60 != 0 || bit e 57 then throw 1
      if addr % tableBytes (level + 1) != 0 then throw 1
      s.walkFrom va rest addr

def portWord (s : State) (i : Nat) : Nat := nth s.port.block i 0

/-- A walk of the package's page table (15 R195). -/
def State.walk (s : State) (va : Nat) : Except Nat Leaf := s.walkFrom va pageLevels (bits (portWord s 1) 51 13 * 8192)

/-- The page bits of an address: those of its leaf, where a walk reaches one, and else of the smallest page
(DEDUCED: log 15). -/
def State.leafBits (s : State) (va : Nat) : List (Nat × Nat × Nat) → Nat → Nat
  | [], _ => 16
  | (level, hi, lo) :: rest, table =>
    let entry := table + 8 * bits va hi lo
    let e := s.readPa entry 8
    if !s.present entry || poisonIn s.memPoison entry 8 || !bit e 63 then 16
    else if bit e 62 then if level = 0 then 16 else lo
    else s.leafBits va rest (bits e 51 8 * 256)

def State.pageBits (s : State) (va : Nat) : Nat := s.leafBits va pageLevels (bits (portWord s 1) 51 13 * 8192)

/-- Writes gathered A and D into a leaf entry by an atomic OR at its home slice (15 R204, R209). -/
def State.writeAD (s : State) (e : TlbEntry) : State :=
  if !e.acc && !e.dirty then s
  else
    let old := s.readPa e.leaf 8
    let w1 := if e.acc then putBits old 59 59 1 else old
    s.putHome e.leaf 8 (if e.dirty then putBits w1 58 58 1 else w1)

/-- An entry with its gathered state written out. -/
def TlbEntry.clean (e : TlbEntry) : TlbEntry := { e with acc := false, dirty := false, since := none }

/-- The entry of a translation buffer that covers an address in a revision. -/
def ClusterSt.tlbFind (c : ClusterSt) (va rev : Nat) : Option TlbEntry :=
  c.tlb.find? (fun e => e.rev == rev && decide (e.vpage ≤ va) && decide (va < e.vpage + e.size))

/-- Gathers A, and D for a store, in the covering entry (15 R204). -/
def ClusterSt.gather (c : ClusterSt) (va rev : Nat) (store : Bool) (now : Nat) (user : Option Nat) : ClusterSt :=
  { c with
    tlb := c.tlb.map (fun e =>
      if e.rev == rev && decide (e.vpage ≤ va) && decide (va < e.vpage + e.size) then
        { e with
          acc := true
          dirty := e.dirty || store
          since := some (e.since.getD now)
          users := match user with
            | some l => if e.users.contains l then e.users else l :: e.users
            | none => e.users }
      else e) }

/-- Installs the entry of a walk; a buffer of 2,048 entries gives up its oldest, its gathered state written
(DESIGN CHOICE: log 20). -/
def State.installTlb (s : State) (ck rev : Nat) (l : Leaf) : State :=
  let c := s.clusterAt ck
  let e : TlbEntry := ⟨l.vpage, l.size, rev, l.base, l.attr, l.revd, l.entry, false, false, none, []⟩
  match c.tlb with
  | old :: rest =>
    if decide (2048 ≤ c.tlb.length) then
      (s.writeAD old).setClusterAt ck { c with tlb := rest ++ [e] }
    else s.setClusterAt ck { c with tlb := c.tlb ++ [e] }
  | [] => s.setClusterAt ck { c with tlb := [e] }

/-- Translation at a cluster's buffer: a hit, or a walk whose entry is installed (15 R198). -/
def State.translate (s : State) (ck va rev : Nat) (store : Bool) (user : Option Nat) : Except Nat Xlat × State :=
  let now := s.clock (ck / 32)
  match (s.clusterAt ck).tlbFind va rev with
  | some e =>
    let pa := e.base + (va - e.vpage)
    if !s.present pa then (.error 2, s)
    else (.ok ⟨pa, e.attr, e.revd⟩, s.setClusterAt ck ((s.clusterAt ck).gather va rev store now user))
  | none =>
    match s.walk va with
    | .error k => (.error k, s)
    | .ok l =>
      let s := s.installTlb ck rev l
      (.ok ⟨l.base + (va - l.vpage), l.attr, l.revd⟩,
        s.setClusterAt ck ((s.clusterAt ck).gather va rev store now user))

/-- The page of an address as a cluster's buffer or a walk gives it, with nothing gathered or installed. -/
def State.physOf (s : State) (ck va rev : Nat) : Option Xlat :=
  match (s.clusterAt ck).tlbFind va rev with
  | some e => some ⟨e.base + (va - e.vpage), e.attr, e.revd⟩
  | none =>
    match s.walk va with
    | .ok l => some ⟨l.base + (va - l.vpage), l.attr, l.revd⟩
    | .error _ => none

/-! ### L1 and L2 (15 R206 to R209, R212; DEDUCED: log 6, DESIGN CHOICE: log 7) -/

/-- The words of its line that a range touches, as a mask. -/
def wordMask (a n : Nat) : Nat :=
  (List.range 16).foldl (fun m i => m + b2n (overlap (a % 64) n (i * 4) 4) * 2 ^ i) 0

/-- The words of its line that a range covers whole, as a mask. -/
def wholeWords (a n : Nat) : Nat :=
  (List.range 16).foldl (fun m i => m + b2n (decide (a % 64 ≤ i * 4) && decide (i * 4 + 4 ≤ a % 64 + n)) * 2 ^ i) 0

/-- The line of a core's L1 with a matching tag. -/
def CoreSt.l1Find (c : CoreSt) (va dom rev : Nat) : Option L1Line :=
  c.l1.find? (fun l => l.line == va / 64 && l.dom == dom && l.rev == rev)

/-- A load's hit: every word it reads is valid in a line of matching tag (15 R206). -/
def CoreSt.l1Hit (c : CoreSt) (va n dom rev : Nat) : Option (Nat × Bool) :=
  (c.l1Find va dom rev).bind (fun l =>
    if decide (va / 64 = (va + n - 1) / 64) && Nat.land l.valid (wordMask va n) == wordMask va n then
      some (l.pa * 64 + va % 64, l.revd)
    else none)

/-- Puts a line at the head of an L1; a set of four full ways gives up its least recently used line (DESIGN CHOICE: log 7). -/
def CoreSt.l1Put (c : CoreSt) (l : L1Line) : CoreSt :=
  let others := c.l1.filter (fun x => !(x.line == l.line && x.dom == l.dom && x.rev == l.rev))
  let same := others.filter (fun x => x.line % 256 == l.line % 256)
  match same.getLast? with
  | some old => if decide (4 ≤ same.length) then { c with l1 := l :: others.erase old } else { c with l1 := l :: others }
  | none => { c with l1 := l :: others }

/-- Marks of the terp registers that cover a request of a domain from a die (15 R212). -/
def DieSt.marks (d : DieSt) (dom va : Nat) : List Nat :=
  (List.range 8).filter (fun i =>
    match vget d.terps i none with
    | some t => t.dom == dom && decide (t.base ≤ va) && decide (va < t.base + t.len)
    | none => false)

/-- Whether an address lies in a terp register's pinned window (15 R212). -/
def Terp.inWindow (t : Terp) (va : Nat) : Bool := decide (t.base ≤ va) && decide (va < t.base + Nat.min t.len 65536)

/-- The slice of an L2 line, by stack and channel, and its set there. A slice of 1 MiB with 16 ways of 256 bytes has 256
sets (01 R16; 15 R208); which bits of the address choose among them the manual does not state: the model takes PA[20:13]
(DESIGN CHOICE: log 115). -/
def State.l2SetOf (s : State) (pl : Nat) : Nat :=
  let pa := pl * 256
  s.channelOf pa + 32 * (pa / 2 ^ 36 * 256 + bits pa 20 13)

/-- The lines of the L2 set of a line but for that line, on its home die. -/
def State.l2Others (s : State) (h pl : Nat) : List (Nat × L2Line) :=
  let set := s.l2SetOf pl
  (s.dieAt h).l2.filter (fun e => s.l2SetOf e.1 == set && e.1 != pl)

/-- The victim among the lines of a set: of the unpinned ones a STRM line before another, the least recently used first
(15 R208). -/
def l2Victim (ls : List (Nat × L2Line)) : Option Nat :=
  let free := ls.filter (fun e => e.2.pins.isEmpty)
  let strm := free.filter (fun e => e.2.strm)
  ((if strm.isEmpty then free else strm).foldl (fun (o : Option (Nat × L2Line)) e =>
    match o with
    | none => some e
    | some x => if e.2.used < x.2.used then some e else some x) none).map (·.1)

/-- Room for a line in its set of sixteen ways: where none is invalid, the victim goes (01 R16; 15 R208). -/
def State.l2Room (s : State) (h pl : Nat) : DieSt :=
  let d := s.dieAt h
  let ls := s.l2Others h pl
  if (tget d.l2 pl).isSome || decide (ls.length < 16) then d
  else
    match l2Victim ls with
    | some v => { d with l2 := terase d.l2 v }
    | none => d

/-- A marked request counts in the terp registers of its die that mark it: a hit on a pinned line where their window holds
it, a fill where it lies outside the window or was not pinned (15 R212). -/
def Terp.bump (t : Terp) (va : Nat) (hit fill pinned : Bool) : Terp :=
  if hit && t.inWindow va then { t with hits := satAdd32 t.hits 1 }
  else if fill && !(t.inWindow va && pinned) then { t with missed := satAdd32 t.missed 1 }
  else t

/-- A request of a die reaches the home slice: the line is held, and the terp registers of the requester's die that mark it
pin it, where it is homed on that die, or count it. The first request that reaches a sector after its fill is the one that
it was filled for (15 R208, R212). -/
def State.l2Touch (s : State) (die dom va pa : Nat) (attr : Nat) (write : Bool) : State :=
  match homeDie pa with
  | none => s
  | some h =>
    let pl := pa / 256
    let sector := pa / 64 % 4
    let d := s.l2Room h pl
    let l := (tget d.l2 pl).getD ⟨0, 0, false, attr == 1, [], dom, 0⟩
    let held := bit l.sectors sector && !bit l.unserved sector
    let marks := (s.dieAt die).marks dom va
    let inWin (i : Nat) : Bool := match vget (s.dieAt die).terps i none with
      | some t => t.inWindow va
      | none => false
    let wins := if h == die then marks.filter inWin else []
    let pinned := ((s.l2Others h pl).filter (fun e => !e.2.pins.isEmpty)).length
    let canPin := h == die && (!l.pins.isEmpty || decide (pinned < 8))
    let pins := if canPin then l.pins ++ wins.filter (fun i => !l.pins.contains i) else l.pins
    let hit := held && !l.pins.isEmpty
    let s : State := s.setDie h
      { d with
        l2 := tset d.l2 pl
          { l with
            sectors := putBits l.sectors sector sector 1
            unserved := putBits l.unserved sector sector 0
            dirty := l.dirty || write
            pins := pins
            writer := if write then dom else l.writer
            used := d.l2Uses }
        l2Uses := d.l2Uses + 1 }
    if marks.isEmpty then s
    else
      let r := s.dieAt die
      s.setDie die
        { r with terps := marks.foldl (fun v i => vmod v i (fun o => o.map (fun t => t.bump va hit (!held) canPin))) r.terps }

/-- A read recalls an owned copy to a shared one (15 R207). -/
def State.recallShared (s : State) (keep : Nat) (pl rev : Nat) (revisioned : Bool) : State :=
  { s with
    cores := s.cores.map (fun e =>
      if e.1 == keep || !e.2.l1.any (fun l => s.sameLine l pl rev revisioned && l.owned) then e
      else (e.1,
        { e.2 with
          l1 := e.2.l1.map (fun l =>
            if s.sameLine l pl rev revisioned then { l with owned := false, dirty := 0 } else l) })) }

/-- A core's own copy under another tag is recalled before a request for the line is served (15 R206). -/
def State.recallAliases (s : State) (ck va dom rev : Nat) (x : Xlat) : State :=
  let rv := s.revisioned dom va x.revd x.attr
  let alias_ (l : L1Line) : Bool :=
    s.sameLine l (x.pa / 64) rev rv && !(l.line == va / 64 && l.dom == dom && l.rev == rev)
  let c := s.coreAt ck
  if c.l1.any alias_ then s.setCoreAt ck { c with l1 := c.l1.filter (fun l => !alias_ l) } else s

/-- The fill of a load that missed, or of a prefetch; the L1 retains COH lines only (15 R206). -/
def State.l1Fill (s : State) (ck va dom rev : Nat) (x : Xlat) (own : Bool) : State :=
  let s := s.recallAliases ck va dom rev x
  if x.attr != 0 then s
  else
    let rv := s.revisioned dom va x.revd x.attr
    let pl := x.pa / 64
    let s := if own then s.invalidateOthers (some ck) pl rev rv else s.recallShared ck pl rev rv
    let c := s.coreAt ck
    let l := match c.l1Find va dom rev with
      | some l => { l with valid := 0xFFFF, owned := l.owned || own }
      | none => ⟨va / 64, dom, rev, pl, 0xFFFF, 0, own, x.revd, dom⟩
    s.setCoreAt ck (c.l1Put l)

/-- A store to a COH line is performed in the L1 under ownership; to any other line at its home (15 R207, R209). -/
def State.l1Store (s : State) (ck va n dom rev : Nat) (x : Xlat) : State :=
  let rv := s.revisioned dom va x.revd x.attr
  let pl := x.pa / 64
  if x.attr != 0 then s.invalidateOthers none pl rev rv
  else
    let s := (s.recallAliases ck va dom rev x).invalidateOthers (some ck) pl rev rv
    let c := s.coreAt ck
    let whole := wholeWords va n
    let touched := wordMask va n
    let old := match c.l1Find va dom rev with
      | some l => l
      | none => ⟨va / 64, dom, rev, pl, 0, 0, true, x.revd, dom⟩
    let needFill := Nat.land old.valid touched != touched && touched != whole
    let l := { old with
      valid := if needFill then 0xFFFF else Nat.lor old.valid touched
      dirty := Nat.lor old.dirty touched
      owned := true
      writer := dom }
    s.setCoreAt ck (c.l1Put l)

/-! ### Stops of a word -/

/-- Why a word does not take effect: a trap, or a wait. -/
inductive Stop where
  | trap (cause : Nat) (eaddr einfo : Word) (word : Option Nat)
  | trapAt (cause : Nat) (epc eaddr einfo : Word)
  | park (why : ParkWhy)
  | parkAfter (why : ParkWhy) (s : State)       -- the bundle has issued with these effects
  deriving DecidableEq, Repr

/-- A meaning: the state with the word's effects, or a stop. -/
abbrev Eff := Except Stop State

def trap (cause : Nat) (eaddr einfo : Word) : Except Stop α := .error (.trap cause eaddr einfo none)

/-- Rights an access needs: R 1, W 2, X 4 (15 Table 15.3). -/
def needR : Nat := 1
def needW : Nat := 2
def needX : Nat := 4

/-- A protection trap on an access (15 Table 15.3). -/
def protTrap (addr need reason : Nat) : Except Stop α := trap 0x06 (w64 addr) (w64 (need * 16 + reason))

/-- A register operand or descriptor that breaks its limits: EINFO 0x04 (15 Table 15.3). -/
def operandTrap (w : Word) : Except Stop α := trap 0x06 w 0x04

/-! ### Protection (15 R192 to R194) -/

/-- Searches descriptors [lo, hi) of a list by halving: the region of a 64 KiB unit, or a REASON of Table 15.3. Only what it
reads can fail it: a descriptor with an error or a reserved bit, one whose LAST is below its BASE, and one that does not
stand apart between those read before, whose bounds are [least, most) (15 R192, R193; DESIGN CHOICE: log 112). -/
def State.halve (s : State) (list unit : Nat) : Nat → Nat → Nat → Nat → Nat → Except Nat (Nat × Nat)
  | 0, _, _, _, _ => .error 1
  | fuel + 1, lo, hi, least, most =>
    if hi ≤ lo then .error 1
    else
      let mid := (lo + hi) / 2
      let a := list + 16 * mid
      let x := s.readPa a 8
      let y := s.readPa (a + 8) 8
      let base := bits x 55 16
      let last := bits y 55 16
      if poisonIn s.memPoison a 16 || bits x 59 56 != 0 || bits x 15 0 != 0 || bits y 63 56 != 0 || bits y 15 0 != 0 ||
          decide (last < base) || decide (base < least) || decide (most ≤ last) then .error 5
      else if unit < base then s.halve list unit fuel lo mid least base
      else if last < unit then s.halve list unit fuel (mid + 1) hi (last + 1) most
      else .ok (x, y)

/-- The search of a domain's list for the region of an address; the failure is a REASON of Table 15.3. A COUNT above 256, which
the manual does not judge, is a reserved value with reason 5, and a table or list at an absent address reads as its bytes of
memory read (DESIGN CHOICE: log 123). -/
def State.searchRegion (s : State) (dom addr : Nat) : Except Nat PlbEntry :=
  let ent := bits (portWord s 0) 51 4 * 16 + 16 * dom
  let w0 := s.readPa ent 8
  let w1 := s.readPa (ent + 8) 8
  let list := bits w0 51 4 * 16
  let n := bits w1 8 0
  if poisonIn s.memPoison ent 16 || w0 != list || w1 != n || decide (256 < n) then .error 5
  else
    match s.halve list (addr / 65536) 9 0 n 0 (2 ^ 40) with
    | .error r => .error r
    | .ok (x, y) => .ok ⟨dom, bits x 55 16, bits y 55 16, bit x 63, bit x 62, bit x 61, bit x 60⟩

/-- The PLB entry that covers an address for a domain. -/
def CoreSt.plbFind (c : CoreSt) (dom addr : Nat) : Option PlbEntry :=
  c.plb.find? (fun e => e.dom == dom && decide (e.base ≤ addr / 65536) && decide (addr / 65536 ≤ e.last))

/-- Makes an entry the most recently used; 64 entries are kept (15 R193). -/
def CoreSt.plbUse (c : CoreSt) (e : PlbEntry) : CoreSt := { c with plb := (e :: c.plb.erase e).take 64 }

/-- Result of checking one byte range against the rights of a domain. -/
inductive Rights where
  | ok (used : List PlbEntry)
  | fail (addr reason : Nat)
  | miss (addr : Nat)
  deriving DecidableEq, Repr

/-- The rights of the bytes [addr, end), region by region (15 R193, R194). -/
def State.rights (s : State) (ck dom : Nat) (sup : Bool) (need : Nat) : Nat → Nat → Nat → List PlbEntry → Rights
  | 0, addr, _, _ => .fail addr 1
  | fuel + 1, addr, stop, used =>
    if stop ≤ addr then .ok used
    else if decide (2 ^ 56 ≤ addr) then .fail addr 6
    else
      match (s.coreAt ck).plbFind dom addr with
      | none =>
        match s.searchRegion dom addr with
        | .error r => .fail addr r
        | .ok _ => .miss addr
      | some e =>
        if e.s && !sup then .fail addr 3
        else if (bit need 0 && !e.r) || (bit need 1 && !e.w) || (bit need 2 && !e.x) then .fail addr 2
        else s.rights ck dom sup need fuel ((e.last + 1) * 65536) stop (e :: used)

/-- Marks PLB entries as used. -/
def State.usePlb (s : State) (ck : Nat) (used : List PlbEntry) : State :=
  s.setCoreAt ck (used.foldl (fun c e => c.plbUse e) (s.coreAt ck))

/-- The check of a global range at issue: a trap of cause 0x06, a wait for the PLB, or the state with the entries
used (15 R193, R194). -/
def State.checkGlobal (s : State) (addr n need : Nat) : Eff :=
  let t := s.src
  let ck := Party.coreKey s.cur
  match s.rights ck t.dom t.sup need 260 addr (addr + n) [] with
  | .ok used => .ok (s.usePlb ck used)
  | .fail a r => protTrap a need r
  | .miss a => .error (.park (.plb a))

/-! ### Local addresses (13 R170, R171; 01 R15) -/

def isLocal (a : Nat) : Bool := bit a 63

/-- A window as the words of the bundle see it: as it stood before the bundle, but that the C-word may have closed it (05 R53). -/
def State.windowSeen (s : State) (w : Nat) : Option Window :=
  let now := tget (s.core s.cur).windows w
  match s.issue.pre.bind (·.before) with
  | none => now
  | some b => (tget b.2 w).bind (fun x => if now.any (fun y => y.st == .closed) then now else some x)

/-- The polder checks of an access to a local address, after its form, alignment and extent: the byte of the polder
(13 R171). -/
def State.checkWindow (s : State) (addr : Nat) : Except Stop Nat :=
  let w := bits addr 21 16
  let off := bits addr 15 0
  if w == 0 then .ok (homeByte s.cur off)
  else
    match s.windowSeen w with
    | none => trap 0x04 (w64 addr) (w64 w)
    | some x =>
      if x.st == .closed then trap 0x04 (w64 addr) (w64 w)
      else if x.st == .pending && x.holder == 0 then .error (.park (.window w))
      else if x.pin.isSome && x.pin != some s.cur.slot then trap 0x04 (w64 addr) (w64 w)
      else if x.dom != s.src.dom then trap 0x06 (w64 addr) (w64 w)
      else if x.st == .pending then .error (.park (.window w))
      else .ok (polderBase x.polder + off)

/-- The checks of a local range (13 R171): reserved bits, alignment, extent, the low region, the window. -/
def State.checkLocal (s : State) (addr n align need : Nat) : Except Stop Loc := do
  if bits addr 62 22 != 0 then protTrap addr need 6
  if addr % align != 0 then protTrap addr need 4
  if decide (65536 < bits addr 15 0 + n) then protTrap addr need 4
  if bits addr 21 16 == 0 && bit need 1 && !s.src.sup && decide (bits addr 15 0 < 0x4000) then protTrap addr need 2
  let i ← s.checkWindow addr
  pure (.sram i)

/-- The checks of an access to [addr, addr + n) at issue, items 1 and 2 of 15 R217. -/
def State.checkAccess (s : State) (addr n align need : Nat) : Except Stop (Loc × State) := do
  if isLocal addr then
    let l ← s.checkLocal addr n align need
    pure (l, s)
  else
    if bits addr 62 56 != 0 then protTrap addr need 6
    if addr % align != 0 then protTrap addr need 4
    let s ← s.checkGlobal addr n need
    pure (.va addr, s)

/-! ### The weir table (19 R252, R253) -/

/-- Where [l, l + n) overlaps [m, m + k) in the same space: bytes from the start of the first. -/
def locOverlap (l : Loc) (n : Nat) (m : Loc) (k : Nat) : Option Nat :=
  match l, m with
  | .va a, .va b => if overlap a n b k then some (b - a) else none
  | .sram a, .sram b => if overlap a n b k then some (b - a) else none
  | .pa a, .pa b => if overlap a n b k then some (b - a) else none
  | _, _ => none

/-- Whether a place lies in a polder. -/
def inPolder (n : Nat) (l : Loc) (len : Nat) : Bool :=
  match l with
  | .sram i => overlap i len (polderBase n) 65536
  | _ => false

/-- Where [l, l + n) overlaps a weir entry: bytes from its start to the first byte common with any run of the entry. -/
def Weir.overlap (e : Weir) (l : Loc) (n : Nat) : Option Nat :=
  e.more.foldl (fun (o : Option Nat) r =>
    match o, locOverlap l n r.1 r.2 with
    | some a, some b => some (Nat.min a b)
    | none, b => b
    | a, none => a) (locOverlap l n e.loc e.len)

/-- The conflict of an access with the table: (offset of the lowest conflicting byte, entry, reason). -/
def weirConflict (t : Vector (Option Weir) 32) (l : Loc) (n : Nat) (write : Bool) : Option (Nat × Nat × Nat) :=
  (List.range 32).foldl (fun best i =>
    match vget t i none with
    | none => best
    | some e =>
      if !e.dest && !write then best
      else
        match e.overlap l n with
        | none => best
        | some o =>
          match best with
          | some (b, _, _) => if o < b then some (o, i, if e.dest then 1 else 2) else best
          | none => some (o, i, if e.dest then 1 else 2)) none

/-- The weir check of an access at issue: cause 0x08 (19 R253). -/
def State.checkWeir (s : State) (addr : Nat) (l : Loc) (n : Nat) (write : Bool) : Except Stop Unit :=
  match weirConflict (s.cluster s.cur).weir l n write with
  | none => .ok ()
  | some (o, i, r) => trap 0x08 (w64 (addr + o)) (w64 (i * 16 + r))

/-- Why a registration fails: a conflict (3) with its entry and lowest conflicting byte, or too few free entries
(4) (19 R252). -/
inductive WeirFail where
  | conflict (entry off : Nat)
  | full
  deriving DecidableEq, Repr

/-- A registration's conflicts: a destination with any entry, a source with a destination. -/
def weirRegConflict (t : Vector (Option Weir) 32) (l : Loc) (n : Nat) (dest : Bool) : Option (Nat × Nat) :=
  (List.range 32).foldl (fun best i =>
    match vget t i none with
    | none => best
    | some e =>
      if !dest && !e.dest then best
      else
        match e.overlap l n, best with
        | none, b => b
        | some o, none => some (i, o)
        | some o, some (j, b) => if o < b then some (i, o) else some (j, b)) none

/-- Registers ranges for an operation, all of them or none. -/
def ClusterSt.weirRegister (c : ClusterSt) (op : Nat) (rs : List (Loc × Nat × Bool)) : Except WeirFail ClusterSt :=
  match rs.findSome? (fun r => (weirRegConflict c.weir r.1 r.2.1 r.2.2)) with
  | some (i, o) => .error (.conflict i o)
  | none =>
    let free := (List.range 32).filter (fun i => (vget c.weir i none).isNone)
    if free.length < rs.length then .error .full
    else
      .ok { c with
        weir := (free.zip rs).foldl (fun v e => vset v e.1 (some ⟨op, e.2.1, e.2.2.1, e.2.2.2, []⟩)) c.weir }

/-- Registers the destination range of an outbound stream, given as runs: each with its offset in the range, its place and
its bytes (19 R252). -/
def ClusterSt.weirRange (c : ClusterSt) (op : Nat) (runs : List (Nat × Loc × Nat)) : Except WeirFail ClusterSt :=
  let bad := runs.filterMap (fun r => (weirRegConflict c.weir r.2.1 r.2.2 true).map (fun x => (x.1, r.1 + x.2)))
  match bad.foldl (fun (o : Option (Nat × Nat)) x =>
      match o with
      | none => some x
      | some y => if x.2 < y.2 then some x else some y) none with
  | some (i, o) => .error (.conflict i o)
  | none =>
    match (List.range 32).find? (fun i => (vget c.weir i none).isNone), runs with
    | some i, r :: rest => .ok { c with weir := vset c.weir i (some ⟨op, r.2.1, r.2.2, true, rest.map (·.2)⟩) }
    | _, _ => .error .full

/-- Removes the entries of an operation. -/
def ClusterSt.weirRemove (c : ClusterSt) (op : Nat) : ClusterSt :=
  { c with weir := c.weir.map (fun e => if e.any (fun x => x.op == op) then none else e) }

def State.weirRemove (s : State) (ck op : Nat) : State := s.setClusterAt ck ((s.clusterAt ck).weirRemove op)

end Sys2Proof.Machine
end

