-- ==== Sys2Proof/Machine/Faults.lean ====
section
/-! DEFINITION. Asynchronous events, the end of waits that have issued, and fault records (09 R114 to R117, R121;
23 R319, R334). -/

namespace Sys2Proof.Machine

/-- A bundle of a slot has retired: EV15 of its core, and the progress counter of its queue (07 Table 7.7; 23 R321). -/
def State.retire (s : State) (p : Party) : State :=
  let s := s.addEv (Party.coreKey p) evRetired 1
  match s.thread? p with
  | none => s
  | some t =>
    match s.queueOfThread p t with
    | none => s
    | some q =>
      match s.queue q with
      | none => s
      | some x => s.setQueue q { x with progress := x.progress + 1, since := s.clock x.die }

/-- Writes a general register of a context from outside a bundle: it becomes full (15 R218). g0 discards it. -/
def Thread.putG (t : Thread) (r : Nat) (v : Word) : Thread :=
  if r = 0 then t else { t with g := vset t.g r (.val v) }

/-- The end of a wait that has issued: the slot goes on at the bundle after, unless the A-word of the pair is still to
take effect (03 R40, R41). -/
def State.endWait (s : State) (p : Party) : State :=
  match s.thread? p with
  | none => s
  | some t =>
    let t := { t with park := none, readyAt := Nat.max t.readyAt (s.clock p.die + 1) }
    if (tget s.rest (Party.key p)).isSome then s.setThread p t
    else (s.setThread p { t with pc := t.pc + 4 }).retire p

/-- SLEEP ends when its time has come or an event that R115 would take is pending; gd receives the time left
(09 R121). -/
def State.wakeSleep (s : State) (p : Party) : State :=
  match s.thread? p with
  | none => s
  | some t =>
    match t.park with
    | some ⟨.sleep u d, true, _, _⟩ =>
      let now := s.clock p.die
      if decide (u ≤ now) || (s.pendingEvent p).isSome then
        (s.setThread p (t.putG d (w64 (u - now)))).endWait p
      else s
    | _ => s

/-- Raises the timer event of a slot; one already pending merges (09 R114, R117). -/
def State.raiseTimer (s : State) (p : Party) : State := (s.mapThread p (fun t => t.setStatus stTpend true)).wakeSleep p

/-- The compare of TCMP with TIMER (09 R117). -/
def State.compareTimer (s : State) (p : Party) : State :=
  match s.thread? p with
  | none => s
  | some t =>
    if t.tcmp != 0 && decide (t.tcmp.toNat ≤ s.clock p.die % 2 ^ 64) then
      (s.setThread p { t with tcmp := 0 }).raiseTimer p
    else s

/-- Raises a memory-error event at a slot, with the address and index of its record; for a slot that holds no context
it stays pending at the slot (09 R116; 23 R319). -/
def State.raiseMem (s : State) (p : Party) (addr idx : Word) : State :=
  match s.thread? p with
  | some t => (s.setThread p { t.setStatus stEpend true with memEvent := (addr, idx) }).wakeSleep p
  | none =>
    let c := s.core p
    let e := tgetD c.slotEvents p.slot ⟨false, none⟩
    s.setCore p { c with slotEvents := tset c.slotEvents p.slot { e with mem := some (addr, idx) } }

/-- Queues a message for slot 15 of a core (09 R116). -/
def State.message (s : State) (p : Party) (kind : Nat) (info : Word) : State :=
  let c := s.core p
  let c := if c.msgs.length < 16 then { c with msgs := c.msgs ++ [(kind, info)] } else { c with msgLost := true }
  (s.setCore p c).wakeSleep ⟨p.die, p.core, 15⟩

/-- A party code (23 R332). -/
def Party.code (p : Party) : Nat := p.die * 4096 + p.core * 16 + p.slot

/-- A field of a record: its value, or a free value where the manual states none (DESIGN CHOICE: log 21). -/
def State.orFresh (s : State) (o : Option Nat) : Nat × State :=
  match o with
  | some v => (v, s)
  | none =>
    let (v, s) := s.fresh
    (v.toNat, s)

/-- Writes a fault record to a fault queue, or drops it and counts OVERRUN (23 R334). A KIND 1 record with NOTIFY valid
raises the memory-error event of the party named there. -/
def State.postFault (s : State) (fq cause kind dom : Nat) (queue party addr info : Option Nat) : State :=
  if !s.port.enable then s
  else
    let d := bits (portWord s 5) 51 5 * 32 + 32 * fq
    let w0 := s.readPa d 8
    let base := bits w0 51 5 * 32
    let size := 2 ^ bits w0 59 56
    let tail := s.readPa (d + 8) 4
    let head := s.readPa (d + 12) 4
    let notify := s.readPa (d + 16) 8
    if size ≤ (tail + 2 ^ 32 - head) % 2 ^ 32 then
      s.putHome (d + 20) 4 (bits notify 63 32 + 1)
    else
      let (queue, s) := s.orFresh queue
      let (party, s) := s.orFresh party
      let (addr, s) := s.orFresh addr
      let (info, s) := s.orFresh info
      let (n, s) := s.nextSeq
      let at_ := base + 32 * (tail % size)
      let s := s.putHome at_ 8
        (cause % 256 + kind % 256 * 2 ^ 8 + dom % 128 * 2 ^ 16 + queue % 256 * 2 ^ 24 + party % 65536 * 2 ^ 32)
      let s := s.putHome (at_ + 8) 8 addr
      let s := s.putHome (at_ + 16) 8 info
      let s := s.putHome (at_ + 24) 8 n
      let s := s.putHome (d + 8) 4 (tail + 1)
      if kind == 1 && decide (fq < 128) && bit notify 16 then
        s.raiseMem (partyOf (bits notify 15 0)) (w64 at_) (w64 tail)
      else s

/-- A record on the host's queue. -/
def State.postHost (s : State) (cause kind dom : Nat) (queue party addr info : Option Nat) : State :=
  s.postFault 128 cause kind dom queue party addr info

/-- An asynchronous memory error on a domain's queue (15 R215; 23 R334). -/
def State.postMemError (s : State) (dom cause : Nat) (party : Option Party) (addr : Option Nat) : State :=
  s.postFault dom cause 1 dom none (party.map Party.code) addr none

end Sys2Proof.Machine
end

