-- ==== Sys2Proof/Machine/Flights.lean ====
section
/-! DEFINITION. Operations in flight: which may be performed, in the orders of spec/17; performing loads, stores and
atomics; delivering values and poison; holding failed stores (15 R199 to R201, R218 to R224). -/

namespace Sys2Proof.Machine

/-! ### What kind of access a flight is (17 R232, R237, R241) -/

/-- Loads and atomics, and LAUNCH, whose status follows the rules of a load (09 R124): they return. -/
def Flight.loads (f : Flight) : Bool :=
  match f.kind with
  | .load _ | .atomic .. | .status (.launch ..) _ => true
  | _ => false

/-- A channel word is ordered as a store, but FENCE does not wait for its delivery (17 R241; 19 R289). -/
def Flight.isWord (f : Flight) : Bool :=
  match f.kind with
  | .word .. => true
  | _ => false

/-- Stores and what is ordered as a store; the stitched values of a JOIN are stores of its thread (17 R244). -/
def Flight.stores (f : Flight) : Bool :=
  match f.kind with
  | .store | .scatter .. | .atomic .. | .cdec .. | .token .. | .row .. | .word .. => true
  | .status (.launch ..) _ | .status (.join _) _ => true
  | _ => false

/-- Whether a flight counts as an unacknowledged store of its thread (15 R207; 09 R126; 19 R258, R284; 21 R301). An atomic
does, as it counts among the stores of 17 R241 (DEDUCED: log 100). -/
def Flight.unacked (f : Flight) : Bool :=
  match f.kind with
  | .store | .scatter .. | .cdec .. | .token .. | .row .. | .status (.join _) _ | .atomic .. => true
  | _ => false

/-- Whether a flight is an access of its thread at all. -/
def Flight.access (f : Flight) : Bool :=
  f.loads || f.stores ||
    (match f.kind with
      | .status .fork _ | .status (.join _) _ | .status (.region _) _ => true
      | _ => false)

/-- No later access of the thread is performed before this one has returned (17 R232; 21 R298, R299, R301). -/
def Flight.acquires (f : Flight) : Bool :=
  match f.kind with
  | .load _ | .atomic .. => f.ord == .acq || f.ord == .ar
  | .status .fork _ | .status (.join _) _ | .status (.region _) _ => true
  | _ => false

/-- Whether an ordering is a release. -/
def Ordering.rels : Ordering → Bool
  | .rel | .ar => true
  | .rlx | .acq => false

/-- Whether a scope is no wider than the core: the order of the core's port suffices there (17 R236, R241). -/
def Scope.inCore : Scope → Bool
  | .slot | .core => true
  | .clu | .die | .pkg | .sys => false

/-- Performed only after every earlier access of the thread, at its scope (17 R232, R233; 09 R124, R126; 21 R299). -/
def Flight.releases (f : Flight) : Bool :=
  match f.kind with
  | .cdec .. | .status (.launch ..) _ | .status .fork _ | .status (.join _) _ => true
  | .store | .scatter .. | .atomic .. => Ordering.rels f.ord && !Scope.inCore f.scope
  | _ => false

/-- Whether a part is still to be performed. -/
def Part.open_ (p : Part) : Bool := !p.done

/-- Whether two parts lie in one polder. -/
def Part.samePolder (p q : Part) : Bool :=
  match p.loc, q.loc with
  | .sram a, .sram b => a / 65536 == b / 65536
  | _, _ => false

/-- Whether two accesses go through the port of one core. -/
def Flight.sameCore (e f : Flight) : Bool := e.party.die == f.party.die && e.party.core == f.party.core

/-- Where the bytes of a part stand: the physical place, which is one under every virtual address of it, and the revision
whose view it is. A place that no walk finds stands for itself (17 R236, R237; 21 R292, R304). -/
def State.placeOf (s : State) (f : Flight) (p : Part) : Loc × Nat :=
  match p.loc with
  | .va a =>
    let x : Option Xlat := match p.hit with
      | some h => some ⟨h.1, 0, h.2⟩
      | none => s.physOf (Party.clusterKey f.party) a f.rev
    match x with
    | some x => (.pa x.pa, if s.revisioned f.dom a x.revd x.attr then f.rev else 0)
    | none => (.va a, f.rev)
  | l => (l, 0)

/-- Whether part q of e touches n bytes of a place. -/
def State.meets (s : State) (e : Flight) (q : Part) (at_ : Loc × Nat) (n : Nat) : Bool :=
  let o := s.placeOf e q
  o.2 == at_.2 && (locOverlap o.1 q.size at_.1 n).isSome

/-- Loads take the value of a store of their core that is not yet performed (17 R236). -/
def Flight.forwards (e f : Flight) : Bool :=
  (match f.kind with
    | .load _ => true
    | _ => false) &&
    (match e.kind with
      | .store | .scatter .. | .row .. => e.sameCore f
      | _ => false)

/-- Whether an earlier access of the same core, or of the same thread before it migrated, or a store that the thread has read
there, holds back a part at a place (17 R236, R237, R242, R248): accesses to one polder are performed in issue order; of two accesses to common bytes the later
waits, but for a load that takes the value of an earlier store. -/
def State.conflictBefore (s : State) (e f : Flight) (p : Part) (at_ : Loc × Nat) : Bool :=
  decide (e.id < f.id) && e.access && (e.sameCore f || e.ctx == f.ctx || e.parts.any (fun q => q.seen.contains f.ctx)) &&
    e.parts.any (fun q => q.open_ && (q.samePolder p || (!e.forwards f && s.meets e q at_ p.size)))

/-- Whether a context has issued a store, or has read it before it was performed: its later releases follow it
(17 R236, R238). -/
def Flight.knownTo (e : Flight) (ctx : Nat) : Bool :=
  e.ctx == ctx || e.parts.any (fun q => q.seen.contains ctx || q.seen.contains 0)

/-- Whether an earlier access of the same thread holds back f, or a store that its thread has read from its core
(17 R232, R237, R238). -/
def orderBefore (e f : Flight) : Bool :=
  decide (e.id < f.id) && e.access &&
    ((e.ctx == f.ctx && (e.acquires || (f.stores && e.loads) || f.releases)) ||
      (f.releases && e.stores && e.sameCore f && e.knownTo f.ctx))

/-- Bytes of a row of A that one K-block takes (11 R161). -/
def MatCmd.blockBytes (m : MatCmd) : Nat := 4 * ((fmtOfCode (m.fmta % 16)).map Fmt.bits).getD 0

/-- Whether a command has yet to read bytes of its A window: those of K-blocks below the one that it starts or goes on at
have been read (11 R162, R168). -/
def MatCmd.readsLater (m : MatCmd) (l : Loc) (n : Nat) : Bool :=
  !m.done &&
    (match m.a with
      | some a => (List.range 32).any (fun i =>
          (locOverlap l n (a.plus (128 * i + m.block * m.blockBytes)) (128 - m.block * m.blockBytes)).isSome)
      | none => false)

/-- A store to bytes of an A window that an earlier matrix command has yet to read waits in the core's port
(11 R162). -/
def State.heldByMatrix (s : State) (f : Flight) (p : Part) : Bool :=
  f.stores && (s.core f.party).mq.any (fun c => decide (c.id < f.id) && c.readsLater p.loc p.size)

/-- A stream drains its rows in order, and none behind a held row (19 R258, R259). -/
def State.rowInOrder (s : State) (f : Flight) : Bool :=
  match f.kind with
  | .row op _ r _ =>
    let before (e : Flight) : Bool := match e.kind with
      | .row o _ q _ => o == op && decide (q < r)
      | _ => false
    !s.flights.any before &&
      !(s.thread f.party).held.any (fun h =>
        match h.what with
        | .flight e => before e
        | _ => false)
  | _ => true

/-- A row that is drained into a polder follows a PZERO of it that its core issued before (13 R184; 17 R242). -/
def State.behindZero (s : State) (f : Flight) (p : Part) : Bool :=
  (match f.kind with
    | .row .. => true
    | _ => false) && s.flights.any (fun e => decide (e.id < f.id) && e.sameCore f && (match e.kind with
      | .pzero _ n => inPolder n p.loc p.size
      | _ => false))

/-- Whether the stores that a veil waits for are still to be performed, in flight or held. -/
def State.veilHolds (s : State) (v : Veil) : Bool :=
  s.flights.any (fun e => v.behind.contains e.id) || s.contexts.any (fun e => e.2.held.any (fun h => v.behind.contains h.seq)) ||
    s.saved.any (fun x => x.thread.held.any (fun h => v.behind.contains h.seq))

/-- Whether a party other than the cores' own slots lies within a veil's scope (17 Table 17.1). -/
def Veil.covers (v : Veil) (p : Party) : Bool :=
  v.party.die == p.die && v.party.core != p.core && (v.scope == .die || Party.cluster v.party == Party.cluster p)

/-- Whether an access would read, at a place, a release that its party may not see yet (17 R238). -/
def State.veiled (s : State) (f : Flight) (at_ : Loc × Nat) (n : Nat) : Bool :=
  f.loads && s.veils.any (fun v =>
    v.covers f.party && v.rev == at_.2 && (locOverlap v.loc v.size at_.1 n).isSome && s.veilHolds v)

/-- Whether part i of a flight may be performed now, where those of its elders that `early` names are not waited for. -/
def State.clearFor (s : State) (f : Flight) (i : Nat) (early : Flight → Bool) : Bool :=
  match f.parts[i]? with
  | none => s.flights.all (fun e => !orderBefore e f || early e)
  | some p =>
    let at_ := s.placeOf f p
    p.open_ && !f.moved && s.flights.all (fun e => (!orderBefore e f || early e) && !s.conflictBefore e f p at_) &&
      !s.heldByMatrix f p && s.rowInOrder f && !s.veiled f at_ p.size &&
      !s.behindZero f p &&
      (match f.kind with
        | .scatter .. => (f.parts.take i).all (fun q => q.done)
        | _ => true)

/-- Whether a store has nothing before it and its pages translate, so that it can be performed whenever it is. -/
def State.ripe (s : State) (e : Flight) : Bool :=
  (List.range e.parts.length).all (fun i => match e.parts[i]? with
    | some q => q.done || (s.clearFor e i (fun _ => false) &&
        (match q.loc with
          | .va a => (s.physOf (Party.clusterKey e.party) a e.rev).any (fun x => s.present x.pa)
          | _ => true))
    | none => true)

/-- Whether a party lies within a scope of another (17 Table 17.1). -/
def Scope.reaches (sc : Scope) (p q : Party) : Bool :=
  match sc with
  | .slot => p == q
  | .core => Party.coreKey p == Party.coreKey q
  | .clu => Party.clusterKey p == Party.clusterKey q
  | .die => p.die == q.die
  | .pkg | .sys => true

/-- Whether a flight is an acquire of one value of global memory whose scope leaves parties out. -/
def Flight.narrow (e : Flight) : Bool :=
  (match e.kind, e.parts with
    | .load (.g _ _), [p] => (match p.loc with
      | .va _ => true
      | _ => false)
    | _, _ => false) && e.ord == .acq && e.scope != .pkg && e.scope != .sys

/-- Whether an access is performed before one that it follows. A release at the scope of a cluster or a die goes before stores:
parties of its scope read it only once they are performed too, and a party outside its scope is promised nothing. A load goes before
an acquire: the acquire takes its value then, and returns a later one only from a party outside its scope (17 R238, Table 17.2;
DEDUCED: log 111). -/
def State.ahead (s : State) (f e : Flight) : Bool :=
  match f.kind, e.kind with
  | .store, .store | .atomic .., .store => (f.scope == .clu || f.scope == .die) && s.ripe e
  | .load _, .load _ => e.narrow && !f.acquires && s.ripe e
  | _, _ => false

/-- Whether part i of a flight may be performed now. -/
def State.mayPerform (s : State) (f : Flight) (i : Nat) : Bool := s.clearFor f i (s.ahead f)

/-- A release that goes before stores that it follows is veiled until they are performed. -/
def State.veil (s : State) (f : Flight) (p : Part) : State :=
  if f.scope != .clu && f.scope != .die then s
  else
    let behind := (s.flights.filter (fun e => orderBefore e f)).map (·.id)
    if behind.isEmpty then s
    else
      let at_ := s.placeOf f p
      { s with veils := s.veils.filter s.veilHolds ++ [⟨f.party, f.scope, at_.1, p.size, at_.2, behind⟩] }

/-- Whether an operand at the port of a core waits for an access of the core to its bytes below an operation number: one that is read takes the
values of stores before it and waits for atomics and counters; one that is written waits for every access
(17 R236, R237, R242; DEDUCED: log 124). -/
def State.portBusy (s : State) (p : Party) (l : Loc) (n : Nat) (write : Bool) (op : Nat) : Bool :=
  s.flights.any (fun e => decide (e.id < op) && e.access && e.party.die == p.die && e.party.core == p.core &&
    e.parts.any (fun q => q.open_ && (locOverlap q.loc q.size l n).isSome) &&
    (write || (match e.kind with
      | .store | .scatter .. | .row .. => false
      | _ => e.stores)))

def State.flight? (s : State) (id : Nat) : Option Flight := s.flights.find? (fun f => f.id == id)

def State.setFlight (s : State) (f : Flight) : State :=
  { s with flights := s.flights.map (fun e => if e.id == f.id then f else e) }

def State.dropFlight (s : State) (id : Nat) : State := { s with flights := s.flights.filter (fun e => e.id != id) }

/-- Adds an operation of the current slot, with the next operation number. -/
def State.launchFlight (s : State) (kind : FlightKind) (parts : List Part) (ord : Ordering) (scope : Scope) : State :=
  let t := s.src
  { s with
    flights := s.flights ++ [⟨s.nextOp, s.cur, t.ctx, kind, parts, ord, scope, t.dom, t.revNo, t.sup,
      s.issue.pc.toNat, false⟩]
    nextOp := s.nextOp + 1 }

/-- A part of an access. -/
def mkPart (addr : Nat) (l : Loc) (n data : Nat) : Part := ⟨addr, l, n, data, false, none, none, false, []⟩

/-- A context has read the unperformed parts of a store. -/
def Flight.see (f : Flight) (ctx : Nat) : Flight :=
  if f.knownTo ctx then f
  else { f with parts := f.parts.map (fun q => if q.open_ then { q with seen := ctx :: q.seen } else q) }

/-- A release at core scope, which waits for nothing, hands the unperformed stores of its thread and those that it has read
to every slot of the core (17 R236, R238). -/
def State.publish (s : State) (o : Ordering) (sc : Scope) : State :=
  if Ordering.rels o && sc == .core then
    { s with flights := s.flights.map (fun e =>
        if e.stores && e.party.die == s.cur.die && e.party.core == s.cur.core && e.knownTo s.src.ctx then e.see 0 else e) }
  else s

/-- A part of a load that an L1 line serves, where one does (15 R206). -/
def State.loadPart (s : State) (addr : Nat) (l : Loc) (n : Nat) : Part :=
  let t := s.src
  { mkPart addr l n 0 with
    hit := match l with
      | .va a => (s.core s.cur).l1Hit a n t.dom t.revNo
      | _ => none }

/-- L1 misses among the parts of a load, one for each line (15 R206; DEDUCED: log 14). -/
def missCount (ps : List Part) : Nat :=
  let lines := ps.filterMap (fun p =>
    match p.loc, p.hit with
    | .va a, none => some (a / 64)
    | _, _ => none)
  lines.eraseDups.length

/-! ### Values -/

/-- Replaces in v, the value of [l, l + n), the bytes that a store to [m, m + k) has written but not performed
(17 R236). -/
def overlayStore (l : Loc) (n v : Nat) (m : Loc) (k data : Nat) : Nat :=
  match locOverlap l n m k with
  | none => v
  | some _ =>
    (List.range n).foldl (fun v i =>
      match locOverlap m k (l.plus i) 1 with
      | none => v
      | some o => putBits v (8 * i + 7) (8 * i) (data / 2 ^ (8 * o))) v

/-- Inserts by issue order. -/
def insertFlight (f : Flight) : List Flight → List Flight
  | [] => [f]
  | e :: r => if f.id < e.id then f :: e :: r else e :: insertFlight f r

/-- The stores of a core, not yet performed, that a load issued after them reads from, in issue order: in flight or
held. -/
def State.pendingStores (s : State) (f : Flight) : List Flight :=
  let mine (e : Flight) : Bool := decide (e.id < f.id) && e.sameCore f &&
    (match e.kind with
      | .store | .scatter .. | .row .. => true
      | _ => false)
  let held := (s.contexts.filter (fun e => e.1.die == f.party.die && e.1.core == f.party.core)).flatMap (fun e =>
    e.2.held.filterMap (fun h =>
      match h.what with
      | .flight x => if mine { x with party := f.party } then some { x with party := f.party } else none
      | _ => none))
  held.foldl (fun l x => insertFlight x l) (s.flights.filter mine)

/-- The value a load's part finds below, with the younger stores of its core to the same place laid over it. -/
def State.forward (s : State) (f : Flight) (p : Part) (v : Nat) : Nat :=
  match s.pendingStores f with
  | [] => v
  | es =>
    let at_ := s.placeOf f p
    es.foldl (fun v e => (e.parts.filter Part.open_).foldl (fun v q =>
      let o := s.placeOf e q
      if o.2 == at_.2 then overlayStore at_.1 p.size v o.1 q.size q.data else v) v) v

/-- A load that took the value of an unperformed store of another slot of its core has read it, and with a release what
that store follows (17 R238). -/
def State.noteSeen (s : State) (f : Flight) (p : Part) : State :=
  match (s.pendingStores f).filter (fun e => e.ctx != f.ctx) with
  | [] => s
  | es =>
    let at_ := s.placeOf f p
    let from_ := es.filter (fun e => e.parts.any (fun q => q.open_ && s.meets e q at_ p.size))
    { s with flights := s.flights.map (fun e =>
        if e.stores && from_.any (fun w => w.id == e.id ||
            (Ordering.rels w.ord && decide (e.id < w.id) && e.sameCore w && e.knownTo w.ctx)) then e.see f.ctx else e) }

/-- The launch whose thread a flight belongs to, for gathered state (15 R204). -/
def State.launchOf (s : State) (p : Party) : Option Nat :=
  (s.thread? p).bind (fun t => (s.work t.unit).bind (fun w => w.launch))

/-- Marks a FOLLOW access to a line homed on another die, once its last part has arrived or been performed (15 R197). -/
def State.noteFollow (s : State) (f : Flight) (p : Part) (x : Xlat) : State :=
  let others := f.parts.erase p
  let away (y : Xlat) : Option Nat :=
    (homeDie y.pa).bind (fun h => if y.attr == 2 && h != f.party.die then some h else none)
  let before (q : Part) : Option Nat :=
    match q.loc with
    | .va b => (s.physOf (Party.clusterKey f.party) b f.rev).bind away
    | _ => none
  if others.any Part.open_ then s
  else
    match (match away x with
      | some h => some h
      | none => others.findSome? before) with
    | some h =>
      s.mapThread f.party (fun t => if t.ctx == f.ctx && !(t.follow.any (·.2)) then { t with follow := some (h, false) } else t)
    | none => s

/-- Reads one part where it is performed: its value, or the kind of its failure. -/
def State.readPart (s : State) (f : Flight) (p : Part) : Except Nat Nat × State :=
  match p.loc with
  | .sram i =>
    if poisonIn s.sramPoison i p.size then (.error 8, s) else (.ok (s.forward f p (s.readSram i p.size)), s.noteSeen f p)
  | .pa a => if poisonIn s.memPoison a p.size then (.error 8, s) else (.ok (s.readPa a p.size), s)
  | .va a =>
    match p.hit with
    | some (pa, revd) =>
      match s.readVirt f.dom f.rev a ⟨pa, 0, revd⟩ p.size with
      | none => (.error 8, s)
      | some v => (.ok (s.forward f p v), s.noteSeen f p)
    | none =>
      match s.translate (Party.clusterKey f.party) a f.rev false (s.launchOf f.party) with
      | (.error k, s) => (.error k, s)
      | (.ok x, s) =>
        let s := s.l2Touch f.party.die f.dom a x.pa x.attr false
        let s := s.noteFollow f p x
        match s.readVirt f.dom f.rev a x p.size with
        | none => (.error 8, s)
        | some v =>
          let v := s.forward f p v
          let s := s.noteSeen f p
          let ck := Party.coreKey f.party
          let wide := match f.kind with
            | .load (.tile _) => true
            | _ => false
          (.ok v, if wide then (s.recallAliases ck a f.dom f.rev x).recallShared ck (x.pa / 64) f.rev
              (s.revisioned f.dom a x.revd x.attr)
            else s.l1Fill ck a f.dom f.rev x false)

/-- The value of one part of a load: one that it has taken already, or what stands there. -/
def State.takePart (s : State) (f : Flight) (p : Part) : Except Nat Nat × State :=
  if s.latched.contains f.id then (.ok p.data, { s with latched := s.latched.filter (· != f.id) }) else s.readPart f p

/-- The acquires that a load goes ahead of take their values; none where one of them cannot. -/
def State.latchBefore (s : State) (f : Flight) : Option State :=
  (s.flights.filter (fun e => orderBefore e f && e.narrow && !s.latched.contains e.id)).foldl (fun o e =>
    o.bind (fun s => match e.parts with
      | p :: _ =>
        match s.readPart e p with
        | (.ok v, s) => some { s.setFlight { e with parts := [{ p with data := v }] } with latched := s.latched ++ [e.id] }
        | (.error _, _) => none
      | [] => some s)) (some s)

/-- A store of a party outside the scope of an acquire that has taken its value: the acquire may return what the store writes, where
nothing else has been written there since. -/
def State.relatch (s : State) (f : Flight) (p : Part) : State :=
  if s.latched.isEmpty then s
  else
    let at_ := s.placeOf f p
    { s with flights := s.flights.map (fun e =>
        match e.parts with
        | [q] =>
          if s.latched.contains e.id && !Scope.reaches e.scope e.party f.party && s.meets e q at_ p.size &&
              (s.readPart { e with id := 0 } q).1.toOption == some q.data then
            { e with parts := [{ q with data := overlayStore (s.placeOf e q).1 q.size q.data at_.1 p.size p.data }] }
          else e
        | _ => e) }

/-- The kind of a store older than an operation that the slot holds and that failed on the page of an address. -/
def Thread.holdsPage (t : Thread) (op a : Nat) : Option Nat :=
  (t.held.find? (fun h => decide (h.seq ≤ op) &&
    match h.what with
    | .flight f => f.parts.any (fun q =>
        match q.loc with
        | .va b => a / 2 ^ h.page == b / 2 ^ h.page
        | _ => false)
    | _ => false)).map (·.kind)

/-- The kind with which a store fails behind a held store of its slot (15 R201). -/
def State.heldBehind (s : State) (f : Flight) (a : Nat) : Option Nat :=
  match s.thread? f.party with
  | some t => if t.ctx == f.ctx then t.holdsPage f.id a else none
  | none => none

/-- A store that its L1 does not own passes through the translation buffer (15 R204, R207). -/
def State.writeTranslated (s : State) (f : Flight) (p : Part) (a ck : Nat) : Option Nat × State :=
  match s.translate (Party.clusterKey f.party) a f.rev true (s.launchOf f.party) with
  | (.error k, s) => (some k, s)
  | (.ok x, s) =>
    let s := s.l2Touch f.party.die f.dom a x.pa x.attr true
    let s := s.noteFollow f p x
    let s := s.writeVirt f.dom f.rev a x p.size p.data
    (none, s.l1Store ck a p.size f.dom f.rev x)

/-- Whether a store is a row transfer, which is always translated (15 R198). -/
def Flight.rowStore (f : Flight) (p : Part) : Bool :=
  match f.kind with
  | .row .. => true
  | _ => p.wide

/-- Performs the write of one part of a store: none, or the kind of its failure (15 R201, R207). -/
def State.writePart (s : State) (f : Flight) (p : Part) : Option Nat × State :=
  match p.loc with
  | .sram i => (none, s.writeSram i p.size p.data)
  | .pa a => (none, s.writePa a p.size p.data)
  | .va a =>
    match s.heldBehind f a with
    | some k => (some k, s)
    | none =>
      let ck := Party.coreKey f.party
      match (s.coreAt ck).l1Find a f.dom f.rev with
      | some l =>
        if l.owned && !f.rowStore p && decide (a / 64 = (a + p.size - 1) / 64) then
          let x : Xlat := ⟨l.pa * 64 + a % 64, 0, l.revd⟩
          let s := s.writeVirt f.dom f.rev a x p.size p.data
          (none, s.l1Store ck a p.size f.dom f.rev x)
        else s.writeTranslated f p a ck
      | none => s.writeTranslated f p a ck

/-! ### Delivering (15 R199, R218 to R222) -/

/-- The first failed part of a flight: (address, kind). -/
def Flight.failure (f : Flight) : Option (Nat × Nat) :=
  f.parts.findSome? (fun p => p.fail.map (fun k => (p.addr, k)))

/-- The replay record of a failed load (15 R199). -/
def Flight.replay (f : Flight) (op : ReplayOp) (signed again : Bool) (kind : Nat) : Replay :=
  let a := match f.parts with
    | p :: _ => p.addr
    | [] => 0
  let n := match f.parts with
    | p :: _ => p.size
    | [] => 8
  ⟨op, a, Nat.log2 n, signed, f.ord, f.scope, f.dom, f.rev, kind, f.iaddr, f.id, again⟩

/-- Fills g register r, if it still waits for the operation (15 R218). -/
def Thread.fillG (t : Thread) (r op : Nat) (c : RegCell) : Thread :=
  if r = 0 then t else if vget t.g r (.val 0) = .empty op then { t with g := vset t.g r c } else t

/-- A loaded value extended to a register (15 R219). -/
def extendTo (size : Nat) (signed : Bool) (v : Nat) : Word :=
  if signed then BitVec.ofInt 64 (signedOf (8 * size) v) else w64 v

/-- Changes row r of tile k of a core. -/
def CoreSt.mapRow (c : CoreSt) (k r : Nat) (g : TileRow → TileRow) : CoreSt :=
  { c with tiles := vmod c.tiles k (fun t => { t with rows := vmod t.rows r g }) }

/-- A row that waits for an operation is filled or poisoned. -/
def TileRow.arrive (op : Nat) (data : Option Row) (p : Replay) (x : TileRow) : TileRow :=
  if x.fill = .empty op then
    match data with
    | some d => ⟨d, .full⟩
    | none => ⟨x.data, .poison p⟩
  else x

/-- The bytes of parts in order, as one number. -/
def joinParts (ps : List Part) : Nat := ps.foldr (fun p acc => p.data % 2 ^ (8 * p.size) + 2 ^ (8 * p.size) * acc) 0

/-- Rows that discarded loads left empty fill with their current contents. -/
def CoreSt.refill (c : CoreSt) (ops : List Nat) : CoreSt :=
  if ops.isEmpty then c
  else
    { c with
      tiles := c.tiles.map (fun t =>
        { t with rows := t.rows.map (fun r =>
            match r.fill with
            | .empty op => if ops.contains op then { r with fill := .full } else r
            | _ => r) }) }

/-- Whether the thread of an operation is ending or over: a reply that arrives for it is discarded (09 R123). -/
def State.discards (s : State) (f : Flight) : Bool :=
  !(s.contexts.any (fun e => e.2.ctx == f.ctx && !e.2.quitting)) && !(s.saved.any (fun x => x.thread.ctx == f.ctx))

/-- Delivers a load whose parts have all arrived, where its thread still takes it. A lane of an LDVFF that meets an
uncorrectable error cuts it as one whose translation fails does, and does not poison the row (15 R221; DEDUCED: log 121). -/
def State.deliverTo (s : State) (f : Flight) (goal : Goal) : State :=
  let fail := f.failure
  let k := match fail with
    | some (_, k) => k
    | none => 0
  match goal with
  | .none => s
  | .g r signed =>
    let c : RegCell := match fail with
      | some _ => .poison (f.replay .load signed true k)
      | none => match f.parts with
        | p :: _ => .val (extendTo p.size signed p.data)
        | [] => .val 0
    s.mapThread f.party (fun t => if t.ctx == f.ctx then t.fillG r f.id c else t)
  | .row tile r =>
    let data := if fail.isSome then none else some (BitVec.ofNat 1024 (joinParts f.parts))
    let c := s.core f.party
    s.setCore f.party (c.mapRow tile r (TileRow.arrive f.id data (f.replay .load false true k)))
  | .lanes tile r _ =>
    let data := if fail.isSome then none else some (BitVec.ofNat 1024 (joinParts f.parts))
    let c := s.core f.party
    s.setCore f.party (c.mapRow tile r (TileRow.arrive f.id data (f.replay .load false false k)))
  | .first tile r e keep =>
    let n := match f.parts.findIdx? (fun p => p.fail.isSome) with
      | some i => i
      | none => f.parts.length
    let c := s.core f.party
    let s := s.setCore f.party (c.mapRow tile r (fun x =>
      if x.fill = .empty f.id then
        if n = 0 then ⟨x.data, .poison (f.replay .load false false k)⟩
        else
          ⟨BitVec.ofNat 1024 (putBits x.data.toNat (n * e - 1) 0 (joinParts (f.parts.take n))),
            match keep with
            | some old => if n * e < 1024 then .poison old else .full
            | none => .full⟩
      else x))
    s.mapThread f.party (fun t =>
      if t.ctx == f.ctx && vget t.q 1 (.val 0) == .empty f.id then { t with q := vset t.q 1 (.val n) } else t)
  | .tile _ => s

/-- Delivers a load whose parts have all arrived; rows that wait for a discarded one fill with their current contents. -/
def State.deliver (s : State) (f : Flight) (goal : Goal) : State :=
  if s.discards f then s.setCore f.party ((s.core f.party).refill [f.id]) else s.deliverTo f goal

/-- A row of an MLOAD whose eight parts have all arrived (11 R166). -/
def State.deliverTileRow (s : State) (f : Flight) (tile r : Nat) : State :=
  let ps := (f.parts.drop (8 * r)).take 8
  if ps.all (fun p => p.done) then
    let bad := ps.findSome? (fun p => p.fail)
    let data := if bad.isSome then none else some (BitVec.ofNat 1024 (joinParts ps))
    let c := s.core f.party
    if s.discards f then s.setCore f.party (c.mapRow tile r (fun x => if x.fill = .empty f.id then { x with fill := .full } else x))
    else s.setCore f.party (c.mapRow tile r
      (TileRow.arrive f.id data ({ f with parts := ps }.replay .load false true (bad.getD 0))))
  else s

/-! ### Held stores (15 R201) -/

def Poison.ofReplay (r : Replay) (vreg : Bool) (reg : Nat) : Poison :=
  let a : Nat := match r.op with
    | .launch _ x => x
    | _ => r.addr
  ⟨r.seq, r.kind, vreg, reg, a, r.iaddr⟩

def Poison.cause (p : Poison) : Nat := if p.kind == 8 then 0x0A else 0x07

def Poison.einfo (p : Poison) : Word :=
  w64 (p.iaddr / 4 % 2 ^ 54 + p.kind * 2 ^ 54 + p.reg * 2 ^ 58 + b2n p.vreg * 2 ^ 63)

def Held.poison (h : Held) : Poison :=
  match h.what with
  | .flight f => ⟨h.seq, h.kind, false, 0, (f.parts.head?.map (·.addr)).getD 0, f.iaddr⟩
  | .copy _ _ i a => ⟨h.seq, h.kind, false, 0, a, i⟩
  | .stitch _ i a => ⟨h.seq, h.kind, false, 0, a, i⟩

/-- The older of two. -/
def olderPoison (a : Option Poison) (b : Poison) : Option Poison :=
  match a with
  | none => some b
  | some x => if x.seq ≤ b.seq then some x else some b

/-- The poisoned g registers of a context, with their register. -/
def Thread.poisonedRegs (t : Thread) : List (Nat × Replay) :=
  (List.range 32).filterMap (fun r =>
    match vget t.g r (.val 0) with
    | .poison x => some (r, x)
    | _ => none)

/-- The oldest poisoned g register or held store of a context (15 R200). -/
def Thread.oldestPoison (t : Thread) : Option Poison :=
  let a := t.poisonedRegs.foldl (fun o e => olderPoison o (.ofReplay e.2 false e.1)) none
  t.held.foldl (fun o h => olderPoison o h.poison) a

/-- Owes the trap of the oldest held store before the next bundle (15 R201; 19 R259, R273). One trap before the next
bundle serves every store held until then (DEDUCED: log 99). -/
def Thread.oweHeld (t : Thread) : Thread :=
  match t.oldestPoison with
  | none => t
  | some p => if t.owed.any (fun o => o.cause == 0x07 || o.cause == 0x0A) then t else { t with owed := t.owed ++ [⟨p.cause, w64 p.addr, p.einfo⟩] }

/-- A thread's held stores with a failed part of a store; the parts of one store are held as one (15 R201). -/
def Thread.heldWith (t : Thread) (f : Flight) (p : Part) (kind page : Nat) : List Held :=
  let bare : Part := { p with done := false, fail := none, hit := none }
  if t.held.any (fun h => h.seq == f.id) then
    t.held.map (fun h =>
      if h.seq == f.id then
        match h.what with
        | .flight x => { h with what := .flight { x with parts := x.parts ++ [bare] } }
        | _ => h
      else h)
  else t.held ++ [⟨.flight { f with parts := [bare] }, kind, f.id, page⟩]

/-- The page bits under which a part that failed holds later stores behind it. -/
def State.heldPage (s : State) (p : Part) : Nat :=
  match p.loc with
  | .va a => s.pageBits a
  | _ => 16

/-- Releases of the thread of a store that wait for it. -/
def State.releasesBehind (s : State) (f : Flight) : List Flight :=
  s.flights.filter (fun e => e.ctx == f.ctx && decide (f.id < e.id) && e.releases)

/-- A release held behind a store that failed. -/
def Flight.heldBehind (kind page : Nat) (e : Flight) : Held :=
  ⟨.flight { e with parts := e.parts.filter Part.open_ }, kind, e.id, page⟩

def State.dropFlights (s : State) (ids : List Nat) : State := { s with flights := s.flights.filter (fun e => !ids.contains e.id) }

/-- Holds a failed part of a store; that of a thread that is ending is discarded. A 17th held store owes a trap once, and so do a held row of a stream (19 R259) and a
release that waited for the store: it is held itself (15 R201). -/
def State.holdPart (s : State) (f : Flight) (p : Part) (kind : Nat) : State :=
  match s.thread? f.party with
  | none => s
  | some t =>
    if t.ctx != f.ctx || t.quitting then s
    else
      let page := s.heldPage p
      let held := t.heldWith f p kind page
      let rels := s.releasesBehind f
      let drained := match f.kind with
        | .row .. => true
        | _ => false
      let first := !t.held.any (fun h => h.seq == f.id)
      let t : Thread := { t with held := held ++ rels.map (Flight.heldBehind kind page) }
      let t : Thread := if (first && (decide (16 < t.held.length) || drained)) || !rels.isEmpty then t.oweHeld else t
      (s.setThread f.party t).dropFlights (rels.map (·.id))

/-! ### Atomics (15 R224) -/

def AtomOp.apply (op : AtomOp) (n old x c : Nat) : Option Nat × Counts :=
  let k := 8 * n
  let y := x % 2 ^ k
  match op with
  | .add => (some ((old + y) % 2 ^ k), [])
  | .and => (some (Nat.land old y), [])
  | .or => (some (Nat.lor old y), [])
  | .xor => (some (Nat.xor old y), [])
  | .min => (some (if signedOf k old ≤ signedOf k y then old else y), [])
  | .max => (some (if signedOf k old ≤ signedOf k y then y else old), [])
  | .minu => (some (Nat.min old y), [])
  | .maxu => (some (Nat.max old y), [])
  | .swp => (some y, [])
  | .cas => (if old = c % 2 ^ k then some y else none, [])
  | .fadd =>
    let f := if n = 4 then FpShape.fp32 else FpShape.fp64
    let r := f.add .rne 0 (f.read old) (f.read y)
    (some r.1, r.2)

/-- An atomic at its home slice or polder: the old value or the kind of its failure. -/
def State.atomicAt (s : State) (f : Flight) (op : AtomOp) (x c : Nat) (p : Part) : Except Nat Nat × State :=
  let n := p.size
  match p.loc with
  | .sram i =>
    if poisonIn s.sramPoison i n then (.error 8, s)
    else
      let old := s.readSram i n
      let r := op.apply n old x c
      let s := s.countAt (Party.coreKey f.party) r.2
      match r.1 with
      | some v => (.ok old, s.writeSram i n v)
      | none => (.ok old, s)
  | .pa _ => (.error 8, s)
  | .va a =>
    match s.translate (Party.clusterKey f.party) a f.rev true (s.launchOf f.party) with
    | (.error k, s) => (.error k, s)
    | (.ok t, s) =>
      if t.attr == 3 then (.error 4, s)
      else
        let s := s.l2Touch f.party.die f.dom a t.pa t.attr true
        let s := s.noteFollow f p t
        let s := s.invalidateOthers none (t.pa / 64) f.rev (s.revisioned f.dom a t.revd t.attr)
        match s.readVirt f.dom f.rev a t n with
        | none => (.error 8, s)
        | some old =>
          let r := op.apply n old x c
          let s := s.countAt (Party.coreKey f.party) r.2
          match r.1 with
          | some v => (.ok old, s.writeVirt f.dom f.rev a t n v)
          | none => (.ok old, s)

/-! ### The events of memory -/

/-- Records what became of part i; a flight without open parts is finished. -/
def Flight.setPart (f : Flight) (i : Nat) (p : Part) : Flight := { f with parts := f.parts.set i p }

def Flight.finished (f : Flight) : Bool := f.parts.all (fun p => p.done)

/-- A part of a load arrives (15 R218). -/
def State.loadArrive (s : State) (f : Flight) (goal : Goal) (i : Nat) : State :=
  match f.parts[i]? with
  | none => s
  | some p =>
    if !s.mayPerform f i then s
    else
      match (s.latchBefore f).map (fun s => s.takePart f p) with
      | none => s
      | some (r, s) =>
        let p := match r with
          | .ok v => { p with done := true, data := v }
          | .error k => { p with done := true, fail := some k }
        let f := f.setPart i p
        if f.finished then
          match goal with
          | .tile _ => s.setFlight f
          | _ => (s.deliver f goal).dropFlight f.id
        else s.setFlight f

/-- Bytes of an element, buffer rows and first element of a stream (19 Tables 19.4, 19.5). -/
def Stream.esize (x : Stream) : Nat := 2 ^ bits x.qcw.toNat 34 32
def Stream.depth (x : Stream) : Nat := bits x.qcw.toNat 31 22
def Stream.outbound (x : Stream) : Bool := bit x.qcw.toNat 35

/-- Word i of a stream's descriptor, once read. -/
def Stream.word (x : Stream) (i : Nat) : Nat := nth (x.words.getD []) i 0

/-- Elements of the pattern, and the first one transferred (19 R255). -/
def Stream.total (x : Stream) : Nat :=
  let w := x.word 1
  bits w 15 0 * bits w 31 16 * bits w 47 32 * bits w 63 48
def Stream.pos (x : Stream) : Nat := bits (x.word 4) 47 0

/-- Rows of an affine stream: Ceil((N − POS) ÷ E) (19 R255). -/
def Stream.rows (x : Stream) : Nat :=
  let e := 128 / x.esize
  (x.total - x.pos + e - 1) / e

/-- A drained row frees its place, and the weir entry goes with the last row (19 R258, R260). -/
def State.rowDone (s : State) (f : Flight) : State :=
  match f.kind with
  | .row op k _ _ =>
    let s := s.mapThread f.party (fun t =>
      if t.ctx == f.ctx then
        { t with streams := vmod t.streams k (fun o => o.map (fun x => if x.op == op then { x with filled := x.filled + 1 } else x)) }
      else t)
    let more := s.flights.any (fun e =>
      match e.kind with
      | .row o _ _ _ => o == op
      | _ => false)
    let live := match s.thread? f.party with
      | none => false
      | some t => t.ctx == f.ctx && ((vget t.streams k none).any (fun x =>
          x.op == op && decide (x.moved < x.rows)))
    if more || live then s else s.weirRemove (Party.clusterKey f.party) op
  | _ => s

/-- A part of a store is performed, or held (15 R201, R207). -/
def State.storePerform (s : State) (f : Flight) (i : Nat) : State :=
  match f.parts[i]? with
  | none => s
  | some p =>
    if !s.mayPerform f i then s
    else
      match ((s.veil f p).relatch f p).writePart f p with
      | (fail, s) =>
        let f := f.setPart i { p with done := true, fail := fail }
        let s := match fail with
          | none => s
          | some k => s.holdPart f p k
        if f.finished then
          let s := s.dropFlight f.id
          if f.failure.isSome && !s.discards f then s else s.rowDone f
        else s.setFlight f

/-- Whether an ACAS would find another value than it compares with: it then writes nothing, is a load, and waits as one
(17 R240). -/
def State.casFails (s : State) (f : Flight) (op : AtomOp) (x c : Nat) (p : Part) : Bool :=
  op == .cas &&
    (match (s.atomicAt f op x c p).1 with
      | .ok old => old != c % 2 ^ (8 * p.size)
      | .error _ => false)

/-- Whether an atomic may be performed now. One that writes nothing is ordered as a load: it waits for no earlier load, and
is no release; as an atomic it waits for the earlier accesses to its own bytes (17 R237, R240; 15 R224). -/
def State.mayAtomic (s : State) (f : Flight) (op : AtomOp) (x c : Nat) (p : Part) : Bool :=
  s.mayPerform f 0 || (s.mayPerform { f with kind := .status (.revq 0) 0 } 0 && s.casFails f op x c p)

/-- An atomic is performed and returns (15 R224). -/
def State.atomicArrive (s : State) (f : Flight) (op : AtomOp) (x c d : Nat) : State :=
  match f.parts[0]? with
  | none => s
  | some p =>
    let behind : Option Nat := match p.loc with
      | .va a => if d = 0 then s.heldBehind f a else none
      | _ => none
    if !s.mayAtomic f op x c p then s
    else if let some k := behind then (s.dropFlight f.id).holdPart f p k
    else
      match (s.veil f p).atomicAt f op x c p with
      | (.ok old, s) =>
        (s.mapThread f.party (fun t => if t.ctx == f.ctx then t.fillG d f.id (.val (w64 old)) else t)).dropFlight f.id
      | (.error k, s) =>
        let s := s.dropFlight f.id
        if d = 0 then s.holdPart f p k
        else
          s.mapThread f.party (fun t =>
            if t.ctx == f.ctx then t.fillG d f.id (.poison (f.replay (.atomic op x c) false true k)) else t)

/-- Fills the register of a status operation and ends it. -/
def State.statusArrive (s : State) (f : Flight) (d : Nat) (c : RegCell) : State :=
  (s.mapThread f.party (fun t => if t.ctx == f.ctx then t.fillG d f.id c else t)).dropFlight f.id

/-- Whether every access of a context older than an operation number is over: loads and atomics, with the FORK, JOIN and
REGION before whose return no later access is performed, and stores (17 R241; 21 R298, R299, R301). -/
def State.earlierDone (s : State) (ctx op : Nat) (loads stores : Bool) : Bool :=
  s.flights.all (fun e => !(e.ctx == ctx && decide (e.id < op) &&
    ((loads && (e.loads || e.acquires)) || (stores && e.stores && !e.isWord))))

/-- Whether every earlier access of a context that no later one may precede has returned (17 R232; 21 R298, R299, R301). -/
def State.pastAcquires (s : State) (ctx op : Nat) : Bool :=
  s.flights.all (fun e => !(e.ctx == ctx && decide (e.id < op) && e.acquires))

/-- The count of unacknowledged stores of a context is zero (15 R207). -/
def State.acked (s : State) (ctx : Nat) : Bool := s.flights.all (fun e => !(e.ctx == ctx && e.unacked))

end Sys2Proof.Machine
end

