-- ==== Sys2Proof/Machine/Release.lean ====
section
/-! DEFINITION. What a context gives up when it ends or is killed: streams, channels, tiles, weight slots, terp
registers, barriers, matrix commands, polders and revisions (09 R123; 11 R131, R154, R168; 13 R188, R189; 19 R260,
R269, R279; 21 R300, R302; 23 R313). -/

namespace Sys2Proof.Machine

/-! ### Streams and channels -/

/-- The stream that a context has bound as sk. -/
def Thread.stream? (t : Thread) (k : Nat) : Option Stream := vget t.streams k none

def Thread.setStream (t : Thread) (k : Nat) (x : Option Stream) : Thread := { t with streams := vset t.streams k x }

def Thread.chan? (t : Thread) (k : Nat) : Option Chan := vget t.chans k none

def Thread.setChan (t : Thread) (k : Nat) (x : Option Chan) : Thread := { t with chans := vset t.chans k x }

/-- Whether an operation is a row that waits to be drained from a stream. -/
def Flight.rowOf (f : Flight) (op : Nat) : Bool :=
  match f.kind with
  | .row o _ _ _ => o == op
  | _ => false

/-- A held store that is a flight. -/
def Held.flight? (h : Held) : Option Flight :=
  match h.what with
  | .flight f => some f
  | _ => none

/-- Whether a slot holds a row of a stream as a held store. -/
def Thread.holdsRow (t : Thread) (op : Nat) : Bool := t.held.any (fun h => h.flight?.any (fun f => f.rowOf op))

/-- Whether rows pushed onto a stream are still to be drained, in flight or held (19 R258, R260). -/
def State.draining (s : State) (op : Nat) : Bool :=
  s.flights.any (fun e => e.rowOf op) || s.contexts.any (fun e => e.2.holdsRow op) || s.saved.any (fun x => x.thread.holdsRow op)

/-- The weir entry of an outbound stream that no context has bound any longer goes with its last row (19 R260). -/
def State.endStream (s : State) (p : Party) (op : Nat) : State :=
  if s.draining op then s else s.weirRemove (Party.clusterKey p) op

/-- SFREE of sk of a context (19 R260): an inbound stream leaves service, an outbound one keeps draining. -/
def State.freeStream (s : State) (p : Party) (k : Nat) : State :=
  match s.thread? p with
  | none => s
  | some t =>
    match t.stream? k with
    | none => s
    | some x =>
      if x.outbound then (s.setThread p (t.setStream k none)).endStream p x.op
      else
        let t' : Thread := t.setStream k none
        s.setThread p (if x.claims.isEmpty then t' else { t' with leaving := t'.leaving ++ [x] })

/-- The stream whose row an operation drains. -/
def Flight.rowOp (f : Flight) : Option Nat :=
  match f.kind with
  | .row op _ _ _ => some op
  | _ => none

/-- Streams in service on a core: those bound, and those freed with a row that is still to be drained, in flight or held
(19 R254, R260). -/
def State.inService (s : State) (die core : Nat) : Nat :=
  let ts := s.contexts.filter (fun e => e.1.die == die && e.1.core == core)
  let bound := ts.flatMap (fun e => (List.range 8).filterMap (fun k => (e.2.stream? k).map (·.op)))
  let flying := s.flights.filterMap (fun f => if f.party.die == die && f.party.core == core then f.rowOp else none)
  let held := ts.flatMap (fun e => e.2.held.filterMap (fun h => h.flight?.bind Flight.rowOp))
  bound.length + ((flying ++ held).filter (fun op => !bound.contains op)).eraseDups.length

/-- A forwarding entry becomes free, on whichever core holds it (23 R323). -/
def State.dropEntry (s : State) (x : Fwd) : State :=
  { s with cores := s.cores.map (fun e => (e.1, { e.2 with fwd := e.2.fwd.filter (· != x) })) }

/-- CFREE of ck of a context (19 R269). -/
def State.freeChan (s : State) (p : Party) (k : Nat) : State :=
  match s.thread? p with
  | none => s
  | some t =>
    match t.chan? k with
    | none => s
    | some c =>
      let s : State := s.setThread p (t.setChan k none)
      let s : State := s.dropEntry (match c.conn with
        | some n => .chan n c.out
        | none => .waiting t.ctx k)
      if c.out then
        { s with
          flights := s.flights.filter (fun f =>
            match f.kind with
            | .connect j _ _ => !(f.ctx == t.ctx && j == k)
            | _ => true) }
      else
        -- the sender's endpoint becomes freed, in its slot or saved
        let free (t : Thread) : Thread :=
          { t with chans := t.chans.map (fun o => o.map (fun x =>
              if x.out && x.conn == c.conn && x.conn.isSome then { x with st := .freed } else x)) }
        { s with
          threads := s.threads.map (fun e => (e.1, free e.2))
          saved := s.saved.map (fun x => { x with thread := free x.thread }) }

/-- Streams and channels are released, and the tile binding ends (09 R123, step 2). -/
def State.releaseBindings (s : State) (p : Party) : State :=
  let s : State := (List.range 8).foldl (fun s k => s.freeStream p k) s
  let s : State := (List.range 8).foldl (fun s k => s.freeChan p k) s
  s.mapThread p (fun t => { t with tile := none })

/-! ### Departure of a domain (11 R131, R154; 15 R211) -/

/-- A terp register becomes free: the lines that it pinned, and no other register pins, become unpinned (15 R228). -/
def DieSt.freeTerp (d : DieSt) (i : Nat) : DieSt :=
  { d with
    terps := vset d.terps i none
    l2 := d.l2.map (fun e => (e.1, { e.2 with pins := e.2.pins.filter (fun j => j != i) })) }

/-- After a context of a domain has left a core: tiles, weight slots and terp registers that no context of the domain
uses any longer. -/
def State.departed (s : State) (p : Party) (dom : Nat) : State :=
  let here := s.contexts.filter (fun e => e.2.dom == dom)
  let onDie := here.filter (fun e => e.1.die == p.die)
  let s :=
    if onDie.any (fun e => e.1.core == p.core) then s
    else
      let c : CoreSt := s.core p
      s.setCore p { c with tiles := c.tiles.map (fun t => if t.tag == some dom then Tile.reset else t) }
  let s :=
    if onDie.any (fun e => Party.cluster e.1 == Party.cluster p) then s
    else
      let c := s.cluster p
      s.setCluster p
        { c with wslots := c.wslots.map (fun w => if w.st != .free && w.dom == dom then WSlot.reset else w) }
  if !onDie.isEmpty then s
  else
    s.setDie p.die ((List.range 8).foldl (fun d i =>
      match vget d.terps i none with
      | some t => if t.dom == dom then d.freeTerp i else d
      | none => d) (s.dieAt p.die))

/-- The slot holds no context any longer. -/
def State.vacate (s : State) (p : Party) : State :=
  match s.thread? p with
  | none => s
  | some t =>
    let s : State := { s.dropThread p with rest := terase s.rest (Party.key p) }
    -- held stores are discarded with their thread (15 R201)
    let s : State := (t.held.filterMap (fun h => h.flight?.bind Flight.rowOp)).foldl (fun s op => s.endStream p op) s
    s.departed p t.dom

/-! ### Barriers (19 R275, R279) -/

def State.barrier (s : State) (die n : Nat) : Barrier :=
  if n < 12 then tgetD (s.dieAt die).bars n Barrier.reset else tgetD s.bars n Barrier.reset

def State.setBarrier (s : State) (die n : Nat) (b : Barrier) : State :=
  if n < 12 then
    let d := s.dieAt die
    s.setDie die { d with bars := tset d.bars n b }
  else { s with bars := tset s.bars n b }

def Barrier.member (b : Barrier) (ctx : Nat) : Bool := b.members.any (fun m => m.ctx == ctx)

def Barrier.hasArrived (b : Barrier) (ctx : Nat) : Bool := b.arrived.any (fun e => e.1.ctx == ctx)

/-- A member that ends leaves its barrier at once; the phase completes with status 1 if it had not arrived
(19 R279). A change that it has asked for and that waits for the completion goes with it. -/
def Barrier.lose (b : Barrier) (ctx : Nat) : Barrier :=
  { b with
    members := b.members.filter (fun m => m.ctx != ctx)
    lost := b.lost || (b.member ctx && !b.hasArrived ctx)
    changes := b.changes.filter (fun e => e.1.ctx != ctx) }

/-- A context leaves barriers of a range (19 R279). -/
def State.leaveBarriers (s : State) (die ctx : Nat) (ns : List Nat) : State :=
  ns.foldl (fun s n =>
    let b := s.barrier die n
    if b.member ctx || b.changes.any (fun e => e.1.ctx == ctx) then s.setBarrier die n (b.lose ctx) else s) s

/-! ### Matrix commands (11 R168) -/

/-- Rows that a command emptied fill with their current contents. -/
def CoreSt.fillRows (c : CoreSt) (cmd : MatCmd) : CoreSt :=
  { c with
    tiles := vmod c.tiles cmd.tile (fun t =>
      { t with rows := t.rows.map (fun r => if r.fill = .empty cmd.id then { r with fill := .full } else r) }) }

/-- Discards commands of a context: the held and queued ones, or the held ones alone. -/
def State.discardCmds (s : State) (p : Party) (ctx : Nat) (heldOnly : Bool) : State :=
  let c : CoreSt := s.core p
  let out := c.mq.filter (fun m => m.ctx == ctx && !m.done && (m.held || !heldOnly))
  let c := out.foldl (fun c m => c.fillRows m) { c with mq := c.mq.filter (fun m => !out.any (fun x => x.id == m.id)) }
  let s : State := s.setCore p c
  if out.any (fun m => m.held) then s.mapThread p (fun t => { t with mfault := 0 }) else s

/-- The held commands of a thread that has quit are discarded, each with a record on its domain's queue that has the
address of the command (09 R123, step 4). -/
def State.discardQuit (s : State) (p : Party) (t : Thread) : State :=
  let held := (s.core p).mq.filter (fun m => m.ctx == t.ctx && !m.done && m.held)
  held.foldl (fun s m => s.postMemError m.dom 0x0B (some p) (some m.iaddr)) (s.discardCmds p t.ctx true)

/-! ### Polders (13 R179, R188, R189) -/

/-- Whether a stream of a core, bound before an operation, keeps a polder in use: its descriptor is still to be read there,
or its buffer stands there and is read or written for as long as it is in service (13 R179; 19 R260). -/
def Stream.uses (x : Stream) (n op : Nat) : Bool :=
  decide (x.op < op) &&
    ((x.words.isNone && x.fault.isNone && inPolder n x.desc 64) || inPolder n (.sram x.buf) (128 * x.depth))

/-- Whether an operation of a core, issued before another, still uses a polder. -/
def Flight.uses (f : Flight) (n : Nat) : Bool :=
  f.parts.any (fun x => x.open_ && inPolder n x.loc x.size) ||
    (match f.kind with
      | .row _ _ _ buf => inPolder n (.sram buf) 1
      | .pzero _ m => m == n
      | _ => false)

/-- Every access to a polder that any slot of a core issued before an operation is complete (13 R179, step 2); one that is
held is not. Of the contexts that are saved the rule says nothing: those of the core's slots count (DESIGN CHOICE: log 120). -/
def State.polderIdle (s : State) (p : Party) (n op : Nat) : Bool :=
  let ours (q : Party) : Bool := q.die == p.die && q.core == p.core
  s.flights.all (fun f => !(ours f.party && decide (f.id < op) && f.uses n)) &&
    (s.core p).mq.all (fun c => !(decide (c.id < op) && !c.done &&
      (match c.a with
        | some l => inPolder n l 4096
        | none => false))) &&
    (List.range 8).all (fun e =>
      let g := tgetD (s.dieAt p.die).engines e ⟨[]⟩
      g.queue.all (fun c => !(ours c.party && decide (c.op < op) && (inPolder n c.src c.len || inPolder n c.dst c.len)))) &&
    (s.contexts.filter (fun e => ours e.1)).all (fun e =>
      e.2.streams.all (fun o => o.all (fun x => !x.uses n op)) && e.2.leaving.all (fun x => !x.uses n op) &&
        e.2.held.all (fun h => h.flight?.all (fun f => !(decide (f.id < op) && f.uses n))))

def State.window? (s : State) (p : Party) (w : Nat) : Option Window := tget (s.core p).windows w

def State.setWindow (s : State) (p : Party) (w : Nat) (x : Option Window) : State :=
  let c : CoreSt := s.core p
  s.setCore p { c with windows := match x with
    | some v => tset c.windows w v
    | none => terase c.windows w }

/-- The core that keeps a polder, by its attach entry; none where KOFF names no cluster (13 R172). -/
def State.keeperOf (s : State) (n : Nat) (e : Attach) : Option Party :=
  (s.clusterToward (n / 64) e.koff).map (fun ck => ⟨ck / 32, Config.coreAt (ck % 32) e.keeper, 15⟩)

/-- The name of a polder as a core sees it (13 Table 13.4). -/
def polderName (p : Party) (n : Nat) : Nat :=
  bearing (Party.clusterKey p) (n / 64) * 64 + n % 64

/-- A polder goes into quarantine, with a message to its keeper, where it has one (13 R188). -/
def State.quarantine (s : State) (n : Nat) : State :=
  let e := { s.attachOf n with st := .quarantined, window := 0, pinv := false }
  let s : State := s.setAttach n e
  match s.keeperOf n e with
  | some k => s.message k 2 (w64 (polderName k n))
  | none => s

/-- The quarantine of one window once the wait is over. -/
def State.flipKill (s : State) (f : Flight) : State :=
  match f.kind with
  | .kill w n =>
    if s.polderIdle f.party n f.id then ((s.setWindow f.party w none).quarantine n).dropFlight f.id else s
  | _ => s

/-- Every quarantine whose wait is over takes place. -/
def State.killSweep (s : State) : State := s.flights.foldl (fun s f => s.flipKill f) s

/-- The kill rule for the polders of a unit (13 R188). A window that a DETACH has closed is no window that the unit holds, and
the rule names no DETACH: one that has not flipped is finished as a DETACH (DESIGN CHOICE: log 118). -/
def State.killPolders (s : State) (u : Nat) (members : List Party) : State :=
  let held := s.cores.flatMap (fun e =>
    (e.2.windows.filter (fun w => w.2.holder == u && w.2.st != .closed)).map (fun w => (e.1, w.1, w.2)))
  let s : State := held.foldl (fun s e =>
    let p : Party := ⟨e.1 / 256, e.1 % 256, 0⟩
    let s : State := s.setWindow p e.2.1 (some { e.2.2 with st := .closed })
    { s with
      flights := s.flights ++ [⟨s.nextOp, p, 0, .kill e.2.1 e.2.2.polder, [], .rlx, .core, 0, 0, false, 0, false⟩]
      nextOp := s.nextOp + 1 }) s
  -- hand-overs not yet flipped
  let s : State := { s with
    flights := s.flights.map (fun f =>
      match f.kind with
      | .hand w n _ _ _ _ =>
        match s.window? f.party w with
        | some x => if x.holder == u then { f with kind := .kill w n } else f
        | none => f
      | _ => f) }
  -- an ATTACH that its table has not performed attaches nothing
  let asked := s.flights.filterMap (fun f =>
    match f.kind with
    | .status (.attach _ w _ v) _ => if v == u then some (f.id, f.party, w) else none
    | _ => none)
  let s : State := asked.foldl (fun s e => (s.setWindow e.2.1 e.2.2 none).dropFlight e.1) s
  -- arrivals pinned to a slot of the unit
  let s : State := members.foldl (fun s p =>
    let c : CoreSt := s.core p
    let out := c.arrivals.filter (fun a => a.pin == some p.slot)
    let s : State := s.setCore p { c with arrivals := c.arrivals.filter (fun a => a.pin != some p.slot) }
    out.foldl (fun s a => s.quarantine a.polder) s) s
  s.killSweep

/-! ### Revisions (21 R300, R302) -/

/-- The use count of a revision, without the owner's hold (21 R300). -/
def State.uses (s : State) (c : Nat) : Nat :=
  (s.threads.filter (fun e => e.2.revNo == c)).length +
    (s.saved.filter (fun x => x.thread.revNo == c)).length +
    (s.launches.filter (fun e => !e.2.dead && bits (nth e.2.words 5 0) 55 44 == c)).length +
    (s.pendingRevs.filter (fun e => e.2.2.2 == c)).length +
    (s.revs.filter (fun e => e.2.parent == c)).length

/-- A killed context joins nothing: its children are abandoned, with those whose JOIN was held (15 R201; 21 R302). -/
def State.abandon (s : State) (ctx : Nat) : State :=
  { s with
    revs := s.revs.map (fun e =>
      if e.2.owner == ctx && (e.2.hold || e.2.joining.any (fun j => (s.flight? j.op).isNone)) then
        (e.1, { e.2 with hold := false, live := false, abandoned := true, joining := none })
      else e) }

/-! ### Copy commands (15 R201; 19 R273) -/

/-- A copy command whose failed remainder is discarded: it leaves its engine, and its registration goes. -/
def State.dropCopy (s : State) (op : Nat) : State :=
  s.dies.foldl (fun s e =>
    let d := s.dieAt e.1
    match d.engines.findSome? (fun g => g.2.queue.find? (fun c => c.op == op)) with
    | none => s
    | some c =>
      let s : State := s.setDie e.1
        { d with engines := d.engines.map (fun g => (g.1, { g.2 with queue := g.2.queue.filter (fun x => x.op != op) })) }
      s.weirRemove (Party.clusterKey c.party) op) s

/-! ### Kill (23 R313) -/

/-- The copy commands whose rest a context holds are discarded with it. -/
def State.dropHeldCopies (s : State) (t : Thread) : State :=
  t.held.foldl (fun s h =>
    match h.what with
    | .copy op _ _ _ => s.dropCopy op
    | _ => s) s

/-- Steps 1 to 4 of a kill for one context: it stops, its loads are forgotten, its held stores go. -/
def State.killContext (s : State) (p : Party) : State :=
  match s.thread? p with
  | none => s
  | some t =>
    let s : State := s.dropHeldCopies t
    let loads := (s.flights.filter (fun f => f.ctx == t.ctx && (match f.kind with
      | .load _ => true
      | _ => false))).map (·.id)
    let s : State := s.setCore p ((s.core p).refill loads)
    let s : State := { s with
      flights := s.flights.filter (fun f =>
        !(f.ctx == t.ctx &&
          (match f.kind with
            | .load _ => true
            | .status (.launch ..) _ | .status (.attach ..) _ | .status (.join _) _ => false
            | .status .. => true
            | _ => false)))
      rest := terase s.rest (Party.key p) }
    let s : State := s.setThread p
      { t with held := [], owed := [], firstTrap := none, quitting := true, halted := false, follow := none,
               park := some ⟨.quit, true, 0, false⟩ }
    let s : State := s.releaseBindings p
    let s : State := (t.held.filterMap (fun h => h.flight?.bind Flight.rowOp)).foldl (fun s op => s.endStream p op) s
    let s : State := s.discardCmds p t.ctx false
    let s : State := (s.abandon t.ctx).dropEntry (.loads t.ctx)
    s.leaveBarriers p.die t.ctx (List.range 16)

/-- The channels of a context that holds no slot are released as QUIT releases them: a sender's endpoint becomes freed, a
connect still on its way goes, and so do the forwarding entries of its endpoints and queues (09 R123; 19 R269; 23 R323). -/
def State.releaseSaved (s : State) (t : Thread) : State :=
  let conns := t.chans.toList.filterMap (fun o => o.bind (fun c => c.conn.map (fun n => (n, c.out))))
  let queues := t.streams.toList.filterMap (fun o => o.bind (fun x => if x.qid.isSome then some x.op else none))
  let free (y : Thread) : Thread :=
    { y with chans := y.chans.map (fun o => o.map (fun x =>
        if x.out && x.conn.any (fun n => conns.contains (n, false)) then { x with st := .freed } else x)) }
  { s with
    threads := s.threads.map (fun e => (e.1, free e.2))
    saved := s.saved.map (fun x => { x with thread := free x.thread })
    cores := s.cores.map (fun e => (e.1, { e.2 with fwd := e.2.fwd.filter (fun z =>
      match z with
      | .loads c | .waiting c _ => c != t.ctx
      | .chan n o => !conns.contains (n, o)
      | .queue op _ => !queues.contains op) }))
    flights := s.flights.filter (fun f =>
      match f.kind with
      | .connect .. => f.ctx != t.ctx
      | .load _ => !(f.ctx == t.ctx && f.moved)
      | _ => true) }

/-- The kill of a context that is saved: its held copies, its streams and channels, its revisions and its barriers
(23 R313). -/
def State.killSaved (s : State) (x : Saved) : State :=
  let s : State := (s.dropHeldCopies x.thread).releaseSaved x.thread
  (s.abandon x.thread.ctx).leaveBarriers x.party.die x.thread.ctx (List.range 16)

/-- Kills a unit, a gang or a codelet, with its fault records (23 R313). -/
def State.killUnit (s : State) (u cause kind : Nat) (by_ : Party) (epc : Nat) : State :=
  match s.work u with
  | none => s
  | some w =>
    if w.st == .dead then s
    else
      let members := (s.contexts.filter (fun e => e.2.unit == u)).map (·.1)
      let s : State := members.foldl (fun s p => s.killContext p) s
      let s : State := (s.saved.filter (fun x => x.thread.unit == u)).foldl (fun s x => s.killSaved x) s
      let s : State := s.killPolders u w.members
      let s : State := { s.setWork u { w with st := .dead } with saved := s.saved.filter (fun x => x.thread.unit != u) }
      let party := some (Party.code by_)
      let s : State := s.postFault w.dom cause kind w.dom w.queue party (some epc) none
      s.postHost cause kind w.dom w.queue party (some epc) none

end Sys2Proof.Machine
end

