-- ==== Sys2Proof/Machine/Ops.lean ====
section
/-! DEFINITION. Taking a trap, the accesses that a return sends again, and how a meaning ends: its effects, a trap or
a wait (spec/05 R53; 09 R115; 15 R200, R202; 23 R312). -/

namespace Sys2Proof.Machine

/-- DEBUG of the queue that a context counts in (23 R327, R331). -/
def State.debugAttached (s : State) (p : Party) (t : Thread) : Bool :=
  match s.queueOfThread p t with
  | none => false
  | some q =>
    match s.queue q with
    | none => false
    | some x => bit (nth x.entry 1 0) 24

/-- A gang is to migrate: its slots stop at a bundle boundary (23 R322, step 1). -/
def State.startMigration (s : State) (u : Nat) (need : Nat) (target : Option Nat) : State :=
  match s.work u with
  | none => s
  | some w =>
    if w.st == .running then s.setWork u { w with st := .moving, need := Nat.lor w.need need, target := target } else s

/-- A trap enters its slot (23 R312). For cause 0x09 the gang is to migrate and resumes at the bundle; `einfo` then
holds the FEAT bit that is absent. -/
def State.takeTrap (s : State) (p : Party) (cause word : Nat) (epc eaddr einfo : Word) : State :=
  match s.thread? p with
  | none => s
  | some t =>
    let s : State := { s with rest := terase s.rest (Party.key p) }
    let t : Thread := { t with park := none, readyAt := s.clock p.die + 2 }
    if cause = 0x09 then (s.setThread p { t with pc := epc }).startMigration t.unit einfo.toNat none
    else if cause = 0x0F && s.debugAttached p t then
      (s.setThread p { t with halted := true }).postHost 0x0F 7 t.dom (s.queueOfThread p t)
        (some (Party.code p)) (some epc.toNat) (some einfo.toNat)
    else if t.tvec = 0 || (t.sup && !wbit t.status stIe) then (s.setThread p t).killUnit t.unit cause 0 p epc.toNat
    else
      let st1 := wset (wset t.status stPmode t.sup) stPie (wbit t.status stIe)
      let st2 := wset (wset st1 stMode true) stIe false
      s.setThread p
        { t with
          epc := epc
          ecause := w64 (word * 256 + cause)
          eaddr := eaddr
          einfo := einfo
          status := st2
          pc := t.tvec }

/-- An asynchronous event is taken before a bundle (09 R115, R116): its pending bit clears, its information reaches
EADDR and EINFO. -/
def State.takeEvent (s : State) (p : Party) (cause : Nat) : State :=
  match s.thread? p with
  | none => s
  | some t =>
    if cause = 0x14 then
      (s.setThread p (t.setStatus stEpend false)).takeTrap p 0x14 0 t.pc t.memEvent.1 t.memEvent.2
    else if cause = 0x11 then (s.setThread p (t.setStatus stTpend false)).takeTrap p 0x11 0 t.pc 0 0
    else
      let c : CoreSt := s.core p
      match c.msgs with
      | [] => s
      | (kind, info) :: rest =>
        let s : State := s.setCore p { c with msgs := rest, msgLost := false }
        s.takeTrap p 0x12 0 t.pc (w64 (kind % 256 + b2n c.msgLost * 256)) info

/-! ### Accesses that ERET sends again (15 R202) -/

/-- The byte that a local address names, without checks; none where its window is not open. -/
def State.localLoc (s : State) (p : Party) (addr : Nat) : Option Loc :=
  let w := bits addr 21 16
  if w == 0 then some (.sram (homeByte p (bits addr 15 0)))
  else
    match s.window? p w with
    | some x => if x.st == .opened then some (.sram (polderBase x.polder + bits addr 15 0)) else none
    | none => none

def State.locOf (s : State) (p : Party) (addr : Nat) : Option Loc :=
  if isLocal addr then s.localLoc p addr else some (.va (addr % 2 ^ 56))

/-- The runs of a range, as a core's weir registration takes them: a global range is one; a local one is cut at its windows,
each compared by its polder and offset. Nothing stands behind a window that is not open (19 R252; DEDUCED: log 126). -/
def State.weirRuns (s : State) (p : Party) (lo n : Nat) : List (Nat × Loc × Nat) :=
  let whole : List (Nat × Loc × Nat) := [(0, .va lo, n)]
  if !isLocal lo then whole
  else
    let runs := (List.range 64).filterMap (fun w =>
      let at_ := 2 ^ 63 + w * 65536
      let start := Nat.max lo at_
      let stop := Nat.min (lo + n) (at_ + 65536)
      let polder : Option Nat := if w == 0 then some (homePolder p)
        else (s.window? p w).bind (fun x => if x.st == .opened || (x.st == .pending && x.holder != 0) then some x.polder else none)
      if start < stop then polder.map (fun j => (start - lo, .sram (polderBase j + start % 65536), stop - start)) else none)
    if runs.isEmpty then whole else runs

/-- Something to send again: its place in program order and what it is. -/
inductive Resend where
  | reg (r : Nat) (x : Replay)
  | row (tile r : Nat) (x : Replay)
  | held (h : Held)
  deriving DecidableEq, Repr

/-- Adds an operation for a context, as a new access. -/
def State.addFlight (s : State) (p : Party) (t : Thread) (kind : FlightKind) (parts : List Part) (x : Replay) : State :=
  { s with
    flights := s.flights ++ [⟨s.nextOp, p, t.ctx, kind, parts, x.ord, x.scope, x.dom, x.rev, t.sup, x.iaddr, false⟩]
    nextOp := s.nextOp + 1 }

/-- Parts of 16 bytes of a row. -/
def rowParts (addr : Nat) (l : Loc) (n : Nat) : List Part :=
  (List.range (n / 16)).map (fun i => mkPart (addr + 16 * i) (l.plus (16 * i)) 16 0)

/-- Sends one access again, from the place where its thread now is. A held store goes on under its own number, so that
whatever waits for it waits for it still (15 R201; 13 R179). The rest of a copy command goes on in its own engine. -/
def State.sendAgain (s : State) (p : Party) : Resend → State
  | .reg r x =>
    match s.thread? p with
    | none => s
    | some t =>
      let s' : State := s.setThread p { t with g := vset t.g r (.empty s.nextOp) }
      match x.op with
      | .launch gb _ =>
        let parts := ((s.locOf p gb).map (fun l => mkPart gb l 96 0)).toList
        s'.addFlight p t (.status (.launch x.addr gb) r) parts x
      | .load =>
        match s.locOf p x.addr with
        | none => s
        | some l => s'.addFlight p t (.load (.g r x.signed)) [mkPart x.addr l (2 ^ x.log2) 0] x
      | .atomic op a c =>
        match s.locOf p x.addr with
        | none => s
        | some l => s'.addFlight p t (.atomic op a c r) [mkPart x.addr l (2 ^ x.log2) 0] x
  | .row tile r x =>
    match s.thread? p, s.locOf p x.addr with
    | some t, some l =>
      let c : CoreSt := s.core p
      let s' : State := s.setCore p (c.mapRow tile r (fun y => { y with fill := .empty s.nextOp }))
      s'.addFlight p t (.load (.row tile r)) (rowParts x.addr l 128) x
    | _, _ => s
  | .held h =>
    match h.what with
    | .flight f => { s with flights := insertFlight { f with party := p, moved := false } s.flights }
    | .copy op off _ _ =>
      let again (c : Copy) : Copy := if c.op == op then { c with stopped := false, from_ := off } else c
      { s with
        dies := s.dies.map (fun d =>
          (d.1, { d.2 with engines := d.2.engines.map (fun e => (e.1, { e.2 with queue := e.2.queue.map again })) })) }
    | .stitch .. => s

/-- The place of a resend in program order. -/
def Resend.seq : Resend → Nat
  | .reg _ x => x.seq
  | .row _ _ x => x.seq
  | .held h => h.seq

/-- Inserts by place in program order. -/
def insertResend (x : Resend) : List Resend → List Resend
  | [] => [x]
  | y :: r => if x.seq < y.seq then x :: y :: r else y :: insertResend x r

/-- Poisoned rows that ERET sends again: those of the core's tiles of the context's domain that LDV or MLOAD filled. -/
def State.poisonedRows (s : State) (p : Party) (dom : Nat) : List Resend :=
  (List.range 8).flatMap (fun k =>
    let t := vget (s.core p).tiles k Tile.reset
    if t.tag == some dom then
      (List.range 32).filterMap (fun r =>
        match (vget t.rows r ⟨0, .full⟩).fill with
        | .poison x => if x.again then some (.row k r x) else none
        | _ => none)
    else [])

/-- A poisoned row of an inbound stream is to be read again: a matrix command that took it waits for it once more
(19 R259). -/
def Stream.refill (x : Stream) : Stream :=
  match x.bad with
  | [] => x
  | (n, _) :: _ =>
    let claims := if x.moved ≤ n then x.claims
      else
        match x.claims with
        | (c, due) :: r => if c == x.lastClaim then (c, due + 1) :: r else (x.lastClaim, 1) :: x.claims
        | [] => [(x.lastClaim, 1)]
    { x with bad := [], filled := x.filled - 1, claims := claims }

/-- Whether ERET has a row of a stream read again. -/
def Stream.poisoned (x : Stream) : Bool := !x.outbound && !x.bad.isEmpty && x.fault.isNone

/-- The rows that matrix commands took poisoned from streams that are read again are taken back. -/
def State.untakeRows (s : State) (p : Party) (xs : List Stream) : State :=
  let cs := (xs.filter (fun x => x.bad.any (fun e => decide (e.1 < x.moved)))).map (·.lastClaim)
  if cs.isEmpty then s
  else
    let c : CoreSt := s.core p
    s.setCore p
      { c with mq := c.mq.map (fun m =>
          if cs.contains m.id && (m.aRows.getLast?.any (fun r => r.2.isSome)) then { m with aRows := m.aRows.dropLast } else m) }

/-- ERET from cause 0x07 or 0x0A first sends the recorded accesses again, in program order (15 R202; 19 R259). -/
def State.resendAll (s : State) (p : Party) : State :=
  match s.thread? p with
  | none => s
  | some t =>
    let regs := t.poisonedRegs.filterMap (fun e => if e.2.again then some (Resend.reg e.1 e.2) else none)
    let all := regs ++ s.poisonedRows p t.dom ++ t.held.map .held
    let sorted := all.foldl (fun l x => insertResend x l) []
    let bad := (t.streams.toList.filterMap id ++ t.leaving).filter Stream.poisoned
    let fix (x : Stream) : Stream := if x.poisoned then x.refill else x
    let s : State := s.setThread p { t with held := [], streams := t.streams.map (fun o => o.map fix), leaving := t.leaving.map fix }
    let s : State := s.untakeRows p bad
    sorted.foldl (fun s x => s.sendAgain p x) s

/-! ### How a word ends -/

/-- The state after the word's effects: the slot goes on at the next bundle. -/
def State.commit (s : State) : State :=
  let s : State := s.mapThread s.cur (fun t => { t with pc := s.issue.next })
  { s with issue := { s.issue with last := .done } }

/-- The slot parks before its bundle has issued (03 R40). -/
def State.parkBefore (s : State) (why : ParkWhy) : State :=
  let s : State := s.mapThread s.cur (fun t =>
    { t with park := some ⟨why, false, match t.park with
        | some x => if x.why == why then x.waited else 0
        | none => 0, s.issue.second⟩ })
  { s with issue := { s.issue with last := .parked } }

/-- The slot parks after its bundle has issued. -/
def State.parkAfter (s : State) (why : ParkWhy) : State :=
  let s : State := s.mapThread s.cur (fun t => { t with park := some ⟨why, true, 0, s.issue.second⟩ })
  { s with issue := { s.issue with last := .parked } }

/-- The bundle traps with no effect (05 R53). -/
def State.trapNow (s : State) (cause : Nat) (word : Nat) (epc eaddr einfo : Word) : State :=
  let s : State := s.takeTrap s.cur cause word epc eaddr einfo
  { s with issue := { s.issue with last := .trapped }, freeCount := s.freeCount + 2 }

/-- A trap for which the manual states neither EADDR nor EINFO: both are free (DESIGN CHOICE: log 21). -/
def State.openTrap (s : State) (cause : Nat) : Except Stop α :=
  trap cause (Config.freeValue s.freeCount) (Config.freeValue (s.freeCount + 1))

/-- A trap for which the manual states no EADDR: it is free (DESIGN CHOICE: log 21). -/
def State.openAddrTrap (s : State) (cause : Nat) (einfo : Word) : Except Stop α :=
  trap cause (Config.freeValue s.freeCount) einfo

/-- How a meaning ends. -/
def State.settle (s : State) : Eff → State
  | .ok s' => s'.commit
  | .error (.trap cause eaddr einfo word) =>
    s.trapNow cause (word.getD (b2n s.issue.second)) s.issue.pc eaddr einfo
  | .error (.trapAt cause epc eaddr einfo) => s.trapNow cause 0 epc eaddr einfo
  | .error (.park why) => s.parkBefore why
  | .error (.parkAfter why s') => s'.parkAfter why

/-- Runs a meaning in the current slot. -/
def run (m : State → Eff) (s : State) : Host.Outcome State Fault Refusal :=
  match s.thread? s.cur with
  | none => .fault .noContext
  | some _ => .next (s.settle (m s))

/-- An event of the device always leads to a next state; one that is not enabled changes nothing (DESIGN CHOICE: log 1). -/
def event (f : State → State) (s : State) : Host.Outcome State Fault Refusal := .next (f s)

end Sys2Proof.Machine
end

