-- ==== Sys2Proof/Machine/Operands.lean ====
section
/-! DEFINITION. Operand forms: g registers with their channel aliases, predicates, rows of the bound tile with their
stream aliases (05 R54, R55, R59; 09 R93; 11 R132, R134, R135; 15 R200, R218; 19 R254, R264). -/

namespace Sys2Proof.Machine

/-! ### Traps of streams and channels (19 R251) -/

def chanTrap (k reason : Nat) : Except Stop α := trap 0x0D 0 (w64 (k * 16 + reason))

def streamTrap (k reason : Nat) : Except Stop α := trap 0x0C 0 (w64 (k * 16 + reason))

/-- The endpoint that a g field names, if it is bound (05 R59). -/
def State.aliasChan (s : State) (r : Reg) : Option (Nat × Chan) :=
  if 24 ≤ r.val then (s.src.chan? (r.val - 24)).map (fun c => (r.val - 24, c)) else none

/-- The stream that a v field names, if it is bound (11 R135). -/
def State.aliasStream (s : State) (r : Reg) : Option (Nat × Stream) :=
  if 24 ≤ r.val then (s.src.stream? (r.val - 24)).map (fun x => (r.val - 24, x)) else none

/-! ### General registers as sources -/

/-- The poisoned registers among sources, as reports (15 R200). -/
def State.poisonOf (s : State) (rs : List Reg) : Option Poison :=
  rs.foldl (fun o r =>
    if (s.aliasChan r).isSome then o
    else
      match s.src.g[r] with
      | .poison x => if r.val = 0 then o else olderPoison o (.ofReplay x false r.val)
      | _ => o) none

/-- The trap that reading poison makes. In a pair it reports the oldest that either word reads, and names the word that
reads it (15 R200). -/
def State.poisonTrap (s : State) (p : Poison) (word : Option Nat) : Except Stop α :=
  match s.issue.mate with
  | some m =>
    if m.seq < p.seq then .error (.trap m.cause (w64 m.addr) m.einfo (some 1))
    else .error (.trap p.cause (w64 p.addr) p.einfo word)
  | none => .error (.trap p.cause (w64 p.addr) p.einfo word)

/-- Traps that reading registers makes before anything else: the oldest poison among them (15 R200). -/
def State.checkPoison (s : State) (rs : List Reg) : Except Stop Unit :=
  match s.poisonOf rs with
  | some p => s.poisonTrap p none
  | none => .ok ()

/-! ### Pops (05 R55) -/

/-- Pops of a bundle so far that a code names. -/
def Issue.pops (i : Issue) (code : Nat) : Nat := (i.popped.filter (fun e => e.1 == code)).length

/-- A pop is noted, with what it gave. -/
def State.notePop (s : State) (code v : Nat) : State :=
  { s with issue := { s.issue with popped := (code, v) :: s.issue.popped } }

/-- A pop of inbound endpoint k takes place, where the bundle has not freed it: one word less is buffered, and an
automatic grant goes to the sender (19 R266). -/
def State.takeWord (s : State) (k : Nat) : State :=
  match s.me.chan? k with
  | some e =>
    let grant := e.auto && decide (e.b - 1 + e.g < 32)
    let s : State := s.setMe (s.me.setChan k
      (some { e with b := e.b - 1, head := e.head + 1, g := if grant then e.g + 1 else e.g }))
    match grant, e.conn with
    | true, some n => s.launchFlight (.grant n 1) [] .rlx .pkg
    | _, _ => s
  | none => s

/-- A pop of inbound stream k takes place, where the bundle has not freed it (19 R254). -/
def State.takeRow (s : State) (k : Nat) : State :=
  match s.me.stream? k with
  | some e => s.setMe (s.me.setStream k (some { e with moved := e.moved + 1 }))
  | none => s

/-- The pop that a code names takes place. -/
def State.takePop (s : State) (code : Nat) : State := if code < 8 then s.takeWord code else s.takeRow (code - 8)

/-- The next of the A-word's pops that were made when the bundle read its registers. -/
def State.nextAhead (s : State) : Option (Nat × State) :=
  match s.issue.ahead with
  | v :: r => some (v, { s with issue := { s.issue with ahead := r } })
  | [] => none

/-- Reads a g register: g0 reads 0; a bound inbound endpoint is popped (09 R93; 19 R264, R266). -/
def State.readG (s : State) (r : Reg) : Except Stop (Word × State) :=
  match s.aliasChan r with
  | some (k, c) =>
    if c.out then chanTrap k 3
    else
      match s.nextAhead with
      | some (v, s) => .ok (w64 v, s)
      | none =>
        let n := s.issue.pops k
        let c0 := if s.issue.pre.isSome then c else { c with head := c.head - n, b := c.b + n }
        if c0.b ≤ n then .error (.park (.word k (n + 1)))
        else
          let v := s.readSram (homeByte s.cur (0x0800 + 0x100 * c0.rbuf + 8 * ((c0.head + n) % 32))) 8
          .ok (w64 v, (s.notePop k v).takeWord k)
  | none =>
    if r.val = 0 then .ok (0, s)
    else
      match s.src.g[r] with
      | .val v => .ok (v, s)
      | .empty _ => .error (.park (.reg r.val))
      | .poison x => s.poisonTrap (.ofReplay x false r.val) none

/-- Reads two registers, in field order (05 R55). -/
def State.read2 (s : State) (a b : Reg) : Except Stop (Word × Word × State) := do
  s.checkPoison [a, b]
  let (x, s) ← s.readG a
  let (y, s) ← s.readG b
  pure (x, y, s)

/-! ### General registers as destinations -/

/-- The check of a send: a bundle with more sends on an endpoint than its allowance parks until all of them have one
(19 R266, R270). -/
def State.checkSend (s : State) (k : Nat) (c : Chan) : Except Stop Unit :=
  if !c.out then chanTrap k 3
  else if c.st == .refused then chanTrap k 5
  else if c.st == .freed then chanTrap k 7
  else
    let a := match s.me.chan? k with
      | some e => e.a
      | none => c.a
    if a = 0 then .error (.park (.send k (c.a + 1))) else .ok ()

/-- The checks of a destination: an empty register parks, and so does a send without allowance (03 R40; 15 R218;
19 R266). -/
def State.checkDest (s : State) (r : Reg) : Except Stop Unit :=
  match s.aliasChan r with
  | some (k, c) => s.checkSend k c
  | none =>
    if r.val = 0 then .ok ()
    else
      match s.src.g[r] with
      | .empty _ => .error (.park (.reg r.val))
      | _ => .ok ()

/-- The checks of a destination that a reply fills later: it is no bound endpoint (15 R217; 19 R264). -/
def State.checkAsync (s : State) (r : Reg) : Except Stop Unit :=
  match s.aliasChan r with
  | some (k, _) => chanTrap k 3
  | none =>
    if r.val = 0 then .ok ()
    else
      match s.src.g[r] with
      | .empty _ => .error (.park (.reg r.val))
      | _ => .ok ()

/-- Writes a g register: g0 discards it; a bound outbound endpoint sends it (09 R93; 19 R266). -/
def State.writeG (s : State) (r : Reg) (v : Word) : State :=
  match s.aliasChan r with
  | some (k, c) =>
    let e := (s.me.chan? k).getD c
    let s : State := s.setMe (if (s.me.chan? k).isSome then s.me.setChan k (some { e with a := e.a - 1 }) else s.me)
    match e.conn with
    | some n => s.launchFlight (.word n v) [] .rlx .pkg
    | none => s
  | none => if r.val = 0 then s else s.setMe { s.me with g := s.me.g.set r.val (.val v) r.isLt }

/-- Empties a g register until the operation of the next number arrives. -/
def State.emptyG (s : State) (r : Reg) : State :=
  if r.val = 0 then s else s.setMe { s.me with g := s.me.g.set r.val (.empty s.nextOp) r.isLt }

/-! ### Predicates (09 R93, R111) -/

/-- Lane count of the bound tile, or 0 (11 R130). -/
def State.lanes (s : State) : Nat :=
  match s.src.tile with
  | none => 0
  | some k => 1024 / Fmt.bits (s.srcTiles[k]).typ

/-- Count(q) (09 R93). -/
def State.readQ (s : State) (q : Reg8) : Except Stop Nat :=
  if q.val = 0 then .ok s.lanes
  else
    match s.src.q[q] with
    | .val n => .ok n
    | .empty _ => .error (.park .pred)

def State.checkDestQ (s : State) (q : Reg8) : Except Stop Unit :=
  match s.src.q[q] with
  | .val _ => .ok ()
  | .empty _ => .error (.park .pred)

/-- Writes a count, clamped to 128 (09 R111). -/
def State.writeQ (s : State) (q : Reg8) (n : Nat) : State :=
  s.setMe { s.me with q := s.me.q.set q.val (.val (Nat.min n 128)) q.isLt }

/-! ### Rows of the bound tile (11 R132 to R136) -/

/-- A word found illegal at issue: cause 0x01 with the word's address and the word (05 R51, R66). -/
def State.illegalHere (s : State) : Except Stop α :=
  trap 0x01 (if s.issue.second then s.issue.pc + 4 else s.issue.pc) (s.issue.word.zeroExtend 64)

/-- The bound tile; an instruction that needs one traps with cause 0x01 without it (11 R134). -/
def State.boundTile (s : State) : Except Stop (Fin 8) :=
  match s.src.tile with
  | some k => .ok k
  | none => s.illegalHere

/-- Byte of a stream's buffer that holds row n. -/
def Stream.rowByte (x : Stream) (n : Nat) : Nat := x.buf + 128 * (n % x.depth)

/-- Rows present in an inbound stream's buffer. -/
def Stream.avail (x : Stream) : Nat := x.filled - x.moved

/-- The trap of a faulted stream (19 R251). -/
def Stream.faultTrap (x : Stream) (k r : Nat) : Except Stop α :=
  trap 0x0C (w64 (if r = 6 then x.faultAddr else 0)) (w64 (k * 16 + r))

/-- A word that must know a stream's descriptor waits until it has been read (19 R257). -/
def Stream.needWords (x : Stream) (k : Nat) : Except Stop Unit :=
  if x.words.isSome then .ok ()
  else
    match x.bad, x.fault with
    | (_, r) :: _, _ =>
      let p := Poison.ofReplay r true (24 + k)
      trap p.cause (w64 p.addr) p.einfo
    | [], some r => x.faultTrap k r
    | [], none => .error (.park (.descriptor k))

/-- Whether the row after `ahead` further pops of an inbound stream can be read: a trap, a wait, or the row
(19 R254, R257, R259). -/
def State.peekStream (s : State) (k : Nat) (x : Stream) (ahead : Nat) : Except Stop Row :=
  let n := x.moved + ahead
  if x.outbound then streamTrap k 4
  else if x.qid.isNone && x.words.isSome && x.fault.isNone && decide (x.rows ≤ n) then streamTrap k 5
  else
    match x.bad.find? (fun e => e.1 == n) with
    | some (_, r) => s.poisonTrap (.ofReplay r true (24 + k)) none
    | none =>
      if n < x.filled then .ok (BitVec.ofNat 1024 (s.readSram (x.rowByte n) 128))
      else
        match x.fault with
        | some r => x.faultTrap k r
        | none => .error (.park (.stream k (ahead + 1)))

/-- Pops the head row of an inbound stream (05 R55; 19 R254). -/
def State.popStream (s : State) (k : Nat) (x : Stream) : Except Stop (Row × State) :=
  match s.nextAhead with
  | some (v, s) => .ok (BitVec.ofNat 1024 v, s)
  | none => do
    let n := s.issue.pops (8 + k)
    let x0 : Stream := if s.issue.pre.isSome then x else { x with moved := x.moved - n }
    let v ← s.peekStream k x0 n
    pure (v, (s.notePop (8 + k) v.toNat).takeRow k)

/-- Reads row r of a tile as a source: an empty row parks, a poisoned one traps (11 R132; 15 R200). -/
def State.readTileRow (s : State) (k : Fin 8) (r : Nat) : Except Stop Row :=
  let row := vget (s.srcTiles[k]).rows r ⟨0, .full⟩
  match row.fill with
  | .full => .ok row.data
  | .empty _ => .error (.park (.row k.val r))
  | .poison x => s.poisonTrap (.ofReplay x true r) none

/-- The poison that reading v registers meets: that of a row, or of the head row of a stream. -/
def State.poisonOfV (s : State) (o : Option Poison) (vs : List Reg) : Option Poison :=
  vs.foldl (fun o r =>
    match s.aliasStream r, s.src.tile with
    | some (k, x), _ =>
      let n := x.moved + (if s.issue.pre.isSome then s.issue.pops (8 + k) else 0)
      match x.bad.find? (fun e => e.1 == n) with
      | some (_, y) => olderPoison o (.ofReplay y true (24 + k))
      | none => o
    | none, some t =>
      match (vget (s.srcTiles[t]).rows r.val ⟨0, .full⟩).fill with
      | .poison y => olderPoison o (.ofReplay y true r.val)
      | _ => o
    | none, none => o) o

/-- Traps that reading g and v registers makes before anything else: the oldest poison among them (15 R200). -/
def State.checkPoisonGV (s : State) (gs vs : List Reg) : Except Stop Unit :=
  match s.poisonOfV (s.poisonOf gs) vs with
  | some p => s.poisonTrap p none
  | none => .ok ()

/-- Reads a v register in full (11 R134, R135). -/
def State.readV (s : State) (r : Reg) : Except Stop (Row × State) :=
  match s.aliasStream r with
  | some (k, x) => s.popStream k x
  | none => do
    let t ← s.boundTile
    let v ← s.readTileRow t r.val
    pure (v, s)

/-- A row of free values: bits that the manual gives no value (DESIGN CHOICE: log 21). -/
def State.freshRow (s : State) : Row × State :=
  (BitVec.ofNat 1024 ((List.range 16).foldl (fun acc i => acc + (Config.freeValue (s.freeCount + i)).toNat * 2 ^ (64 * i)) 0),
    { s with freeCount := s.freeCount + 16 })

/-- What an instruction leaves in the lanes of vd that it does not write: the row that vd holds, whose data poison
leaves standing; a row pushed onto a stream has nothing there that the manual states (11 R132, R140). -/
def State.oldV (s : State) (r : Reg) : Row × State :=
  match s.aliasStream r with
  | some _ => s.freshRow
  | none =>
    match s.src.tile with
    | some t => ((vget (s.srcTiles[t]).rows r.val ⟨0, .full⟩).data, s)
    | none => (0, s)

/-- Address of element n of an affine stream (19 R255). -/
def Stream.elemAddr (x : Stream) (n : Nat) : Nat :=
  let w := x.word 1
  let n0 := bits w 15 0
  let n1 := bits w 31 16
  let n2 := bits w 47 32
  let s0 := signedOf 32 (x.word 2)
  let s1 := signedOf 32 (x.word 2 / 2 ^ 32)
  let s2 := signedOf 32 (x.word 3)
  let s3 := signedOf 32 (x.word 3 / 2 ^ 32)
  let i0 : Int := (n % n0 : Nat)
  let i1 : Int := (n / n0 % n1 : Nat)
  let i2 : Int := (n / (n0 * n1) % n2 : Nat)
  let i3 : Int := (n / (n0 * n1 * n2) : Nat)
  (((x.word 0 : Nat) + i0 * s0 + i1 * s1 + i2 * s2 + i3 * s3) % (2 ^ 64 : Nat)).toNat

/-- Elements of row r of a stream: their number within the row and their address (19 R255). -/
def Stream.rowElems (x : Stream) (r : Nat) : List (Nat × Nat) :=
  let e := 128 / x.esize
  (List.range e).filterMap (fun j =>
    let n := x.pos + r * e + j
    if n < x.total then some (j, x.elemAddr n) else none)

/-- What a transfer unit finds for an element: its place, a failed check, or a window that is pending. -/
inductive ElemCheck where
  | ok (l : Loc)
  | bad
  | wait
  deriving DecidableEq, Repr

/-- The state in which the checks of an access of another moment run: those of a party, with the DOMAIN, revision and
mode that its operation recorded. -/
def State.asParty (s : State) (p : Party) (dom rev : Nat) (sup : Bool) : State :=
  let t : Thread := { s.thread p with domain := w64 dom, rev := w64 rev }
  { s with cur := p, issue := { Issue.reset with pre := some ⟨t.setStatus stMode sup, (s.core p).tiles, none⟩ } }

/-- The state in which the checks of a push run: what the bundle saw before it stays so. -/
def State.seeing (s : State) (b : Option (Nat × Table Window)) : State :=
  { s with issue := { s.issue with pre := s.issue.pre.map (fun x => { x with before := b }) } }

/-- What the current bundle saw before it. -/
def State.before (s : State) : Option (Nat × Table Window) := s.issue.pre.bind (·.before)

/-- An operand at the port of the core parks until the accesses to its bytes that were issued before the bundle are performed. -/
def State.checkPort (s : State) (l : Loc) (n : Nat) (write : Bool) : Except Stop Unit :=
  if s.portBusy s.cur l n write ((s.before.map (·.1)).getD s.nextOp) then .error (.park (.port l n write)) else .ok ()

/-- The checks of an element; the unit waits for a PLB fill (15 R193, R194; 19 R258). -/
def State.elemTry (s : State) (addr n need : Nat) : Nat → ElemCheck × State
  | 0 => (.bad, s)
  | fuel + 1 =>
    match s.checkAccess addr n n need with
    | .ok (l, s) => (.ok l, s)
    | .error (.park (.plb a)) =>
      match s.searchRegion s.src.dom a with
      | .ok e => State.elemTry (s.setCore s.cur ((s.core s.cur).plbUse e)) addr n need fuel
      | .error _ => (.bad, s)
    | .error (.park _) => (.wait, s)
    | .error _ => (.bad, s)

def State.elemCheck (s : State) (p : Party) (b : Option (Nat × Table Window)) (dom rev : Nat) (sup : Bool)
    (addr n need : Nat) : ElemCheck × State :=
  let r := State.elemTry ((s.asParty p dom rev sup).seeing b) addr n need 4
  (r.1, { r.2 with cur := s.cur, issue := s.issue })

/-- The checks of the elements of a stream's row: their places, the first failed address, or a window to wait for. -/
inductive RowCheck where
  | ok (ls : List (Nat × Nat × Loc))     -- number within the row, address, place
  | bad (addr : Nat)
  | wait (w : Nat)
  deriving DecidableEq, Repr

def State.rowCheck (s : State) (p : Party) (b : Option (Nat × Table Window)) (x : Stream) (r : Nat) : RowCheck × State :=
  let need := if x.outbound then needW else needR
  (x.rowElems r).foldl (fun o e =>
    match o with
    | (.ok ls, s) =>
      match s.elemCheck p b x.dom x.rev x.sup e.2 x.esize need with
      | (.ok l, s) => (.ok (ls ++ [(e.1, e.2, l)]), s)
      | (.bad, s) => (.bad e.2, s)
      | (.wait, s) => (.wait (bits e.2 21 16), s)
    | o => o) (.ok [], s)

/-- The pending window that the next row of an outbound stream would write. -/
def State.rowWaits (s : State) (x : Stream) : Option Nat :=
  match (s.rowCheck s.cur s.before x x.moved).1 with
  | .wait w => some w
  | _ => none

/-- The checks of a v destination: an empty row parks; a stream needs its direction, room and a row left
(11 R132; 19 R254). -/
def State.checkDestV (s : State) (r : Reg) : Except Stop Unit :=
  match s.aliasStream r with
  | some (k, x) =>
    let before := x.moved
    let x := (s.me.stream? k).getD x
    if !x.outbound then streamTrap k 4
    else
      match x.fault with
      | some r => x.faultTrap k r
      | none =>
        if x.rows ≤ x.moved then streamTrap k 5
        else if x.depth ≤ x.moved - x.filled then .error (.park (.stream k (x.moved - before + 1)))
        else
          match s.rowWaits x with
          | some w => .error (.park (.window w))
          | none => s.checkPort (.sram (x.rowByte x.moved)) 128 true
  | none => do
    let t ← s.boundTile
    match (vget (s.srcTiles[t]).rows r.val ⟨0, .full⟩).fill with
    | .empty _ => .error (.park (.row t.val r.val))
    | _ => pure ()

/-- Puts a stream of the current slot back, where the other word of the bundle has not freed it. -/
def State.putStream (s : State) (k : Nat) (x : Stream) : State :=
  if (s.me.stream? k).isSome then s.setMe (s.me.setStream k (some x)) else s

/-- Pushes a row onto an outbound stream: its element stores are issued; an element that fails protection or
alignment makes the stream faulted instead (19 R258, R259). -/
def State.pushStream (s : State) (k : Nat) (x : Stream) (v : Row) : State :=
  let s : State := s.writeSram (x.rowByte x.moved) 128 v.toNat
  match s.rowCheck s.cur s.before x x.moved with
  | (.ok ls, s) =>
    let parts := ls.map (fun e => mkPart e.2.1 e.2.2 x.esize (v.toNat / 2 ^ (8 * x.esize * e.1) % 2 ^ (8 * x.esize)))
    let s : State := { s with
      flights := s.flights ++ [⟨s.nextOp, s.cur, s.me.ctx, .row x.op k x.moved x.buf, parts, .rlx, .pkg, x.dom, x.rev,
        x.sup, x.iaddr, false⟩]
      nextOp := s.nextOp + 1 }
    s.putStream k { x with moved := x.moved + 1 }
  | (.bad a, s) => s.putStream k { x with moved := x.moved + 1, fault := some 6, faultAddr := a }
  | (.wait _, s) => s

/-- Writes a v register from a vector instruction: the row is empty until the slot's spacing is over; a stream is
pushed (11 R132, R141; 19 R254). `whole` says that every bit of the row is written, which clears poison; another write of a
poisoned row leaves it poisoned, and never empty (DESIGN CHOICE: log 109). -/
def State.writeV (s : State) (r : Reg) (v : Row) (whole : Bool) (spacing : Nat) : State :=
  match s.aliasStream r with
  | some (k, x) => s.pushStream k ((s.me.stream? k).getD x) v
  | none =>
    match s.src.tile with
    | none => s
    | some t =>
      let c : CoreSt := s.core s.cur
      let poisoned := match (vget (vget c.tiles t.val Tile.reset).rows r.val ⟨0, .full⟩).fill with
        | .poison _ => true
        | _ => false
      if poisoned && !whole then s.setCore s.cur (c.mapRow t.val r.val (fun x => { x with data := v }))
      else
        let s' : State := s.setCore s.cur (c.mapRow t.val r.val (fun _ => ⟨v, .empty s.nextOp⟩))
        s'.launchFlight (.vfill (Party.coreKey s.cur) t.val r.val (s.clock s.cur.die + spacing)) [] .rlx .core

end Sys2Proof.Machine
end

