-- ==== Sys2Proof/Machine/Flags.lean ====
section
/-! DEFINITION. The event counters that results count in, the generator of rounding mode SR, and the next bundle's
address (07 R84, R90; 09 R109). -/

namespace Sys2Proof.Machine

/-- One step of the generator of the context that issues (07 R84): the draw, and SEED with it stored. -/
def State.draw (s : State) : Nat × State :=
  let t : Thread := s.me
  let x := stepSeed (t.seed.toNat % 2 ^ 32)
  (x, s.setMe { t with seed := w64 x })

/-- The draw of an element rounded in mode m: only SR steps the generator. -/
def State.drawFor (s : State) (m : Rounding) : Nat × State :=
  match m with
  | .sr => s.draw
  | _ => (0, s)

/-- SEED as MTC and the starts of threads store it: a generator value of 0 is stored as 1 (07 R84). -/
def seedOf (v : Nat) : Word := w64 (if v % 2 ^ 32 = 0 then 1 else v % 2 ^ 32)

/-- Writes a result to a g register and counts the events it raised. -/
def State.writeCounted (s : State) (d : Reg) (v : Word) (evs : Counts) : State := (s.count evs).writeG d v

/-- Sets the address of the next bundle. -/
def State.goTo (s : State) (next : Word) : State := { s with issue := { s.issue with next := next } }

end Sys2Proof.Machine
end

