-- ==== Sys2Proof/Machine/Ready.lean ====
section
/-! DEFINITION. Which slots are ready, and when a parked bundle that has not issued wakes (03 R38, R40, R41). -/

namespace Sys2Proof.Machine

/-- Whether a row of a tile is empty for an operation that is no matrix command of the core: commands on one tile
run in sequence without a wait by the program (11 R132, R153). -/
def CoreSt.rowBusy (c : CoreSt) (x : TileRow) : Bool :=
  match x.fill with
  | .empty op => !c.mq.any (fun m => m.id == op)
  | _ => false

/-- Whether a bundle that parked before it issued wakes: the condition of its park has come about (03 Table 3.6). -/
def State.wakes (s : State) (p : Party) (t : Thread) (why : ParkWhy) : Bool :=
  let c : CoreSt := s.core p
  match why with
  | .reg r =>
    match vget t.g r (.val 0) with
    | .empty _ => false
    | _ => true
  | .pred => t.q.all (fun x =>
      match x with
      | .empty _ => false
      | _ => true)
  | .row k r =>
    match (vget (vget c.tiles k Tile.reset).rows r ⟨0, .full⟩).fill with
    | .empty _ => false
    | _ => true
  | .rows k => (vget c.tiles k Tile.reset).rows.all (fun x =>
      match x.fill with
      | .empty _ => false
      | _ => true)
  | .stream k n =>
    match t.stream? k with
    | none => true
    | some x =>
      if x.outbound then decide (x.moved - x.filled + n ≤ x.depth) || x.fault.isSome
      else decide (x.moved + n ≤ x.filled) || x.fault.isSome || !x.bad.isEmpty
  | .descriptor k =>
    match t.stream? k with
    | none => true
    | some x => x.words.isSome || x.fault.isSome || !x.bad.isEmpty
  | .send k n =>
    match t.chan? k with
    | none => true
    | some e => decide (n ≤ e.a) || e.st == .refused || e.st == .freed
  | .word k n =>
    match t.chan? k with
    | none => true
    | some e => decide (n ≤ e.b)
  | .alt mask => (List.range 8).any (fun k => bit mask k && ((t.chan? k).any (fun e => decide (0 < e.b))))
  | .arrival seen => c.arrivalCount != seen
  | .window w =>
    match tget c.windows w with
    | some x => x.st != .pending
    | none => true
  | .plb a =>
    (c.plbFind t.dom a).isSome ||
      (match s.searchRegion t.dom a with
        | .error _ => true
        | .ok _ => false)
  | .port l n write => !s.portBusy p l n write s.nextOp
  | .earlier loads stores op => s.earlierDone t.ctx op loads stores
  | .barrier bar phase _ => (s.barrier p.die bar).phase != phase
  | .joinUses r => s.uses r == 0
  | .matrixQueue => decide (c.mq.length < 4)
  | .drained op =>
    s.earlierDone t.ctx op true true &&
      (c.mq.all (fun m => m.ctx != t.ctx) || c.mq.any (fun m => m.ctx == t.ctx && m.held))
  | .matrixDone | .wfe _ | .sleep .. | .barw .. | .ops _ | .stored _ | .sys _ | .quit => false

/-- Whether the threads of a unit issue: a unit that is to move or has been killed does not (23 R313, R319, R322). -/
def State.unitRuns (s : State) (u : Nat) : Bool :=
  match s.work u with
  | some w => w.st == .running
  | none => true

/-- Whether a queue holds a slot back from issue: each slot that it is to pre-empt, and of a core whose tenant changes the
slot that the rotation has reached; its other slots issue until they change (03 R48). -/
def LQueue.keepsBack (q : LQueue) (p : Party) : Bool := if q.stopped then q.changing.contains p else q.reached.contains p

/-- Whether a slot holds a context that is not parked or halted, with no bundle in the pipeline. -/
def State.couldIssue (s : State) (p : Party) : Bool :=
  match s.thread? p with
  | none => false
  | some t =>
    !t.halted && !t.quitting && decide (t.readyAt ≤ s.clock p.die) && !(s.dieAt p.die).halted && s.unitRuns t.unit &&
      t.park.isNone

/-- Whether a slot is ready (03 R38). A slot that parks before it issues is ready from the cycle after its wake (03 R40, R41),
at which its park ends. -/
def State.ready (s : State) (p : Party) : Bool := s.couldIssue p && s.queues.all (fun e => !e.2.keepsBack p)

/-- The ready slots of a core, in order. -/
def State.readySlots (s : State) (p : Party) : List Nat :=
  (List.range 16).filter (fun i => s.ready ⟨p.die, p.core, i⟩)

/-- Whether a slot has yielded and is not yet offered a turn again (09 R122). -/
def State.yields (s : State) (p : Party) (t : Thread) : Bool :=
  t.yield.any (fun y => !y.1.isEmpty && decide (s.clock p.die < y.2))

/-- Whether a slot may be offered an issue turn: ready, with no A-word to run first, and not yielding. -/
def State.offerable (s : State) (p : Party) : Bool :=
  match s.thread? p with
  | none => false
  | some t => s.ready p && (tget s.rest (Party.key p)).isNone && !s.yields p t

/-- Whether a slot is the one of its core that is next to change with the tenant, and the rotation has not reached it yet
(03 R48). -/
def State.nextToChange (s : State) (p : Party) : Bool :=
  s.queues.any (fun e => !e.2.stopped && !e.2.reached.contains p &&
    e.2.changing.find? (fun x => x.die == p.die && x.core == p.core) == some p)

/-- Whether the rotation reaches a slot that is next to change: at its issue turn, or as it passes one that is parked or
holds no context that issues (03 R48). -/
def State.reaches (s : State) (p : Party) : Bool :=
  s.nextToChange p && !(s.dieAt p.die).halted &&
    (match s.thread? p with
      | none => true
      | some t => t.park.isSome || t.halted || t.quitting || s.offerable p)

/-- Whether a core has yet to make its offer in this cycle (03 R38), or to pass a slot that changes. -/
def State.owesOffer (s : State) (die core : Nat) : Bool :=
  (s.coreAt (die * 256 + core)).lastCycle != some (s.clock die) &&
    (List.range 16).any (fun i => s.offerable ⟨die, core, i⟩ || s.reaches ⟨die, core, i⟩)

end Sys2Proof.Machine
end

