-- ==== Sys2Proof/WellFormed.lean ====
section
/-! DEFINITION. Which terms of Instr stand for an instruction word that 05 R65 calls an instruction, or for an event at a
place that exists (00 R6). Each check cites the rule that reserves the values it refuses. -/

namespace Sys2Proof

/-- Orderings a load accepts (15 R216, Table 15.9). -/
def Ordering.okLoad : Ordering → Bool
  | .rlx | .acq => true
  | .rel | .ar => false

/-- Orderings a store accepts (15 R216, Table 15.9). -/
def Ordering.okStore : Ordering → Bool
  | .rlx | .rel => true
  | .acq | .ar => false

/-- Registers that 09 Table 9.10 marks read-only in every mode: an MTC of one is no instruction (09 R112). -/
def CReg.readOnly : CReg → Bool
  | .wid | .wfmt | .slotid | .feat | .timer => true
  | _ => false

/-- Formats FCVT accepts (09 R105). -/
def Fmt.okFcvt : Fmt → Bool
  | .bf16 | .fp16 | .int8 | .fp32 | .int16 | .int32 | .fp64 => true
  | .fp8e4 | .fp8e5 | .fp4 | .tern => false

/-- Formats VCVT accepts (11 R149). -/
def Fmt.okVcvt : Fmt → Bool
  | .tern | .fp64 => false
  | _ => true

/-- Tile element types (11 Table 11.1). -/
def Fmt.okTile : Fmt → Bool
  | .fp32 | .int32 | .bf16 | .fp16 | .int16 | .int8 => true
  | .fp8e4 | .fp8e5 | .fp4 | .tern | .fp64 => false

/-- A place of the device (00 R6). -/
def Party.ok (p : Party) : Bool := p.die < 12 && p.core < 256 && p.slot < 16

/-- Words that must have L = 1 (05 Table 5.9, column Pair). -/
def Instr.loneOnly : Instr → Bool
  | .trap _ | .eret | .mtc _ _ | .dbg _ | .harvest _ _ | .tlbsd _ _ | .plbinv _ | .terp _ _ _ | .unterp _ _
  | .wfe _ | .sleep _ _ | .yield | .quit | .swapout _ | .swapin _ | .migrate _ => true
  | _ => false

/-- The operands of the term are ones that the manual accepts. -/
def Instr.wellFormed : Instr → Bool
  | .mtc c _ => !c.readOnly                                   -- 09 R112
  | .loop d _ => d ≠ 0                                        -- 09 R109
  | .ld _ o _ _ _ _ | .ldIndexed _ o _ _ _ _ | .mload o _ _ _ _ => o.okLoad      -- 15 R216, 11 R165
  | .st _ o _ _ _ _ | .stIndexed _ o _ _ _ _ | .mstore o _ _ _ _ => o.okStore   -- 15 R216, 11 R165
  | .acfg _ f => f.okTile                                     -- 11 R164
  | .fcvt _ _ _ _ _ g => g.okFcvt                             -- 09 R105
  | .vcvt _ _ _ _ _ f => f.okVcvt                             -- 11 R149
  | .ext _ _ p l | .ins _ _ p l => p.toNat + l.toNat + 1 ≤ 64 -- 09 R100
  | .pcnt d _ | .pmin d _ _ | .pmov d _ => d ≠ 0              -- 09 R111
  | .swapout (.at ga) | .swapin (.at ga) => ga ≠ 0            -- 23 R316
  | .codeletStart p | .asyncEventTrap p | .timerCompare p | .sleepWake p | .tenantSlotChange p | .plbFill p _
  | .streamDescriptorRead p _ | .streamFill p _ | .streamDrain p _ | .channelTimeout p | .barrierTimeout p
  | .preemptSave p | .contextResume p | .tlbsdComplete p | .harvestComplete p | .plbinvComplete p => p.ok   -- 00 R6
  | _ => true

end Sys2Proof
end

