-- ==== Sys2Proof/Machine/Control.lean ====
section
/-! DEFINITION. Control registers, traps by instruction, waiting and ending a thread (09 R112 to R123; 23 R327). -/

namespace Sys2Proof.Machine

/-! ### Control registers (09 R112, Table 9.10) -/

/-- Registers that user mode does not read. -/
def CReg.supRead : CReg → Bool
  | .tvec | .wdog | .mweight => true
  | _ => false

/-- Registers that user mode writes. -/
def CReg.userWrite : CReg → Bool
  | .fmta | .fmtb | .scla | .sclb | .arg | .tcmp | .seed => true
  | _ => false

/-- SLOTID of a place (09 Table 9.11). -/
def Party.slotid (p : Party) : Nat :=
  p.slot % 16 + p.core % 256 * 2 ^ 4 + p.die % 16 * 2 ^ 12 + Party.cluster p % 32 * 2 ^ 16 +
    Config.posOf p.core % 8 * 2 ^ 21

/-- Bits of a register that are not reserved: a reserved field reads 0 and ignores writes (00 R5). -/
def CReg.mask : CReg → Nat
  | .wfmt => 2 ^ 36 - 1
  | .fmta | .fmtb => 0x3F
  | .scla | .sclb => 2 ^ 56 - 1
  | .ecause => 0x1FF
  | .tvec => 2 ^ 64 - 4
  | .status => 0x7071F
  | .domain => 0x7F
  | .rev => 0xFFF
  | .seed => 2 ^ 32 - 1
  | .mfault => 0xC00000000000FFC7
  | .mweight => 0xF
  | .ev _ => 2 ^ 32 - 1
  | _ => 2 ^ 64 - 1

/-- A register value without its reserved bits. -/
def maskTo (m : Nat) (v : Word) : Word := w64 (Nat.land m v.toNat)

/-- Value of a control register as MFC reads it. -/
def State.readCReg (s : State) (c : CReg) : Word :=
  let t : Thread := s.me
  let k : CoreSt := s.core s.cur
  match c with
  | .wid => t.wid
  | .wfmt => t.wfmt
  | .slotid => w64 (Party.slotid s.cur)
  | .feat => w64 (Config.feat s.cur.die)
  | .fmta => t.fmta
  | .fmtb => t.fmtb
  | .scla => t.scla
  | .sclb => t.sclb
  | .arg => t.arg
  | .epc => t.epc
  | .ecause => t.ecause
  | .eaddr => t.eaddr
  | .einfo => t.einfo
  | .tvec => t.tvec
  | .status => s.statusOf s.cur
  | .timer => w64 (s.clock s.cur.die)
  | .tcmp => t.tcmp
  | .wdog =>
    match (s.queueOfThread s.cur t).bind s.queue with
    | some q => q.wdog
    | none => 0
  | .domain => t.domain
  | .rev => t.rev
  | .seed => t.seed
  | .mfault => t.mfault
  | .slottab => k.slottab
  | .mweight => w64 k.mweight
  | .ev n => w64 k.ev[n]

/-- A privilege trap: cause 0x03 with EADDR and EINFO 0 (23 Table 23.1). -/
def privilege : Except Stop α := trap 0x03 0 0

/-- The checks of an instruction permitted in supervisor mode only (05 R53). -/
def State.needSup (s : State) : Except Stop Unit := if s.src.sup then .ok () else privilege

/-- MFC (09 R112). -/
def effMfc (d : Reg) (c : CReg) (s : State) : Eff := do
  if CReg.supRead c && !s.src.sup then privilege
  s.checkDest d
  pure (s.writeG d (s.readCReg c))

def execMfc (d : Reg) (c : CReg) (s : State) : Host.Outcome State Fault Refusal := run (effMfc d c) s

/-- Write rule of STATUS (09 R114, R116): pending bits are raised or withdrawn where the bit written differs. A memory-error
event that the write raises has no record: what its entry puts into EADDR and EINFO is free (DESIGN CHOICE: log 105). -/
def State.mtcStatus (s : State) (v : Word) : State :=
  let w := maskTo (CReg.mask .status) v
  let old := s.statusOf s.cur
  let mp := wbit w stMpend
  let (info, s) : (Word × Word) × State :=
    if wbit w stEpend && !wbit old stEpend then
      let (a, s) := s.fresh
      let (b, s) := s.fresh
      ((a, b), s)
    else (s.me.memEvent, s)
  let s : State := s.setMe { s.me with status := wset w stMpend false, memEvent := info }
  if s.cur.slot != 15 || mp == wbit old stMpend then s
  else
    let c : CoreSt := s.core s.cur
    s.setCore s.cur (if mp then { c with msgs := [(0, 0)] } else { c with msgs := [], msgLost := false })

/-- Write rule of REV (21 R306): a live revision of DOMAIN, or 0; any other value leaves REV unchanged. -/
def State.mtcRev (s : State) (v : Word) : State :=
  let t : Thread := s.me
  let r := v.toNat % 4096
  let ok := r == 0 || (tget s.revs r).any (fun x => x.live && x.dom == t.dom)
  if ok then s.setMe { t with rev := w64 r } else s

/-- Write rule of MFAULT (11 R168): HOLD = 0 while VALID = 1 resumes the held command at BLOCK. -/
def State.mtcMfault (s : State) (v : Word) : State :=
  let t : Thread := s.me
  let w := maskTo (CReg.mask .mfault) v
  let c : CoreSt := s.core s.cur
  let resume := wbit t.mfault 63 && !wbit w 62
  let mq := if resume then c.mq.map (fun m =>
      if m.ctx == t.ctx && m.held then { m with held := false, resumed := true, block := w.toNat % 8 } else m) else c.mq
  (s.setCore s.cur { c with mq := mq }).setMe { t with mfault := w }

/-- A SLOTTAB value as it is stored (03 R42). -/
def slottabOf (v : Nat) : Nat :=
  let entry (i : Nat) : Nat := if bits v (2 * i + 1) (2 * i) == 3 then 0 else bits v (2 * i + 1) (2 * i)
  let entries := (List.range 32).map entry
  let kept := if entries.contains 1 then entries else entries.set 31 1
  kept.foldr (fun e acc => e + 4 * acc) 0

/-- Writes a control register by its own write rule. -/
def State.writeCReg (s : State) (c : CReg) (v : Word) : State :=
  let t : Thread := s.me
  let k : CoreSt := s.core s.cur
  let w := maskTo (CReg.mask c) v
  match c with
  | .wid | .wfmt | .slotid | .feat | .timer => s
  | .fmta => s.setMe { t with fmta := w }
  | .fmtb => s.setMe { t with fmtb := w }
  | .scla => s.setMe { t with scla := w }
  | .sclb => s.setMe { t with sclb := w }
  | .arg => s.setMe { t with arg := w }
  | .epc => s.setMe { t with epc := w }
  | .ecause => s.setMe { t with ecause := w }
  | .eaddr => s.setMe { t with eaddr := w }
  | .einfo => s.setMe { t with einfo := w }
  | .tvec => s.setMe { t with tvec := w }
  | .status => s.mtcStatus v
  | .tcmp => s.setMe { t.setStatus stTpend false with tcmp := w }
  | .wdog =>
    match s.queueOfThread s.cur t with
    | none => s
    | some q =>
      match s.queue q with
      | some x => s.setQueue q { x with wdog := w }
      | none => s
  | .domain => (s.setMe { t with domain := w }).departed s.cur t.dom
  | .rev => s.mtcRev v
  | .seed => s.setMe { t with seed := seedOf v.toNat }
  | .mfault => s.mtcMfault v
  | .slottab => s.setCore s.cur { k with slottabNext := some (w64 (slottabOf v.toNat)) }
  | .mweight => s.setCore s.cur { k with mweight := if w.toNat = 0 then 1 else w.toNat }
  | .ev n => s.setCore s.cur { k with ev := k.ev.set n.val w.toNat n.isLt }

/-- MTC (09 R112). -/
def effMtc (c : CReg) (d : Reg) (s : State) : Eff := do
  if CReg.readOnly c then s.illegalHere
  if !CReg.userWrite c && !s.src.sup then privilege
  s.checkPoison [d]
  let (v, s) ← s.readG d
  pure (s.writeCReg c v)

def execMtc (c : CReg) (d : Reg) (s : State) : Host.Outcome State Fault Refusal := run (effMtc c d) s

/-! ### System words (09 R119 to R122; 23 R327) -/

/-- NOP. -/
def execNop (s : State) : Host.Outcome State Fault Refusal := run .ok s

/-- TRAP: EPC := pc + 4, EADDR := pc, EINFO := code (09 R119). -/
def effTrap (code : BitVec 10) (s : State) : Eff :=
  .error (.trapAt 0x10 (s.issue.pc + 4) s.issue.pc (code.zeroExtend 64))

def execTrap (code : BitVec 10) (s : State) : Host.Outcome State Fault Refusal := run (effTrap code) s

/-- DBG: cause 0x0F; takeTrap halts the slot when a debugger is attached (23 R327). -/
def effDbg (code : BitVec 10) (_ : State) : Eff := trap 0x0F 0 (code.zeroExtend 64)

def execDbg (code : BitVec 10) (s : State) : Host.Outcome State Fault Refusal := run (effDbg code) s

/-- The return from a trap (09 R119): MODE and IE as they stood, and the accesses of causes 0x07 and 0x0A sent again
(15 R202). -/
def State.returnTrap (s : State) : State :=
  let cause := s.me.ecause.toNat % 256
  let s : State := if cause == 0x07 || cause == 0x0A then s.resendAll s.cur else s
  let t : Thread := s.me
  let t : Thread := (t.setStatus stMode (wbit t.status stPmode)).setStatus stIe (wbit t.status stPie)
  (s.setMe t).goTo t.epc

/-- ERET (09 R119). -/
def effEret (s : State) : Eff := do
  -- in user mode it is Trap(0x03, pc): EADDR holds pc (00 Table 0.2)
  if !s.src.sup then trap 0x03 s.issue.pc 0
  let t := s.src.epc
  if t.toNat % 4 != 0 then .error (.trap 0x02 t 0 (some 0))
  pure s.returnTrap

def execEret (s : State) : Host.Outcome State Fault Refusal := run effEret s

/-- The events that a WFE waits for, of bits TPEND, MPEND and EPEND. -/
def wfeMask (x : Word) : Nat := if x.toNat % 8 = 0 then 7 else x.toNat % 8

/-- Whether a pending bit of a mask is set. -/
def State.wfePending (s : State) (p : Party) (m : Nat) : Bool := Nat.land (bits (s.statusOf p).toNat 18 16) m != 0

/-- WFE (09 R120). -/
def effWfe (a : Reg) (s : State) : Eff := do
  s.checkPoison [a]
  let (x, s) ← s.readG a
  if s.wfePending s.cur (wfeMask x) then pure s else .error (.parkAfter (.wfe (wfeMask x)) s)

def execWfe (a : Reg) (s : State) : Host.Outcome State Fault Refusal := run (effWfe a) s

/-- SLEEP (09 R121). Its gd is filled at the end of the wait: one that names a bound endpoint traps as an asynchronous result
does, whatever ga holds (DESIGN CHOICE: log 106). -/
def effSleep (d a : Reg) (s : State) : Eff := do
  s.checkPoison [a]
  let (x, s) ← s.readG a
  s.checkAsync d
  if x = 0 then pure (s.writeG d 0)
  else .error (.parkAfter (.sleep (s.clock s.cur.die + x.toNat) d.val) s)

def execSleep (d a : Reg) (s : State) : Host.Outcome State Fault Refusal := run (effSleep d a) s

/-- YIELD (09 R122): the slots that are ready are to be offered a turn first, or 15 cycles pass. -/
def effYield (s : State) : Eff :=
  let others := (s.readySlots s.cur).filter (fun i => i != s.cur.slot)
  .ok (s.setMe { s.me with yield := some (others, s.clock s.cur.die + 15) })

def execYield (s : State) : Host.Outcome State Fault Refusal := run effYield s

/-! ### Release points (15 R200) -/

/-- A release point traps while a g register of the slot is poisoned or the slot holds a held store. -/
def State.checkRelease (s : State) : Except Stop Unit :=
  match s.src.oldestPoison with
  | some p => s.poisonTrap p (some 0)
  | none => .ok ()

/-! ### Ending a thread (09 R123) -/

/-- QUIT: the slot issues no further bundle, and its bindings are released (steps 1 and 2); what it owes is settled as
it completes. -/
def effQuit (s : State) : Eff := do
  s.checkRelease
  let s : State := s.releaseBindings s.cur
  let s : State := s.leaveBarriers s.cur.die s.me.ctx (List.range 16)
  pure (s.setMe { s.me with quitting := true, park := some ⟨.quit, true, 0, false⟩ })

def execQuit (s : State) : Host.Outcome State Fault Refusal := run effQuit s

end Sys2Proof.Machine
end

