-- ==== Sys2Proof/Machine/Channels.lean ====
section
/-! DEFINITION. Channels: endpoints, words and grants (19 R264 to R270). -/

namespace Sys2Proof.Machine

/-! ### CBIND and CFREE (19 R265, R266, R269) -/

/-- Whether a peer name and a mode are well formed (19 Tables 19.7, 19.8). -/
def chanOperandsOk (a b : Nat) : Bool :=
  bits a 63 24 == 0 && bits a 7 3 == 0 && decide (bits a 23 20 ≤ 11) && bits b 63 8 == 0 && decide (bits b 5 0 ≤ 32) &&
    (!bit b 7 || (!bit b 6 && bits b 5 0 == 0))

/-- Receive buffers of a core in use. -/
def State.rbufs (s : State) (p : Party) : List Nat :=
  (s.contexts.filter (fun e => e.1.die == p.die && e.1.core == p.core)).flatMap (fun e =>
    (List.range 8).filterMap (fun k => (e.2.chan? k).bind (fun c => if c.out then none else some c.rbuf)))

def effCbind (k : Reg8) (a b : Reg) (s : State) : Eff := do
  let (ga, gb, s) ← s.read2 a b
  if (s.me.chan? k.val).isSome then chanTrap k.val 2
  if !chanOperandsOk ga.toNat gb.toNat then chanTrap k.val 1
  let peer : Party := ⟨bits ga.toNat 23 20, bits ga.toNat 19 12, bits ga.toNat 11 8⟩
  let ep := bits ga.toNat 2 0
  if !s.corePresent peer.die peer.core || !s.inPartition s.cur s.src peer.die peer.core then chanTrap k.val 5
  let dom := s.src.dom
  if wbit gb 7 then
    let s : State := s.setMe (s.me.setChan k.val (some ⟨true, peer, ep, false, none, .waiting, 0, 0, 0, 0, 0, dom⟩))
    pure (s.launchFlight (.connect k.val peer ep) [] .rlx .pkg)
  else
    match (List.range 8).find? (fun i => !(s.rbufs s.cur).contains i) with
    | none => chanTrap k.val 4
    | some i =>
      let c : Chan := ⟨false, peer, ep, wbit gb 6, some s.nextOp, .opened, i, 0, 0, bits gb.toNat 5 0, 0, dom⟩
      pure ({ s with nextOp := s.nextOp + 1 }.setMe (s.me.setChan k.val (some c)))

def execCbind (k : Reg8) (a b : Reg) (s : State) : Host.Outcome State Fault Refusal := run (effCbind k a b) s

/-- The endpoint ck of the thread; an unbound one traps (19 R268, R269). -/
def State.needChan (s : State) (k : Nat) : Except Stop Chan :=
  match s.me.chan? k with
  | some c => .ok c
  | none => chanTrap k 2

def effCfree (k : Reg8) (s : State) : Eff := do
  let _ ← s.needChan k.val
  pure (s.freeChan s.cur k.val)

def execCfree (k : Reg8) (s : State) : Host.Outcome State Fault Refusal := run (effCfree k) s

/-! ### ALT, CPOLL, CGRANT (19 R267, R268) -/

/-- ALT: whether it parks is judged before the bundle, and gd names the lowest endpoint that holds a word after the pops of the
bundle; where they take the last one, the lowest that held one (05 R53, R55; DEDUCED: log 125). -/
def effAlt (d a : Reg) (s : State) : Eff := do
  s.checkPoison [a]
  let (x, s) ← s.readG a
  let m := x.toNat
  if bits m 63 8 != 0 || m == 0 then chanTrap 0 1
  let named := (List.range 8).filter (bit m)
  match named.find? (fun k => (s.src.chan? k).isNone) with
  | some k => chanTrap k 2
  | none => pure ()
  match named.find? (fun k => (s.src.chan? k).any (·.out)) with
  | some k => chanTrap k 3
  | none => pure ()
  s.checkDest d
  let holds (t : Thread) (k : Nat) : Bool := (t.chan? k).any (fun c => decide (0 < c.b))
  match (named.find? (holds s.me)).orElse (fun _ => named.find? (holds s.src)) with
  | some k => pure (s.writeG d (w64 k))
  | none => .error (.park (.alt m))

def execAlt (d a : Reg) (s : State) : Host.Outcome State Fault Refusal := run (effAlt d a) s

def effCpoll (d : Reg) (k : Reg8) (s : State) : Eff := do
  let c ← s.needChan k.val
  s.checkDest d
  pure (s.writeG d (w64 (if c.out then c.a else c.b)))

def execCpoll (d : Reg) (k : Reg8) (s : State) : Host.Outcome State Fault Refusal := run (effCpoll d k) s

def effCgrant (d : Reg) (k : Reg8) (b : Reg) (s : State) : Eff := do
  s.checkPoison [b]
  let (x, s) ← s.readG b
  let c ← s.needChan k.val
  if c.out then chanTrap k.val 3
  s.checkDest d
  let n := Nat.min x.toNat (32 - c.b - c.g)
  let s : State := s.setMe (s.me.setChan k.val (some { c with g := c.g + n }))
  let s : State := match c.conn with
    | some id => if n = 0 then s else s.launchFlight (.grant id n) [] .rlx .pkg
    | none => s
  pure (s.writeG d (w64 n))

def execCgrant (d : Reg) (k : Reg8) (b : Reg) (s : State) : Host.Outcome State Fault Refusal := run (effCgrant d k b) s

/-! ### Connects, words and grants on their way (19 R266, R269) -/

/-- The bound endpoint of a connection: its place, its number and the endpoint. -/
def State.endpoint (s : State) (conn : Nat) (out : Bool) : Option (Party × Nat × Chan) :=
  s.contexts.findSome? (fun e =>
    (List.range 8).findSome? (fun k =>
      (e.2.chan? k).bind (fun c => if c.out == out && c.conn == some conn && c.st != .freed then some (e.1, k, c) else none)))

/-- Whether a context that is saved or moving holds an endpoint of a connection (23 R315). -/
def State.endpointSaved (s : State) (conn : Nat) : Bool :=
  s.saved.any (fun x => (List.range 8).any (fun k => (x.thread.chan? k).any (fun c => c.conn == some conn)))

/-- Whether words are still on their way to an inbound endpoint: they use grants that its sender received before (19 R266). -/
def State.wordsFor (s : State) (c : Chan) : Bool :=
  s.flights.any (fun e =>
    match e.kind with
    | .word n _ => some n == c.conn
    | _ => false)

/-- CHANNEL_CONNECT: a connect meets the endpoint that names it, and is accepted or refused. While its thread is saved, the
answer waits for it, as a grant does; and so it does for words that were sent under an earlier binding. -/
def State.chanConnect (s : State) (op : Nat) : State :=
  match s.flight? op with
  | none => s
  | some f =>
    match f.kind with
    | .connect k peer ep =>
      match (s.thread? peer).bind (fun t => t.chan? ep) with
      | none => s
      | some c =>
        if c.out || c.peer != f.party || c.ep != k || s.saved.any (fun x => x.thread.ctx == f.ctx) || s.wordsFor c then s
        else
          let s : State := s.dropFlight op
          -- the allowance on its way is among the grants that the connect answers with
          let s : State := { s with flights := s.flights.filter (fun e =>
            match e.kind with
            | .grant n _ => some n != c.conn
            | _ => true) }
          -- once it is accepted, a forwarding entry of the endpoint is one of the connection
          let name (z : Fwd) : Fwd := match c.conn with
            | some n => if z = .waiting f.ctx k && c.dom == f.dom then .chan n true else z
            | none => z
          let s : State := { s with cores := s.cores.map (fun e => (e.1, { e.2 with fwd := e.2.fwd.map name })) }
          s.mapCtx f.ctx (fun t =>
            match t.chan? k with
            | none => t
            | some e =>
              t.setChan k (some (if c.dom != f.dom then { e with st := .refused }
                else { e with st := .opened, conn := c.conn, a := c.g })))
    | _ => s

def execChannelConnect (op : Nat) (s : State) : Host.Outcome State Fault Refusal :=
  event (fun s => s.chanConnect op) s

/-- Whether an earlier word of the same channel is still on its way. -/
def State.earlierWord (s : State) (f : Flight) (conn : Nat) : Bool :=
  s.flights.any (fun e => decide (e.id < f.id) &&
    (match e.kind with
      | .word c _ => c == conn
      | _ => false))

/-- CHANNEL_WORD_ARRIVAL: a word reaches the receive buffer. It is ordered as a store (19 R289). -/
def State.wordArrival (s : State) (op : Nat) : State :=
  match s.flight? op with
  | none => s
  | some f =>
    match f.kind with
    | .word conn v =>
      if f.moved || s.earlierWord f conn || !s.mayPerform f 0 then s
      else
        match s.endpoint conn false with
        | none => if s.endpointSaved conn then s else s.dropFlight op
        | some (p, k, c) =>
          let s : State := (s.dropFlight op).writeSram (homeByte p (0x0800 + 0x100 * c.rbuf + 8 * ((c.head + c.b) % 32))) 8 v.toNat
          s.mapThread p (fun t => t.setChan k (some { c with b := c.b + 1, g := c.g - 1 }))
    | _ => s

def execChannelWordArrival (op : Nat) (s : State) : Host.Outcome State Fault Refusal :=
  event (fun s => s.wordArrival op) s

/-- CHANNEL_GRANT_ARRIVAL. -/
def State.grantArrival (s : State) (op : Nat) : State :=
  match s.flight? op with
  | none => s
  | some f =>
    match f.kind with
    | .grant conn n =>
      if f.moved then s
      else
        match s.endpoint conn true with
        | none => if s.endpointSaved conn then s else s.dropFlight op
        | some (p, k, c) => (s.dropFlight op).mapThread p (fun t => t.setChan k (some { c with a := c.a + n }))
    | _ => s

def execChannelGrantArrival (op : Nat) (s : State) : Host.Outcome State Fault Refusal :=
  event (fun s => s.grantArrival op) s

/-! ### Time-outs (19 R270) -/

/-- The endpoints that a parked bundle waits on. -/
def ParkWhy.endpoints : ParkWhy → List Nat
  | .send k _ | .word k _ => [k]
  | .alt m => (List.range 8).filter (bit m)
  | _ => []

/-- Where the peer of an endpoint is: the slot that holds the other end of its connection, or has left it saved; the slot that CBIND
named where there is no connection yet. -/
def State.peerPlace (s : State) (c : Chan) : Party :=
  match c.conn with
  | none => c.peer
  | some n =>
    match s.endpoint n (!c.out) with
    | some e => e.1
    | none =>
      ((s.saved.find? (fun x => (List.range 8).any (fun k => (x.thread.chan? k).any (fun d =>
        d.out != c.out && d.conn == some n && d.st != .freed)))).map (·.party)).getD c.peer

/-- The limit of a wait on endpoints: the die limit where every peer is on the thread's die; 0 is none. -/
def State.chanLimit (s : State) (t : Thread) (p : Party) (ks : List Nat) : Nat :=
  if ks.all (fun k => (t.chan? k).all (fun c => (s.peerPlace c).die == p.die)) then t.btoDie else t.btoPkg

/-- CHANNEL_TIMEOUT: a slot that has waited longer than its limit traps; its bundle takes no effect. -/
def State.chanTimeout (s : State) (p : Party) : State :=
  match s.thread? p with
  | none => s
  | some t =>
    match t.park with
    | some w =>
      match w.why.endpoints with
      | [] => s
      | k :: ks =>
        let limit := s.chanLimit t p (k :: ks)
        if w.after || limit == 0 || decide (w.waited ≤ limit) || s.wakes p t w.why then s
        else s.takeTrap p 0x0D (b2n w.second) t.pc 0 (w64 (k * 16 + 6))
    | none => s

def execChannelTimeout (p : Party) (s : State) : Host.Outcome State Fault Refusal :=
  event (fun s => s.chanTimeout p) s

end Sys2Proof.Machine
end

