-- ==== Sys2Proof/Decode.lean ====
section
/-! DEFINITION. The decoder and the encoder of instruction words, written from 05 Tables 5.1 to 5.10 and the encoding tables
of the instruction chapters. Decoding is total on 32-bit words: it gives an instruction, or none where 05 R65 calls the word
no instruction. A word is cut once into the fields of Table 5.1 and Table 5.2; `fields` and `ofFields` go between those and
Instr. -/

namespace Sys2Proof

/-! ### Codes of the coded fields (05 Table 5.3, Table 5.5, 07 Table 7.1) -/

def Ordering.code : Ordering → Nat
  | .rlx => 0 | .acq => 1 | .rel => 2 | .ar => 3

def Ordering.ofCode : Nat → Option Ordering
  | 0 => some .rlx | 1 => some .acq | 2 => some .rel | 3 => some .ar | _ => none

def FenceKind.code : FenceKind → Nat
  | .acq => 1 | .rel => 2 | .full => 3

def FenceKind.ofCode : Nat → Option FenceKind
  | 1 => some .acq | 2 => some .rel | 3 => some .full | _ => none

def Scope.code : Scope → Nat
  | .slot => 0 | .core => 1 | .clu => 2 | .die => 3 | .pkg => 4 | .sys => 5

def Scope.ofCode : Nat → Option Scope
  | 0 => some .slot | 1 => some .core | 2 => some .clu | 3 => some .die | 4 => some .pkg | 5 => some .sys | _ => none

def Width.code : Width → Nat
  | .d => 0 | .w => 1 | .h => 2 | .b => 3

def Width.ofCode : Nat → Option Width
  | 0 => some .d | 1 => some .w | 2 => some .h | 3 => some .b | _ => none

def FWidth.code : FWidth → Nat
  | .d => 0 | .s => 1 | .h => 2 | .b => 3

def FWidth.ofCode : Nat → Option FWidth
  | 0 => some .d | 1 => some .s | 2 => some .h | 3 => some .b | _ => none

def LdSize.code : LdSize → Nat
  | .b => 0 | .bu => 1 | .h => 2 | .hu => 3 | .w => 4 | .wu => 5 | .d => 6

def LdSize.ofCode : Nat → Option LdSize
  | 0 => some .b | 1 => some .bu | 2 => some .h | 3 => some .hu | 4 => some .w | 5 => some .wu | 6 => some .d | _ => none

def StSize.code : StSize → Nat
  | .b => 0 | .h => 1 | .w => 2 | .d => 3

def StSize.ofCode : Nat → Option StSize
  | 0 => some .b | 1 => some .h | 2 => some .w | 3 => some .d | _ => none

def AtSize.code : AtSize → Nat
  | .w => 0 | .d => 1

def AtSize.ofCode : Nat → Option AtSize
  | 0 => some .w | 1 => some .d | _ => none

def Sat.code : Sat → Nat
  | .wrap => 0 | .sat => 1

def Sat.ofCode : Nat → Option Sat
  | 0 => some .wrap | 1 => some .sat | _ => none

/-- For VCVT the field's values are the other way round (05 Table 5.3). -/
def Sat.cvtCode : Sat → Nat
  | .sat => 0 | .wrap => 1

def Sat.ofCvtCode : Nat → Option Sat
  | 0 => some .sat | 1 => some .wrap | _ => none

def Rounding.code : Rounding → Nat
  | .rne => 0 | .rtz => 1 | .rdn => 2 | .rup => 3 | .sr => 4

def Rounding.ofCode : Nat → Option Rounding
  | 0 => some .rne | 1 => some .rtz | 2 => some .rdn | 3 => some .rup | 4 => some .sr | _ => none

def FCond.code : FCond → Nat
  | .eq => 0 | .lt => 1 | .le => 2 | .un => 3

def FCond.ofCode : Nat → Option FCond
  | 0 => some .eq | 1 => some .lt | 2 => some .le | 3 => some .un | _ => none

def SgnOp.code : SgnOp → Nat
  | .copy => 0 | .neg => 1 | .xor => 2

def SgnOp.ofCode : Nat → Option SgnOp
  | 0 => some .copy | 1 => some .neg | 2 => some .xor | _ => none

def VCond.code : VCond → Nat
  | .eq => 0 | .ne => 1 | .lt => 2 | .le => 3 | .ltu => 4 | .leu => 5 | .un => 6

def VCond.ofCode : Nat → Option VCond
  | 0 => some .eq | 1 => some .ne | 2 => some .lt | 3 => some .le | 4 => some .ltu | 5 => some .leu | 6 => some .un
  | _ => none

def Fmt.code : Fmt → Nat
  | .bf16 => 0 | .fp16 => 1 | .fp8e4 => 2 | .fp8e5 => 3 | .fp4 => 4 | .int8 => 5 | .tern => 6 | .fp32 => 7 | .int16 => 8
  | .int32 => 9 | .fp64 => 10

def Fmt.ofCode : Nat → Option Fmt
  | 0 => some .bf16 | 1 => some .fp16 | 2 => some .fp8e4 | 3 => some .fp8e5 | 4 => some .fp4 | 5 => some .int8
  | 6 => some .tern | 7 => some .fp32 | 8 => some .int16 | 9 => some .int32 | 10 => some .fp64 | _ => none

def PrefHint.code : PrefHint → Nat
  | .l1 => 0 | .l2 => 1 | .own => 2

def PrefHint.ofCode : Nat → Option PrefHint
  | 0 => some .l1 | 1 => some .l2 | 2 => some .own | _ => none

/-- Control register numbers (05 Table 5.5). -/
def CReg.code : CReg → Nat
  | .wid => 0x000 | .wfmt => 0x001 | .slotid => 0x002 | .feat => 0x003
  | .fmta => 0x008 | .fmtb => 0x009 | .scla => 0x00A | .sclb => 0x00B | .arg => 0x00C
  | .epc => 0x010 | .ecause => 0x011 | .eaddr => 0x012 | .einfo => 0x013 | .tvec => 0x014 | .status => 0x015
  | .timer => 0x018 | .tcmp => 0x019 | .wdog => 0x01A
  | .domain => 0x020 | .rev => 0x021 | .seed => 0x022 | .mfault => 0x023
  | .slottab => 0x028 | .mweight => 0x029
  | .ev n => 0x040 + n.val

def CReg.ofCode (n : Nat) : Option CReg :=
  if 0x040 ≤ n ∧ n < 0x050 then some (.ev (Fin.ofNat 16 (n - 0x040)))
  else match n with
  | 0x000 => some .wid | 0x001 => some .wfmt | 0x002 => some .slotid | 0x003 => some .feat
  | 0x008 => some .fmta | 0x009 => some .fmtb | 0x00A => some .scla | 0x00B => some .sclb | 0x00C => some .arg
  | 0x010 => some .epc | 0x011 => some .ecause | 0x012 => some .eaddr | 0x013 => some .einfo | 0x014 => some .tvec
  | 0x015 => some .status | 0x018 => some .timer | 0x019 => some .tcmp | 0x01A => some .wdog
  | 0x020 => some .domain | 0x021 => some .rev | 0x022 => some .seed | 0x023 => some .mfault
  | 0x028 => some .slottab | 0x029 => some .mweight
  | _ => none

/-! ### The frame of a word (05 Table 5.1, Table 5.2) -/

/-- The fields of a word but for L: class (true for an A-word), major opcode, [23:19], [18:14], [13:9] and [8:0]. -/
structure Fields where
  k  : Bool
  op : Nat
  d  : Nat
  a  : Nat
  b  : Nat
  f  : Nat
  deriving DecidableEq, Repr

/-- Every field fits its bits. -/
def Fields.ok (x : Fields) : Prop := x.op < 64 ∧ x.d < 32 ∧ x.a < 32 ∧ x.b < 32 ∧ x.f < 512

/-- The word with these fields (05 Table 5.1). -/
def Fields.pack (lone : Bool) (x : Fields) : IWord :=
  BitVec.ofNat 32 (x.k.toNat * 0x80000000 + lone.toNat * 0x40000000 + x.op * 0x1000000 + x.d * 0x80000 + x.a * 0x4000
    + x.b * 0x200 + x.f)

/-- The fields of a word. -/
def Fields.unpack (w : IWord) : Fields :=
  { k := w.toNat / 0x80000000 % 2 == 1, op := w.toNat / 0x1000000 % 64, d := w.toNat / 0x80000 % 32,
    a := w.toNat / 0x4000 % 32, b := w.toNat / 0x200 % 32, f := w.toNat % 512 }

/-- Bit L of a word. -/
def loneBit (w : IWord) : Bool := w.toNat / 0x40000000 % 2 == 1

/-- A register field. -/
def reg (n : Nat) : Reg := Fin.ofNat 32 n

/-- A tile, predicate, stream or channel field holds 0 to 7 (05 R59). -/
def reg8 (n : Nat) : Option Reg8 := if n < 8 then some (Fin.ofNat 8 n) else none

/-- A weight slot or barrier field holds 0 to 15 (11 R156, 19 R250). -/
def reg16 (n : Nat) : Option (Fin 16) := if n < 16 then some (Fin.ofNat 16 n) else none

/-- The 14-bit immediate at [13:0]. -/
def imm14 (x : Fields) : BitVec 14 := BitVec.ofNat 14 (x.b * 512 + x.f)

/-- The 19-bit immediate at [18:0]. -/
def imm19 (x : Fields) : BitVec 19 := BitVec.ofNat 19 (x.a * 16384 + x.b * 512 + x.f)

/-- The answer of a decoder that accepts only under a condition. -/
def okIf (c : Bool) (i : Instr) : Option Instr := if c then some i else none

/-! ### Decoding, group by group -/

/-- Major 0x00 (05 Table 5.9; 09 Table 9.14; 15 Table 15.11; 23 Table 23.4). -/
def decodeSys (x : Fields) : Option Instr :=
  match x.f with
  | 0x001 => okIf (x.d == 0 && x.a == 0 && x.b == 0) .nop
  | 0x002 => okIf (x.d == 0) (.trap (BitVec.ofNat 10 (x.a * 32 + x.b)))
  | 0x003 => okIf (x.d == 0 && x.a == 0 && x.b == 0) .eret
  | 0x004 => (CReg.ofCode (x.a * 32 + x.b)).map fun c => .mfc (reg x.d) c
  | 0x005 => (CReg.ofCode (x.a * 32 + x.b)).bind fun c => okIf (!c.readOnly) (.mtc c (reg x.d))
  | 0x006 => okIf (x.d == 0) (.dbg (BitVec.ofNat 10 (x.a * 32 + x.b)))
  | 0x010 => okIf (x.d == 0) (.harvest (reg x.a) (reg x.b))
  | 0x011 => okIf (x.d == 0) (.tlbsd (reg x.a) (reg x.b))
  | 0x012 => okIf (x.d == 0 && x.b == 0) (.plbinv (reg x.a))
  | 0x013 => some (.terp (reg x.d) (reg x.a) (reg x.b))
  | 0x014 => okIf (x.b == 0) (.unterp (reg x.d) (reg x.a))
  | _ => none

/-- Major 0x02 (09 Table 9.8). -/
def decodeJump (x : Fields) : Option Instr :=
  match x.f with
  | 1 => okIf (x.b == 0) (.callr (reg x.d) (reg x.a))
  | 2 => okIf (x.d == 0 && x.b == 0) (.jmpr (reg x.a))
  | 3 => okIf (x.d == 0 && x.a == 0 && x.b == 0) .ret
  | _ => none

/-- A CM load or store: ord at [13:12], scope at [11:9], offset at [8:0] (05 Table 5.2). -/
def decodeCM (x : Fields) (mk : Ordering → Scope → Reg → Reg → BitVec 9 → Instr) (ok : Ordering → Bool) : Option Instr :=
  (Ordering.ofCode (x.b / 8)).bind fun o => (Scope.ofCode (x.b % 8)).bind fun s =>
    okIf (ok o) (mk o s (reg x.d) (reg x.a) (BitVec.ofNat 9 x.f))

/-- The ordering of a CX word at [8:7], and its scope at [6:4] (05 Table 5.2). -/
def cxOrd (x : Fields) : Option Ordering := Ordering.ofCode (x.f / 128)
def cxScope (x : Fields) : Option Scope := Scope.ofCode (x.f / 16 % 8)

/-- Major 0x0F (15 Table 15.9). -/
def decodeLdx (x : Fields) : Option Instr :=
  (cxOrd x).bind fun o => (cxScope x).bind fun s =>
    match x.f % 16 with
    | 7 => okIf (o == .rlx) (.ldv s (reg x.d) (reg x.a) (reg x.b))
    | 8 => okIf (o == .rlx) (.ldvff s (reg x.d) (reg x.a) (reg x.b))
    | 9 => okIf (o == .rlx) (.ldvg s (reg x.d) (reg x.a) (reg x.b))
    | 10 => (PrefHint.ofCode x.d).bind fun h => okIf (o == .rlx) (.pref h s (reg x.a) (reg x.b))
    | n => (LdSize.ofCode n).bind fun z => okIf o.okLoad (.ldIndexed z o s (reg x.d) (reg x.a) (reg x.b))

/-- Major 0x14 (15 Table 15.9). -/
def decodeStx (x : Fields) : Option Instr :=
  (cxOrd x).bind fun o => (cxScope x).bind fun s =>
    match x.f % 16 with
    | 4 => okIf (o == .rlx) (.stv s (reg x.d) (reg x.a) (reg x.b))
    | 5 => okIf (o == .rlx) (.stvs s (reg x.d) (reg x.a) (reg x.b))
    | n => (StSize.ofCode n).bind fun z => okIf o.okStore (.stIndexed z o s (reg x.d) (reg x.a) (reg x.b))

/-- Majors 0x16 and 0x17 (05 Table 5.9): size at sub[3], operation at sub[2:0]. -/
def decodeAtom (second : Bool) (x : Fields) : Option Instr :=
  (cxOrd x).bind fun o => (cxScope x).bind fun s => (AtSize.ofCode (x.f % 16 / 8)).bind fun z =>
    let d := reg x.d; let a := reg x.a; let b := reg x.b
    match second, x.f % 8 with
    | false, 0 => some (.aadd z o s d a b)
    | false, 1 => some (.aand z o s d a b)
    | false, 2 => some (.aor z o s d a b)
    | false, 3 => some (.axor z o s d a b)
    | false, 4 => some (.amin z o s d a b)
    | false, 5 => some (.amax z o s d a b)
    | false, 6 => some (.aminu z o s d a b)
    | false, 7 => some (.amaxu z o s d a b)
    | true, 0 => some (.aswp z o s d a b)
    | true, 1 => some (.acas z o s d a b)
    | true, 2 => some (.afadd z o s d a b)
    | _, _ => none

/-- Major 0x1C (17 Table 17.3). -/
def decodeFence (x : Fields) : Option Instr :=
  (FenceKind.ofCode (x.b / 8)).bind fun k => (Scope.ofCode (x.b % 8)).bind fun s =>
    okIf (x.d == 0 && x.a == 0 && x.f == 0) (.fence k s)

/-- Major 0x1D (09 Table 9.5). -/
def decodeAddr (x : Fields) : Option Instr :=
  match x.f / 64 with
  | 0 => okIf (x.f % 64 / 4 == 0) (.lea (reg x.d) (reg x.a) (reg x.b) (Fin.ofNat 4 x.f))
  | 1 => okIf (x.f % 64 == 0) (.cadd (reg x.d) (reg x.a) (reg x.b))
  | 2 => okIf (x.f % 64 == 0) (.cmov (reg x.d) (reg x.a) (reg x.b))
  | 3 => some (.caddi (reg x.d) (reg x.a) (BitVec.ofNat 11 (x.b * 64 + x.f % 64)))
  | _ => none

/-- Major 0x20 (13 Table 13.3). -/
def decodePold (x : Fields) : Option Instr :=
  match x.f with
  | 0 => some (.attach (reg x.d) (reg x.a) (reg x.b))
  | 1 => okIf (x.d == 0 && x.b == 0) (.detach (reg x.a))
  | 2 => okIf (x.d == 0) (.hand (reg x.a) (reg x.b))
  | 3 => some (.pwait (reg x.d) (reg x.a) (reg x.b))
  | 4 => okIf (x.b == 0) (.pquery (reg x.d) (reg x.a))
  | 5 => some (.pkeep (reg x.d) (reg x.a) (reg x.b))
  | 6 => okIf (x.d == 0 && x.b == 0) (.pzero (reg x.a))
  | _ => none

/-- Major 0x21 (19 Table 19.1). -/
def decodeStrm (x : Fields) : Option Instr :=
  match x.f with
  | 0 => (reg8 x.d).map fun k => .sbind k (reg x.a) (reg x.b)
  | 1 => (reg8 x.d).bind fun k => okIf (x.a == 0 && x.b == 0) (.sfree k)
  | 2 => (reg8 x.a).bind fun k => okIf (x.b == 0) (.sstat (reg x.d) k)
  | 3 => (reg8 x.a).bind fun k => okIf (x.b == 0) (.sflush (reg x.d) k)
  | _ => none

/-- Major 0x22 (19 Table 19.1). -/
def decodeChan (x : Fields) : Option Instr :=
  match x.f with
  | 0 => (reg8 x.d).map fun k => .cbind k (reg x.a) (reg x.b)
  | 1 => (reg8 x.d).bind fun k => okIf (x.a == 0 && x.b == 0) (.cfree k)
  | 2 => okIf (x.b == 0) (.alt (reg x.d) (reg x.a))
  | 3 => (reg8 x.a).bind fun k => okIf (x.b == 0) (.cpoll (reg x.d) k)
  | 4 => (reg8 x.a).map fun k => .cgrant (reg x.d) k (reg x.b)
  | _ => none

/-- Majors 0x28 and 0x29 (11 Table 11.10). -/
def decodeMma (scaled : Bool) (x : Fields) : Option Instr :=
  (reg8 x.d).bind fun t =>
    (if x.f % 2 == 0 then some (ASrc.window (reg x.a)) else (reg8 x.a).map ASrc.stream).bind fun src =>
      okIf (x.f / 4 == 0)
        (if scaled then .mmas t (x.f / 2 % 2 == 1) src (reg x.b) else .mma t (x.f / 2 % 2 == 1) src (reg x.b))

/-- Major 0x2A (11 R163). -/
def decodeMconst (x : Fields) : Option Instr :=
  (reg8 x.d).bind fun t =>
    match x.f with
    | 0 => some (.mtrans t (reg x.a) (reg x.b))
    | 1 => some (.mperm t (reg x.a) (reg x.b))
    | 2 => okIf (x.b == 0) (.mrsum t (reg x.a))
    | _ => none

/-- Major 0x2B (11 Table 11.14). -/
def decodeMtile (x : Fields) : Option Instr :=
  match x.f with
  | 0 => (reg8 x.d).bind fun t => okIf (x.a == 0 && x.b == 0) (.mzero t)
  | 1 => (reg8 x.d).bind fun t => (Fmt.ofCode x.b).bind fun f => okIf (x.a == 0 && f.okTile) (.acfg t f)
  | 2 => if x.b == 0 then (reg8 x.d).bind fun t => okIf (x.a == 0) (.abind t)
         else okIf (x.b == 1 && x.a == 0 && x.d == 0) .abindNone
  | _ => none

/-- Major 0x2C (11 R165). -/
def decodeMmem (x : Fields) : Option Instr :=
  (cxOrd x).bind fun o => (cxScope x).bind fun s => (reg8 x.d).bind fun t =>
    match x.f % 16 with
    | 0 => okIf o.okLoad (.mload o s t (reg x.a) (reg x.b))
    | 1 => okIf o.okStore (.mstore o s t (reg x.a) (reg x.b))
    | _ => none

/-- Major 0x2D (11 R156, R157). -/
def decodeWbuf (x : Fields) : Option Instr :=
  (reg16 x.d).bind fun w =>
    match x.f with
    | 0 => some (.wload w (reg x.a) (reg x.b))
    | 1 => okIf (x.a == 0 && x.b == 0) (.wfree w)
    | _ => none

/-- Major 0x30 (19 Table 19.1): the ordering bits are reserved. -/
def decodeEng (x : Fields) : Option Instr :=
  (cxScope x).bind fun s =>
    if x.f / 128 == 0 then
      match x.f % 16 with
      | 0 => okIf (x.b == 0) (.copy s (reg x.d) (reg x.a))
      | 1 => okIf (x.b == 0) (.xcopy s (reg x.d) (reg x.a))
      | 2 => okIf (x.d == 0 && x.a == 0 && x.b == 0) (.cwait s)
      | _ => none
    else none

/-- The scope a barrier's number requires: 3 (die) for b0 to b11, 4 (pkg) for b12 to b15 (19 R250). -/
def barScope (n : Nat) : Nat := if n < 12 then 3 else 4

/-- Major 0x31 (19 Table 19.1): the ordering bits are reserved and the scope goes with the barrier. -/
def decodeBar (x : Fields) : Option Instr :=
  if x.f / 128 == 0 then
    match x.f % 16 with
    | 4 => if x.d == 0 && x.b == 0 then
             (if x.f / 16 == 3 then some (.bto false (reg x.a)) else if x.f / 16 == 4 then some (.bto true (reg x.a)) else none)
           else none
    | n => (reg16 x.b).bind fun bar =>
        if x.f / 16 == barScope bar.val then
          match n with
          | 0 => okIf (x.d == 0) (.barm (reg x.a) bar)
          | 1 => okIf (x.a == 0) (.barr (reg x.d) bar)
          | 2 => okIf (x.a == 0) (.bara (reg x.d) bar)
          | 3 => okIf (x.a == 0) (.barw (reg x.d) bar)
          | 5 => okIf (x.d == 0) (.csum (reg x.a) bar)
          | _ => none
        else none
  else none

/-- Major 0x32 (19 Table 19.1). -/
def decodeRoute (x : Fields) : Option Instr :=
  match x.f with
  | 0 => some (.route (reg x.d) (reg x.a) (reg x.b))
  | 1 => okIf (x.b == 0) (.rtswap (reg x.d) (reg x.a))
  | 2 => (reg8 x.a).bind fun k => okIf (x.b == 0) (.sptake (reg x.d) k)
  | _ => none

/-- Major 0x33 (21 Table 21.3). -/
def decodeRevs (x : Fields) : Option Instr :=
  match x.f with
  | 0 => okIf (x.b == 0) (.region (reg x.d) (reg x.a))
  | 1 => okIf (x.a == 0 && x.b == 0) (.fork (reg x.d))
  | 2 => okIf (x.b == 0) (.join (reg x.d) (reg x.a))
  | 3 => okIf (x.b == 0) (.revq (reg x.d) (reg x.a))
  | _ => none

/-- Major 0x36 (09 Table 9.14). -/
def decodeSched (x : Fields) : Option Instr :=
  match x.f with
  | 0 => okIf (x.d == 0 && x.b == 0) (.wfe (reg x.a))
  | 1 => okIf (x.b == 0) (.sleep (reg x.d) (reg x.a))
  | 2 => okIf (x.d == 0 && x.a == 0 && x.b == 0) .yield
  | 3 => okIf (x.d == 0 && x.a == 0 && x.b == 0) .quit
  | _ => none

/-- Major 0x37 (09 Table 9.14). -/
def decodeRing (x : Fields) : Option Instr :=
  match x.f with
  | 0 => some (.launch (reg x.d) (reg x.a) (reg x.b))
  | 1 => okIf (x.d == 0 && x.b == 0) (.cdec (reg x.a))
  | 2 => okIf (x.b == 0) (.rpush (reg x.d) (reg x.a))
  | 3 => okIf (x.b == 0) (.rpop (reg x.d) (reg x.a))
  | _ => none

/-- The image operand of SWAPOUT and SWAPIN (23 R316): with a = 0 an image of the cache, else the address in ga with d = 0. -/
def imageRef (x : Fields) : Option ImageRef :=
  if x.a == 0 then some (.cache (reg x.d)) else if x.d == 0 then some (.at (reg x.a)) else none

/-- Major 0x38 (23 Table 23.4). -/
def decodeCtx (x : Fields) : Option Instr :=
  match x.f with
  | 0 => if x.b == 0 then (imageRef x).map .swapout else none
  | 1 => if x.b == 0 then (imageRef x).map .swapin else none
  | 2 => okIf (x.d == 0 && x.b == 0) (.migrate (reg x.a))
  | _ => none

/-- C-words by major opcode (05 Table 5.7). -/
def decodeC (x : Fields) : Option Instr :=
  match x.op with
  | 0x00 => decodeSys x
  | 0x01 => some (.call (reg x.d) (imm19 x))
  | 0x02 => decodeJump x
  | 0x03 => some (.beq (reg x.d) (reg x.a) (imm14 x))
  | 0x04 => some (.bne (reg x.d) (reg x.a) (imm14 x))
  | 0x05 => some (.blt (reg x.d) (reg x.a) (imm14 x))
  | 0x06 => some (.bge (reg x.d) (reg x.a) (imm14 x))
  | 0x07 => okIf (x.a == 0 && !(reg x.d == 0)) (.loop (reg x.d) (imm14 x))
  | 0x08 => decodeCM x (.ld .b) Ordering.okLoad
  | 0x09 => decodeCM x (.ld .bu) Ordering.okLoad
  | 0x0A => decodeCM x (.ld .h) Ordering.okLoad
  | 0x0B => decodeCM x (.ld .hu) Ordering.okLoad
  | 0x0C => decodeCM x (.ld .w) Ordering.okLoad
  | 0x0D => decodeCM x (.ld .wu) Ordering.okLoad
  | 0x0E => decodeCM x (.ld .d) Ordering.okLoad
  | 0x0F => decodeLdx x
  | 0x10 => decodeCM x (.st .b) Ordering.okStore
  | 0x11 => decodeCM x (.st .h) Ordering.okStore
  | 0x12 => decodeCM x (.st .w) Ordering.okStore
  | 0x13 => decodeCM x (.st .d) Ordering.okStore
  | 0x14 => decodeStx x
  | 0x16 => decodeAtom false x
  | 0x17 => decodeAtom true x
  | 0x1C => decodeFence x
  | 0x1D => decodeAddr x
  | 0x1E => some (.bltu (reg x.d) (reg x.a) (imm14 x))
  | 0x1F => some (.bgeu (reg x.d) (reg x.a) (imm14 x))
  | 0x20 => decodePold x
  | 0x21 => decodeStrm x
  | 0x22 => decodeChan x
  | 0x28 => decodeMma false x
  | 0x29 => decodeMma true x
  | 0x2A => decodeMconst x
  | 0x2B => decodeMtile x
  | 0x2C => decodeMmem x
  | 0x2D => decodeWbuf x
  | 0x2E => okIf (x.d == 0 && x.a == 0 && x.b == 0 && x.f == 0) .mwait
  | 0x30 => decodeEng x
  | 0x31 => decodeBar x
  | 0x32 => decodeRoute x
  | 0x33 => decodeRevs x
  | 0x36 => decodeSched x
  | 0x37 => decodeRing x
  | 0x38 => decodeCtx x
  | _ => none

/-- Major 0x00 of the A-words (09 Table 9.3): width at [4:3], m at [2:0]. -/
def decodeInt (x : Fields) : Option Instr :=
  (Width.ofCode (x.f / 8 % 4)).bind fun w =>
    let d := reg x.d; let a := reg x.a; let b := reg x.b
    match x.f / 32 with
    | 0 => (Sat.ofCode (x.f % 8)).map fun m => .add w m d a b
    | 1 => (Sat.ofCode (x.f % 8)).map fun m => .sub w m d a b
    | 2 => (Sat.ofCode (x.f % 8)).map fun m => .mul w m d a b
    | 3 => okIf (x.f % 8 == 0) (.mulh w d a b)
    | 4 => okIf (x.f % 8 == 0) (.mulhu w d a b)
    | 5 => okIf (x.f % 8 == 0) (.div w d a b)
    | 6 => okIf (x.f % 8 == 0) (.divu w d a b)
    | 7 => okIf (x.f % 8 == 0) (.rem w d a b)
    | 8 => okIf (x.f % 8 == 0) (.remu w d a b)
    | 9 => okIf (x.f % 8 == 0) (.min w d a b)
    | 10 => okIf (x.f % 8 == 0) (.max w d a b)
    | 11 => okIf (x.f % 8 == 0) (.minu w d a b)
    | 12 => okIf (x.f % 8 == 0) (.maxu w d a b)
    | 13 => okIf (x.f % 8 == 0) (.slt w d a b)
    | 14 => okIf (x.f % 8 == 0) (.sltu w d a b)
    | _ => none

/-- Major 0x01 of the A-words (09 Table 9.3). -/
def decodeLogic (x : Fields) : Option Instr :=
  (Width.ofCode (x.f / 8 % 4)).bind fun w =>
    let d := reg x.d; let a := reg x.a; let b := reg x.b
    if x.f % 8 == 0 then
      match x.f / 32 with
      | 0 => some (.and w d a b)
      | 1 => some (.or w d a b)
      | 2 => some (.xor w d a b)
      | 3 => some (.shl w d a b)
      | 4 => some (.shr w d a b)
      | 5 => some (.sar w d a b)
      | 6 => okIf (x.b == 0) (.clz w d a)
      | 7 => okIf (x.b == 0) (.ctz w d a)
      | 8 => okIf (x.b == 0) (.popc w d a)
      | _ => none
    else none

/-- Major 0x07 of the A-words (05 Table 5.6): sub at [13:12], [11:6] reserved, count at [5:0]. -/
def decodeShifti (x : Fields) : Option Instr :=
  let n := x.b * 512 + x.f
  if n % 4096 / 64 == 0 then
    match n / 4096 with
    | 0 => some (.shli (reg x.d) (reg x.a) (BitVec.ofNat 6 n))
    | 1 => some (.shri (reg x.d) (reg x.a) (BitVec.ofNat 6 n))
    | 2 => some (.sari (reg x.d) (reg x.a) (BitVec.ofNat 6 n))
    | _ => none
  else none

/-- Majors 0x0A and 0x0B of the A-words (05 Table 5.6): position at [13:8], length less 1 at [7:2]. -/
def decodeField (x : Fields) (mk : Reg → Reg → BitVec 6 → BitVec 6 → Instr) : Option Instr :=
  let n := x.b * 512 + x.f
  okIf (n % 4 == 0 && decide (n / 256 + n / 4 % 64 + 1 ≤ 64))
    (mk (reg x.d) (reg x.a) (BitVec.ofNat 6 (n / 256)) (BitVec.ofNat 6 (n / 4)))

/-- Major 0x10 of the A-words (09 Table 9.6). -/
def decodeFarith (x : Fields) : Option Instr :=
  (FWidth.ofCode (x.f / 8 % 4)).bind fun w =>
    let d := reg x.d; let a := reg x.a; let b := reg x.b
    match x.f / 32 with
    | 0 => (Rounding.ofCode (x.f % 8)).map fun m => .fadd w m d a b
    | 1 => (Rounding.ofCode (x.f % 8)).map fun m => .fsub w m d a b
    | 2 => (Rounding.ofCode (x.f % 8)).map fun m => .fmul w m d a b
    | 3 => (Rounding.ofCode (x.f % 8)).map fun m => .fma w m d a b
    | 4 => (Rounding.ofCode (x.f % 8)).map fun m => .fdiv w m d a b
    | 5 => (Rounding.ofCode (x.f % 8)).bind fun m => okIf (x.b == 0) (.fsqrt w m d a)
    | 6 => okIf (x.f % 8 == 0) (.fmin w d a b)
    | 7 => okIf (x.f % 8 == 0) (.fmax w d a b)
    | _ => none

/-- Major 0x11 of the A-words (09 Table 9.6). -/
def decodeFmisc (x : Fields) : Option Instr :=
  (FWidth.ofCode (x.f / 8 % 4)).bind fun w =>
    let d := reg x.d; let a := reg x.a; let b := reg x.b
    match x.f / 32 with
    | 0 => (FCond.ofCode (x.f % 8)).map fun c => .fcmp c w d a b
    | 1 => (Rounding.ofCode (x.f % 8)).bind fun m => (Fmt.ofCode (x.b % 16)).bind fun g =>
        okIf g.okFcvt (.fcvt (if x.b / 16 == 0 then .out else .into) w m d a g)
    | 2 => okIf (x.b == 0 && x.f % 8 == 0) (.fclass w d a)
    | 3 => (SgnOp.ofCode (x.f % 8)).map fun c => .fsgn c w d a b
    | _ => none

/-- Major 0x18 of the A-words (09 Table 9.9): w and m are 0, and q0 is no destination. -/
def decodePred (x : Fields) : Option Instr :=
  if x.f % 32 == 0 then
    match x.f / 32 with
    | 0 => (reg8 x.d).bind fun d => okIf (x.b == 0 && !(d == 0)) (.pcnt d (reg x.a))
    | 1 => (reg8 x.d).bind fun d => (reg8 x.a).bind fun a => okIf (!(d == 0)) (.pmin d a (reg x.b))
    | 2 => (reg8 x.d).bind fun d => (reg8 x.a).bind fun a => okIf (x.b == 0 && !(d == 0)) (.pmov d a)
    | 3 => (reg8 x.a).bind fun a => okIf (x.b == 0) (.pread (reg x.d) a)
    | _ => none
  else none

/-- The fields of an AV word (05 Table 5.2): q at [8:6], sat at [5], rm at [4:2], sub at [1:0]. -/
def avQ (x : Fields) : Reg8 := Fin.ofNat 8 (x.f / 64)
def avSat (x : Fields) : Nat := x.f / 32 % 2
def avRm (x : Fields) : Nat := x.f / 4 % 8
def avSub (x : Fields) : Nat := x.f % 4

/-- Major 0x20 of the A-words (11 Table 11.2); which rm and sat a tile's type accepts is found at issue (11 R139). -/
def decodeVarith (x : Fields) : Option Instr :=
  (Rounding.ofCode (avRm x)).bind fun m => (Sat.ofCode (avSat x)).bind fun t =>
    match avSub x with
    | 0 => some (.vadd m t (avQ x) (reg x.d) (reg x.a) (reg x.b))
    | 1 => some (.vsub m t (avQ x) (reg x.d) (reg x.a) (reg x.b))
    | 2 => some (.vmul m t (avQ x) (reg x.d) (reg x.a) (reg x.b))
    | 3 => some (.vmulh m t (avQ x) (reg x.d) (reg x.a) (reg x.b))
    | _ => none

/-- Major 0x21 of the A-words (11 Table 11.2). -/
def decodeVminmax (x : Fields) : Option Instr :=
  if avRm x == 0 then
    match avSub x with
    | 0 => okIf (avSat x == 0) (.vmin (avQ x) (reg x.d) (reg x.a) (reg x.b))
    | 1 => okIf (avSat x == 0) (.vmax (avQ x) (reg x.d) (reg x.a) (reg x.b))
    | 2 => (Sat.ofCode (avSat x)).bind fun t => okIf (x.b == 0) (.vabs t (avQ x) (reg x.d) (reg x.a))
    | 3 => (Sat.ofCode (avSat x)).bind fun t => okIf (x.b == 0) (.vneg t (avQ x) (reg x.d) (reg x.a))
    | _ => none
  else none

/-- Major 0x22 of the A-words (11 Table 11.2). -/
def decodeVfp1 (x : Fields) : Option Instr :=
  (Rounding.ofCode (avRm x)).bind fun m =>
    if avSat x == 0 then
      match avSub x with
      | 0 => some (.vfma m (avQ x) (reg x.d) (reg x.a) (reg x.b))
      | 1 => some (.vdiv m (avQ x) (reg x.d) (reg x.a) (reg x.b))
      | 2 => okIf (x.b == 0) (.vsqrt m (avQ x) (reg x.d) (reg x.a))
      | 3 => okIf (x.b == 0) (.vrcp m (avQ x) (reg x.d) (reg x.a))
      | _ => none
    else none

/-- Major 0x23 of the A-words (11 Table 11.2). -/
def decodeVfp2 (x : Fields) : Option Instr :=
  (Rounding.ofCode (avRm x)).bind fun m =>
    if avSat x == 0 && x.b == 0 then
      match avSub x with
      | 0 => some (.vrsq m (avQ x) (reg x.d) (reg x.a))
      | 1 => some (.vexp2 m (avQ x) (reg x.d) (reg x.a))
      | 2 => some (.vlog2 m (avQ x) (reg x.d) (reg x.a))
      | _ => none
    else none

/-- Major 0x24 of the A-words (11 Table 11.2). -/
def decodeVlogic (x : Fields) : Option Instr :=
  if avSat x == 0 && avRm x == 0 then
    match avSub x with
    | 0 => some (.vand (avQ x) (reg x.d) (reg x.a) (reg x.b))
    | 1 => some (.vor (avQ x) (reg x.d) (reg x.a) (reg x.b))
    | 2 => some (.vxor (avQ x) (reg x.d) (reg x.a) (reg x.b))
    | _ => none
  else none

/-- Major 0x25 of the A-words (11 Table 11.2). -/
def decodeVshift (x : Fields) : Option Instr :=
  if avRm x == 0 then
    match avSub x with
    | 0 => (Sat.ofCode (avSat x)).map fun t => .vshl t (avQ x) (reg x.d) (reg x.a) (reg x.b)
    | 1 => okIf (avSat x == 0) (.vshr (avQ x) (reg x.d) (reg x.a) (reg x.b))
    | 2 => okIf (avSat x == 0) (.vsar (avQ x) (reg x.d) (reg x.a) (reg x.b))
    | _ => none
  else none

/-- Major 0x26 of the A-words (05 R64): rm holds the condition and sat is reserved. -/
def decodeVcmp (x : Fields) : Option Instr :=
  (VCond.ofCode (avRm x)).bind fun c =>
    okIf (avSat x == 0 && avSub x == 0) (.vcmp c (avQ x) (reg x.d) (reg x.a) (reg x.b))

/-- Major 0x27 of the A-words, format A3: c at [8:4], q at [3:1], sub at [0]. -/
def decodeVsel3 (x : Fields) : Option Instr :=
  if x.f % 2 == 0 then some (.vclamp (Fin.ofNat 8 (x.f / 2)) (reg x.d) (reg x.a) (reg x.b) (reg (x.f / 16)))
  else some (.vsel (Fin.ofNat 8 (x.f / 2)) (reg x.d) (reg x.a) (reg x.b) (reg (x.f / 16)))

/-- Major 0x28 of the A-words (11 Table 11.2). -/
def decodeVmove (x : Fields) : Option Instr :=
  if avSat x == 0 && avRm x == 0 then
    match avSub x with
    | 0 => okIf (x.b == 0) (.vmov (avQ x) (reg x.d) (reg x.a))
    | 1 => okIf (x.b == 0) (.vbcast (avQ x) (reg x.d) (reg x.a))
    | 2 => some (.vextr (avQ x) (reg x.d) (reg x.a) (reg x.b))
    | 3 => some (.vins (avQ x) (reg x.d) (reg x.a) (reg x.b))
    | _ => none
  else none

/-- Major 0x29 of the A-words (11 Table 11.2). -/
def decodeVperm (x : Fields) : Option Instr :=
  if avSat x == 0 && avRm x == 0 then
    match avSub x with
    | 0 => some (.vperm (avQ x) (reg x.d) (reg x.a) (reg x.b))
    | 1 => okIf (x.a == 0 && x.b == 0) (.viota (avQ x) (reg x.d))
    | 2 => some (.vcomp (avQ x) (reg x.d) (reg x.a) (reg x.b))
    | 3 => some (.vexpand (avQ x) (reg x.d) (reg x.a) (reg x.b))
    | _ => none
  else none

/-- Major 0x2A of the A-words (11 Table 11.2). -/
def decodeVred (x : Fields) : Option Instr :=
  if avSat x == 0 && x.b == 0 then
    match avSub x with
    | 0 => (Rounding.ofCode (avRm x)).map fun m => .vredsum m (avQ x) (reg x.d) (reg x.a)
    | 1 => okIf (avRm x == 0) (.vredmax (avQ x) (reg x.d) (reg x.a))
    | 2 => okIf (avRm x == 0) (.vredmin (avQ x) (reg x.d) (reg x.a))
    | _ => none
  else none

/-- Major 0x2B of the A-words (11 R149): the format at b[3:0], b[4] = 0. -/
def decodeVcvt (x : Fields) : Option Instr :=
  (Rounding.ofCode (avRm x)).bind fun m => (Sat.ofCvtCode (avSat x)).bind fun t => (Fmt.ofCode x.b).bind fun f =>
    okIf (avSub x == 0 && f.okVcvt) (.vcvt m t (avQ x) (reg x.d) (reg x.a) f)

/-- Major 0x2C of the A-words (11 Table 11.2). -/
def decodeVsort (x : Fields) : Option Instr :=
  if avSat x == 0 && avRm x == 0 && x.b == 0 then
    match avSub x with
    | 0 => some (.vsort (avQ x) (reg x.d) (reg x.a))
    | 1 => some (.vhist (avQ x) (reg x.d) (reg x.a))
    | _ => none
  else none

/-- A-words by major opcode (05 Table 5.8). -/
def decodeA (x : Fields) : Option Instr :=
  match x.op with
  | 0x00 => decodeInt x
  | 0x01 => decodeLogic x
  | 0x02 => okIf (x.f % 16 == 0) (.sel (reg x.d) (reg x.a) (reg x.b) (reg (x.f / 16)))
  | 0x03 => some (.addi (reg x.d) (reg x.a) (imm14 x))
  | 0x04 => some (.andi (reg x.d) (reg x.a) (imm14 x))
  | 0x05 => some (.ori (reg x.d) (reg x.a) (imm14 x))
  | 0x06 => some (.xori (reg x.d) (reg x.a) (imm14 x))
  | 0x07 => decodeShifti x
  | 0x08 => some (.slti (reg x.d) (reg x.a) (imm14 x))
  | 0x09 => some (.lui (reg x.d) (imm19 x))
  | 0x0A => decodeField x .ext
  | 0x0B => decodeField x .ins
  | 0x10 => decodeFarith x
  | 0x11 => decodeFmisc x
  | 0x18 => decodePred x
  | 0x20 => decodeVarith x
  | 0x21 => decodeVminmax x
  | 0x22 => decodeVfp1 x
  | 0x23 => decodeVfp2 x
  | 0x24 => decodeVlogic x
  | 0x25 => decodeVshift x
  | 0x26 => decodeVcmp x
  | 0x27 => decodeVsel3 x
  | 0x28 => decodeVmove x
  | 0x29 => decodeVperm x
  | 0x2A => decodeVred x
  | 0x2B => decodeVcvt x
  | 0x2C => decodeVsort x
  | _ => none

/-- The instruction with these fields, or none where 05 R65 says that the word is no instruction. -/
def ofFields (x : Fields) : Option Instr := if x.k then decodeA x else decodeC x

/-- The instruction of a word, or none where the word is no instruction (05 R65). Bit L plays no part in it. -/
def decodeWord (w : IWord) : Option Instr := ofFields (Fields.unpack w)

/-- A word numbered as the opcode table numbers it. Every instruction is one 32-bit word (05 R50), fetched little-endian, so
bit 0 of the table is bit 0 of the word; a table that gives more bits names no instruction of this machine. -/
def decodeTableWord (nbits w : Nat) : Option Instr :=
  if nbits ≤ 32 ∧ w < 2 ^ nbits then decodeWord (BitVec.ofNat 32 w) else none

/-! ### The encoder -/

/-- The fields of an A-word, or of a C-word. -/
def aw (op d a b f : Nat) : Option Fields := some { k := true, op, d, a, b, f }
def cw (op d a b f : Nat) : Option Fields := some { k := false, op, d, a, b, f }

/-- A CB, CJ, CM or CX word, an AI, AR, AV or A3 word from its parts (05 Table 5.2). -/
def cbWord (op : Nat) (d a : Reg) (off : BitVec 14) : Option Fields := cw op d a (off.toNat / 512) (off.toNat % 512)
def cmWord (op : Nat) (o : Ordering) (s : Scope) (d a : Reg) (off : BitVec 9) : Option Fields :=
  cw op d a (o.code * 8 + s.code) off.toNat
def cxWord (op : Nat) (o : Ordering) (s : Scope) (sub : Nat) (d a b : Nat) : Option Fields :=
  cw op d a b (o.code * 128 + s.code * 16 + sub)
def barWord (sub : Nat) (d a : Nat) (n : Fin 16) : Option Fields := cw 0x31 d a n (barScope n * 16 + sub)
def aiWord (op : Nat) (d a : Reg) (imm : BitVec 14) : Option Fields := aw op d a (imm.toNat / 512) (imm.toNat % 512)
def arWord (op sub w m : Nat) (d a b : Nat) : Option Fields := aw op d a b (sub * 32 + w * 8 + m)
def avWord (op : Nat) (q : Reg8) (sat rm sub : Nat) (d a b : Nat) : Option Fields :=
  aw op d a b (q * 64 + sat * 32 + rm * 4 + sub)
def atWord (op sub : Nat) (z : AtSize) (o : Ordering) (s : Scope) (d a b : Reg) : Option Fields :=
  cxWord op o s (z.code * 8 + sub) d a b

/-- The fields of an instruction word; none for an event, which has no encoding. -/
def Instr.fields : Instr → Option Fields
  | .nop => cw 0x00 0 0 0 1
  | .mfc d c => cw 0x00 d (c.code / 32) (c.code % 32) 4
  | .mtc c d => cw 0x00 d (c.code / 32) (c.code % 32) 5
  | .trap n => cw 0x00 0 (n.toNat / 32) (n.toNat % 32) 2
  | .eret => cw 0x00 0 0 0 3
  | .dbg n => cw 0x00 0 (n.toNat / 32) (n.toNat % 32) 6
  | .harvest a b => cw 0x00 0 a b 0x10
  | .tlbsd a b => cw 0x00 0 a b 0x11
  | .plbinv a => cw 0x00 0 a 0 0x12
  | .terp d a b => cw 0x00 d a b 0x13
  | .unterp d a => cw 0x00 d a 0 0x14
  | .call d off => cw 0x01 d (off.toNat / 16384) (off.toNat / 512 % 32) (off.toNat % 512)
  | .callr d a => cw 0x02 d a 0 1
  | .jmpr a => cw 0x02 0 a 0 2
  | .ret => cw 0x02 0 0 0 3
  | .beq d a off => cbWord 0x03 d a off
  | .bne d a off => cbWord 0x04 d a off
  | .blt d a off => cbWord 0x05 d a off
  | .bge d a off => cbWord 0x06 d a off
  | .bltu d a off => cbWord 0x1E d a off
  | .bgeu d a off => cbWord 0x1F d a off
  | .loop d off => cbWord 0x07 d 0 off
  | .ld z o s d a off => cmWord (0x08 + z.code) o s d a off
  | .ldIndexed z o s d a b => cxWord 0x0F o s z.code d a b
  | .ldv s d a b => cxWord 0x0F .rlx s 7 d a b
  | .ldvff s d a b => cxWord 0x0F .rlx s 8 d a b
  | .ldvg s d a b => cxWord 0x0F .rlx s 9 d a b
  | .pref h s a b => cxWord 0x0F .rlx s 10 h.code a b
  | .st z o s d a off => cmWord (0x10 + z.code) o s d a off
  | .stIndexed z o s d a b => cxWord 0x14 o s z.code d a b
  | .stv s d a b => cxWord 0x14 .rlx s 4 d a b
  | .stvs s d a b => cxWord 0x14 .rlx s 5 d a b
  | .aadd z o s d a b => atWord 0x16 0 z o s d a b
  | .aand z o s d a b => atWord 0x16 1 z o s d a b
  | .aor z o s d a b => atWord 0x16 2 z o s d a b
  | .axor z o s d a b => atWord 0x16 3 z o s d a b
  | .amin z o s d a b => atWord 0x16 4 z o s d a b
  | .amax z o s d a b => atWord 0x16 5 z o s d a b
  | .aminu z o s d a b => atWord 0x16 6 z o s d a b
  | .amaxu z o s d a b => atWord 0x16 7 z o s d a b
  | .aswp z o s d a b => atWord 0x17 0 z o s d a b
  | .acas z o s d a b => atWord 0x17 1 z o s d a b
  | .afadd z o s d a b => atWord 0x17 2 z o s d a b
  | .fence k s => cw 0x1C 0 0 (k.code * 8 + s.code) 0
  | .lea d a b s => cw 0x1D d a b s
  | .cadd d a b => cw 0x1D d a b 64
  | .cmov d a b => cw 0x1D d a b 128
  | .caddi d a imm => cw 0x1D d a (imm.toNat / 64) (192 + imm.toNat % 64)
  | .attach d a b => cw 0x20 d a b 0
  | .detach a => cw 0x20 0 a 0 1
  | .hand a b => cw 0x20 0 a b 2
  | .pwait d a b => cw 0x20 d a b 3
  | .pquery d a => cw 0x20 d a 0 4
  | .pkeep d a b => cw 0x20 d a b 5
  | .pzero a => cw 0x20 0 a 0 6
  | .sbind k a b => cw 0x21 k a b 0
  | .sfree k => cw 0x21 k 0 0 1
  | .sstat d k => cw 0x21 d k 0 2
  | .sflush d k => cw 0x21 d k 0 3
  | .cbind k a b => cw 0x22 k a b 0
  | .cfree k => cw 0x22 k 0 0 1
  | .alt d a => cw 0x22 d a 0 2
  | .cpoll d k => cw 0x22 d k 0 3
  | .cgrant d k b => cw 0x22 d k b 4
  | .mma t z (.window a) b => cw 0x28 t a b (z.toNat * 2)
  | .mma t z (.stream k) b => cw 0x28 t k b (z.toNat * 2 + 1)
  | .mmas t z (.window a) b => cw 0x29 t a b (z.toNat * 2)
  | .mmas t z (.stream k) b => cw 0x29 t k b (z.toNat * 2 + 1)
  | .mtrans t a b => cw 0x2A t a b 0
  | .mperm t a b => cw 0x2A t a b 1
  | .mrsum t a => cw 0x2A t a 0 2
  | .mzero t => cw 0x2B t 0 0 0
  | .acfg t f => cw 0x2B t 0 f.code 1
  | .abind t => cw 0x2B t 0 0 2
  | .abindNone => cw 0x2B 0 0 1 2
  | .mload o s t a b => cxWord 0x2C o s 0 t a b
  | .mstore o s t a b => cxWord 0x2C o s 1 t a b
  | .wload w a b => cw 0x2D w a b 0
  | .wfree w => cw 0x2D w 0 0 1
  | .mwait => cw 0x2E 0 0 0 0
  | .copy s d a => cxWord 0x30 .rlx s 0 d a 0
  | .xcopy s d a => cxWord 0x30 .rlx s 1 d a 0
  | .cwait s => cxWord 0x30 .rlx s 2 0 0 0
  | .barm a n => barWord 0 0 a n
  | .barr d n => barWord 1 d 0 n
  | .bara d n => barWord 2 d 0 n
  | .barw d n => barWord 3 d 0 n
  | .bto p a => cw 0x31 0 a 0 ((if p then 64 else 48) + 4)
  | .csum a n => barWord 5 0 a n
  | .route d a b => cw 0x32 d a b 0
  | .rtswap d a => cw 0x32 d a 0 1
  | .sptake d k => cw 0x32 d k 0 2
  | .region d a => cw 0x33 d a 0 0
  | .fork d => cw 0x33 d 0 0 1
  | .join d a => cw 0x33 d a 0 2
  | .revq d a => cw 0x33 d a 0 3
  | .wfe a => cw 0x36 0 a 0 0
  | .sleep d a => cw 0x36 d a 0 1
  | .yield => cw 0x36 0 0 0 2
  | .quit => cw 0x36 0 0 0 3
  | .launch d a b => cw 0x37 d a b 0
  | .cdec a => cw 0x37 0 a 0 1
  | .rpush d a => cw 0x37 d a 0 2
  | .rpop d a => cw 0x37 d a 0 3
  | .swapout (.cache i) => cw 0x38 i 0 0 0
  | .swapout (.at a) => cw 0x38 0 a 0 0
  | .swapin (.cache i) => cw 0x38 i 0 0 1
  | .swapin (.at a) => cw 0x38 0 a 0 1
  | .migrate a => cw 0x38 0 a 0 2
  | .add w m d a b => arWord 0x00 0 w.code m.code d a b
  | .sub w m d a b => arWord 0x00 1 w.code m.code d a b
  | .mul w m d a b => arWord 0x00 2 w.code m.code d a b
  | .mulh w d a b => arWord 0x00 3 w.code 0 d a b
  | .mulhu w d a b => arWord 0x00 4 w.code 0 d a b
  | .div w d a b => arWord 0x00 5 w.code 0 d a b
  | .divu w d a b => arWord 0x00 6 w.code 0 d a b
  | .rem w d a b => arWord 0x00 7 w.code 0 d a b
  | .remu w d a b => arWord 0x00 8 w.code 0 d a b
  | .min w d a b => arWord 0x00 9 w.code 0 d a b
  | .max w d a b => arWord 0x00 10 w.code 0 d a b
  | .minu w d a b => arWord 0x00 11 w.code 0 d a b
  | .maxu w d a b => arWord 0x00 12 w.code 0 d a b
  | .slt w d a b => arWord 0x00 13 w.code 0 d a b
  | .sltu w d a b => arWord 0x00 14 w.code 0 d a b
  | .and w d a b => arWord 0x01 0 w.code 0 d a b
  | .or w d a b => arWord 0x01 1 w.code 0 d a b
  | .xor w d a b => arWord 0x01 2 w.code 0 d a b
  | .shl w d a b => arWord 0x01 3 w.code 0 d a b
  | .shr w d a b => arWord 0x01 4 w.code 0 d a b
  | .sar w d a b => arWord 0x01 5 w.code 0 d a b
  | .clz w d a => arWord 0x01 6 w.code 0 d a 0
  | .ctz w d a => arWord 0x01 7 w.code 0 d a 0
  | .popc w d a => arWord 0x01 8 w.code 0 d a 0
  | .sel d a b c => aw 0x02 d a b (c * 16)
  | .addi d a imm => aiWord 0x03 d a imm
  | .andi d a imm => aiWord 0x04 d a imm
  | .ori d a imm => aiWord 0x05 d a imm
  | .xori d a imm => aiWord 0x06 d a imm
  | .shli d a c => aw 0x07 d a 0 c.toNat
  | .shri d a c => aw 0x07 d a 8 c.toNat
  | .sari d a c => aw 0x07 d a 16 c.toNat
  | .slti d a imm => aiWord 0x08 d a imm
  | .lui d imm => aw 0x09 d (imm.toNat / 16384) (imm.toNat / 512 % 32) (imm.toNat % 512)
  | .ext d a p l => aw 0x0A d a (p.toNat / 2) (p.toNat % 2 * 256 + l.toNat * 4)
  | .ins d a p l => aw 0x0B d a (p.toNat / 2) (p.toNat % 2 * 256 + l.toNat * 4)
  | .fadd w m d a b => arWord 0x10 0 w.code m.code d a b
  | .fsub w m d a b => arWord 0x10 1 w.code m.code d a b
  | .fmul w m d a b => arWord 0x10 2 w.code m.code d a b
  | .fma w m d a b => arWord 0x10 3 w.code m.code d a b
  | .fdiv w m d a b => arWord 0x10 4 w.code m.code d a b
  | .fsqrt w m d a => arWord 0x10 5 w.code m.code d a 0
  | .fmin w d a b => arWord 0x10 6 w.code 0 d a b
  | .fmax w d a b => arWord 0x10 7 w.code 0 d a b
  | .fcmp c w d a b => arWord 0x11 0 w.code c.code d a b
  | .fcvt dir w m d a g => arWord 0x11 1 w.code m.code d a ((if dir = .out then 0 else 16) + g.code)
  | .fclass w d a => arWord 0x11 2 w.code 0 d a 0
  | .fsgn c w d a b => arWord 0x11 3 w.code c.code d a b
  | .pcnt d a => aw 0x18 d a 0 0
  | .pmin d a b => aw 0x18 d a b 32
  | .pmov d a => aw 0x18 d a 0 64
  | .pread d a => aw 0x18 d a 0 96
  | .vadd m t q d a b => avWord 0x20 q t.code m.code 0 d a b
  | .vsub m t q d a b => avWord 0x20 q t.code m.code 1 d a b
  | .vmul m t q d a b => avWord 0x20 q t.code m.code 2 d a b
  | .vmulh m t q d a b => avWord 0x20 q t.code m.code 3 d a b
  | .vmin q d a b => avWord 0x21 q 0 0 0 d a b
  | .vmax q d a b => avWord 0x21 q 0 0 1 d a b
  | .vabs t q d a => avWord 0x21 q t.code 0 2 d a 0
  | .vneg t q d a => avWord 0x21 q t.code 0 3 d a 0
  | .vfma m q d a b => avWord 0x22 q 0 m.code 0 d a b
  | .vdiv m q d a b => avWord 0x22 q 0 m.code 1 d a b
  | .vsqrt m q d a => avWord 0x22 q 0 m.code 2 d a 0
  | .vrcp m q d a => avWord 0x22 q 0 m.code 3 d a 0
  | .vrsq m q d a => avWord 0x23 q 0 m.code 0 d a 0
  | .vexp2 m q d a => avWord 0x23 q 0 m.code 1 d a 0
  | .vlog2 m q d a => avWord 0x23 q 0 m.code 2 d a 0
  | .vand q d a b => avWord 0x24 q 0 0 0 d a b
  | .vor q d a b => avWord 0x24 q 0 0 1 d a b
  | .vxor q d a b => avWord 0x24 q 0 0 2 d a b
  | .vshl t q d a b => avWord 0x25 q t.code 0 0 d a b
  | .vshr q d a b => avWord 0x25 q 0 0 1 d a b
  | .vsar q d a b => avWord 0x25 q 0 0 2 d a b
  | .vcmp c q d a b => avWord 0x26 q 0 c.code 0 d a b
  | .vclamp q d a b c => aw 0x27 d a b (c * 16 + q * 2)
  | .vsel q d a b c => aw 0x27 d a b (c * 16 + q * 2 + 1)
  | .vmov q d a => avWord 0x28 q 0 0 0 d a 0
  | .vbcast q d a => avWord 0x28 q 0 0 1 d a 0
  | .vextr q d a b => avWord 0x28 q 0 0 2 d a b
  | .vins q d a b => avWord 0x28 q 0 0 3 d a b
  | .vperm q d a b => avWord 0x29 q 0 0 0 d a b
  | .viota q d => avWord 0x29 q 0 0 1 d 0 0
  | .vcomp q d a b => avWord 0x29 q 0 0 2 d a b
  | .vexpand q d a b => avWord 0x29 q 0 0 3 d a b
  | .vredsum m q d a => avWord 0x2A q 0 m.code 0 d a 0
  | .vredmax q d a => avWord 0x2A q 0 0 1 d a 0
  | .vredmin q d a => avWord 0x2A q 0 0 2 d a 0
  | .vcvt m t q d a f => avWord 0x2B q t.cvtCode m.code 0 d a f.code
  | .vsort q d a => avWord 0x2C q 0 0 0 d a 0
  | .vhist q d a => avWord 0x2C q 0 0 1 d a 0
  | _ => none

/-- The word of an instruction, standing alone or as half of a pair; none for an event. -/
def encode (lone : Bool) (i : Instr) : Option IWord := i.fields.map (Fields.pack lone)

/-- A word is a C-word or an A-word (05 Table 5.1). -/
def isAWord (w : IWord) : Bool := w.toNat / 0x80000000 % 2 == 1

end Sys2Proof
end

