-- ==== Sys2Proof/Machine/MatrixMath.lean ====
section
/-! DEFINITION. The arithmetic of the matrix unit: B tiles and their decoding, block contributions, the step of one
block (07 R78, R82, R87, R88, R92; 11 R155, R161, R163). -/

namespace Sys2Proof.Machine

/-! ### B tiles (11 R155) -/

/-- K of an A format (11 Table 11.12). -/
def kOf (f : Fmt) : Nat :=
  match f with
  | .bf16 | .fp16 => 64
  | .fp4 => 256
  | _ => 128

/-- Bytes of a B tile, by code and B format; none where reserved (11 Table 11.8). -/
def tileBytes (code : Nat) (f : Fmt) : Option Nat :=
  match code, f with
  | 0, .tern => some 1024
  | 0, _ => some 4096
  | 1, .bf16 | 1, .fp16 => some 2304
  | 1, .fp8e4 | 1, .fp8e5 | 1, .int8 => some 2560
  | 1, .fp4 => some 3072
  | 2, .tern => some 832
  | 3, .bf16 | 3, .fp16 => some 1088
  | 3, .fp8e4 | 3, .fp8e5 | 3, .int8 => some 2112
  | _, _ => none

/-- Byte ranges of a B tile of K elements a column from which block blk of column j is decoded: (offset, bytes), in
ascending order. -/
def tileRanges (code : Nat) (f : Fmt) (j blk : Nat) : List (Nat × Nat) :=
  let e := f.bits
  let k := match f with
    | .tern => 128
    | f => kOf f
  match code with
  | 0 => [(j * k * e / 8 + blk * 4 * e, 4 * e)]
  | 1 => [(j * 64 + blk * 2 * e, 2 * e), (2048 + j * k / 8 + 4 * blk, 4)]
  | 2 => [(j * 26 + 32 * blk / 5, (32 * blk + 31) / 5 + 1 - 32 * blk / 5)]
  | _ =>
    let s := e / 8
    [(blk * (16 * s + 512), 16 * s), (blk * (16 * s + 512) + 16 * s + 16 * j, 16)]

/-- n bytes at offset o of a tile's bytes. -/
def bytesAt (tile o n : Nat) : Nat := tile / 2 ^ (8 * o) % 2 ^ (8 * n)

/-- The 32 elements of block blk of column j as patterns; a TERN element as an unpacked code, with the counts of
reserved codes (07 R78). A TERN5 byte counts with the block in which its first element lies. -/
def decodeBlock (code : Nat) (f : Fmt) (tile j blk : Nat) : List Nat × Counts :=
  let e := f.bits
  let k := match f with
    | .tern => 128
    | f => kOf f
  match code with
  | 0 =>
    let v := bytesAt tile (j * k * e / 8 + blk * 4 * e) (4 * e)
    let l := (List.range 32).map (fun i => v / 2 ^ (e * i) % 2 ^ e)
    (l, if f == .tern then l.flatMap (fun c => (ternOfCode c).2) else [])
  | 1 =>
    let v := bytesAt tile (j * 64 + blk * 2 * e) (2 * e)
    let x := bytesAt tile (2048 + j * k / 8 + 4 * blk) 4
    let group (g : Nat) : List Nat :=
      let n := x / 2 ^ (4 * g)
      let a := v / 2 ^ (e * (2 * g)) % 2 ^ e
      let b := v / 2 ^ (e * (2 * g + 1)) % 2 ^ e
      (([0, 0, 0, 0] : List Nat).set (n % 4) a).set (n / 4 % 4) b
    ((List.range 8).flatMap group, [])
  | 2 =>
    let byte (i : Nat) : Nat := bytesAt tile (j * 26 + i) 1
    let l := (List.range 32).map (fun i =>
      let n := 32 * blk + i
      match tern5Digit (byte (n / 5)) (n % 5) with
      | 0 => 0
      | d => if d = 1 then 1 else 3)
    let firsts := (List.range 32).filter (fun i => (32 * blk + i) % 5 == 0)
    (l, firsts.flatMap (fun i => if 242 < byte ((32 * blk + i) / 5) then [evTernres] else []))
  | _ =>
    let s := e / 8
    let o := blk * (16 * s + 512)
    let x := bytesAt tile (o + 16 * s + 16 * j) 16
    ((List.range 32).map (fun i => bytesAt tile (o + s * (x / 2 ^ (4 * i) % 16)) s), [])

/-- The 32 elements of block blk of a row of A. -/
def rowBlock (f : Fmt) (row : Row) (blk : Nat) : List Nat :=
  let e := f.bits
  (List.range 32).map (fun i => row.toNat / 2 ^ (e * (32 * blk + i)) % 2 ^ e)

/-- An integer element: INT8, or a TERN code. -/
def intElem (f : Fmt) (x : Nat) : Int :=
  match f with
  | .tern => (ternOfCode x).1
  | f => signedOf f.bits x

/-! ### Blocks (07 Table 7.5, R92) -/

/-- The default NaN as a value (07 R88). -/
def nanValue : FpVal := .nan false true 0 0

/-- The exact sum of finite products; a zero sum is +0 unless every term is −0 (07 R83). -/
def finiteSum (ts : List (FpVal × FpVal)) : FpVal :=
  let term (t : FpVal × FpVal) : Option (Bool × Nat × Int) :=
    match t with
    | (.fin s m e, .fin r n f) => some (s != r, m * n, e + f)
    | _ => none
  let prods := ts.filterMap term
  let sum := prods.foldl (fun (a : Bool × Nat × Int) p =>
    let x := exactSum a.1 a.2.1 a.2.2 p.1 p.2.1 p.2.2
    (x.neg, x.m, x.e)) (false, 0, 0)
  if sum.2.1 == 0 then .fin (!prods.isEmpty && prods.all (fun p => p.1 && p.2.1 == 0)) 0 0
  else .fin sum.1 sum.2.1 sum.2.2

def isInf : FpVal → Bool
  | .inf _ => true
  | _ => false

/-- A block sum of products, before its scales (07 R92). -/
def blockSum (ts : List (FpVal × FpVal)) : FpVal × Counts :=
  if ts.any (fun t => t.1.isNan || t.2.isNan || zeroTimesInf t.1 t.2) then (nanValue, [evInvalid])
  else
    let infs := (ts.filter (fun t => isInf t.1 || isInf t.2)).map (fun t => t.1.neg != t.2.neg)
    match infs with
    | [] => (finiteSum ts, [])
    | s :: r => if r.all (fun x => x == s) then (.inf s, []) else (nanValue, [evInvalid])

/-- BlockContribution (07 Table 7.5). -/
def contribution (ts : List (FpVal × FpVal)) (sa sb : ScaleVal) : FpVal × Counts :=
  match sa, sb with
  | .nan, _ | _, .nan => (nanValue, [evInvalid])
  | .zero, _ | _, .zero =>
    if ts.all (fun t => !(t.1.isNan || t.2.isNan || isInf t.1 || isInf t.2)) then (.fin false 0 0, [])
    else (nanValue, [evInvalid])
  | .val m e, .val n f =>
    match blockSum ts with
    | (.fin s k g, cs) => (.fin s (k * m * n) (g + e + f), cs)
    | r => r

/-- acc + contribution, rounded to FP32 (07 R88, R92). -/
def fpStep (acc : Nat) (c : FpVal × Counts) : Nat × Counts :=
  let f := FpShape.fp32
  let a := f.read acc
  if a.isNan || c.1.isNan then (f.defaultNan, c.2)
  else
    let r := f.add .rne 0 a c.1
    (r.1, c.2 ++ r.2)

/-- SatInt32(acc + s) (07 R87, R92). -/
def intStep (acc : Nat) (s : Int) : Nat × Counts := intResult 32 .sat (signedOf 32 acc + s)

end Sys2Proof.Machine
end

