-- ==== Sys2Proof/Machine/Memory.lean ====
section
/-! DEFINITION. Loads, stores, gathers, scatters, prefetches, atomics and FENCE (15 R216 to R224; 17 R241). -/

namespace Sys2Proof.Machine

def LdSize.bytes : LdSize → Nat
  | .b | .bu => 1
  | .h | .hu => 2
  | .w | .wu => 4
  | .d => 8

/-- Whether a loaded value is sign-extended (15 R219). -/
def LdSize.signed : LdSize → Bool
  | .b | .h | .w => true
  | .bu | .hu | .wu | .d => false

def StSize.bytes : StSize → Nat
  | .b => 1
  | .h => 2
  | .w => 4
  | .d => 8

def AtSize.bytes : AtSize → Nat
  | .w => 4
  | .d => 8

/-- A word with a release ordering is a release point (15 R200). -/
def State.checkOrd (s : State) (o : Ordering) : Except Stop Unit := if Ordering.rels o then s.checkRelease else .ok ()

/-! ### Effective addresses (15 R217), modulo 2^64 -/

def offAddr (base : Word) (off : BitVec 9) (n : Nat) : Nat := (base + off.signExtend 64 * w64 n).toNat

def idxAddr (base idx : Word) (n : Nat) : Nat := (base + idx * w64 n).toNat

/-! ### Loads (15 R218, R219) -/

/-- A load of n bytes into a g register, once its address is known. -/
def loadAt (addr : Nat) (z : LdSize) (o : Ordering) (sc : Scope) (d : Reg) (s : State) : Eff := do
  let n := LdSize.bytes z
  let (l, s) ← s.checkAccess addr n n needR
  s.checkWeir addr l n false
  s.checkAsync d
  let p := s.loadPart addr l n
  let s : State := s.addEv (Party.coreKey s.cur) evL1miss (missCount [p])
  pure ((s.emptyG d).launchFlight (.load (.g d.val (LdSize.signed z))) [p] o sc)

/-- LD, offset form. -/
def effLd (z : LdSize) (o : Ordering) (sc : Scope) (d a : Reg) (off : BitVec 9) (s : State) : Eff := do
  s.checkPoison [a]
  let (x, s) ← s.readG a
  loadAt (offAddr x off (LdSize.bytes z)) z o sc d s

def execLd (z : LdSize) (o : Ordering) (sc : Scope) (d a : Reg) (off : BitVec 9) (s : State) :
    Host.Outcome State Fault Refusal := run (effLd z o sc d a off) s

/-- LD, indexed form. -/
def effLdIndexed (z : LdSize) (o : Ordering) (sc : Scope) (d a b : Reg) (s : State) : Eff := do
  let (x, y, s) ← s.read2 a b
  loadAt (idxAddr x y (LdSize.bytes z)) z o sc d s

def execLdIndexed (z : LdSize) (o : Ordering) (sc : Scope) (d a b : Reg) (s : State) :
    Host.Outcome State Fault Refusal := run (effLdIndexed z o sc d a b) s

/-! ### Stores (15 R219) -/

/-- A store of the low n bytes of a register, once its address is known. -/
def storeAt (addr : Nat) (n : Nat) (o : Ordering) (sc : Scope) (v : Word) (s : State) : Eff := do
  let (l, s) ← s.checkAccess addr n n needW
  s.checkWeir addr l n true
  pure ((s.publish o sc).launchFlight .store [mkPart addr l n (v.toNat % 2 ^ (8 * n))] o sc)

/-- ST, offset form: d holds the data. -/
def effSt (z : StSize) (o : Ordering) (sc : Scope) (d a : Reg) (off : BitVec 9) (s : State) : Eff := do
  s.checkOrd o
  let (v, x, s) ← s.read2 d a
  storeAt (offAddr x off (StSize.bytes z)) (StSize.bytes z) o sc v s

def execSt (z : StSize) (o : Ordering) (sc : Scope) (d a : Reg) (off : BitVec 9) (s : State) :
    Host.Outcome State Fault Refusal := run (effSt z o sc d a off) s

/-- ST, indexed form. -/
def effStIndexed (z : StSize) (o : Ordering) (sc : Scope) (d a b : Reg) (s : State) : Eff := do
  s.checkOrd o
  s.checkPoison [d, a, b]
  let (v, s) ← s.readG d
  let (x, s) ← s.readG a
  let (y, s) ← s.readG b
  storeAt (idxAddr x y (StSize.bytes z)) (StSize.bytes z) o sc v s

def execStIndexed (z : StSize) (o : Ordering) (sc : Scope) (d a b : Reg) (s : State) :
    Host.Outcome State Fault Refusal := run (effStIndexed z o sc d a b) s

/-! ### Rows (15 R220) -/

/-- The parts of a row load, each with the L1 line that serves it. -/
def State.loadRowParts (s : State) (addr : Nat) (l : Loc) (n : Nat) : List Part :=
  (List.range (n / 16)).map (fun i => s.loadPart (addr + 16 * i) (l.plus (16 * i)) 16)

/-- A destination row of a load: it may not name a bound stream, and an empty row parks (15 R217; 11 R132). -/
def State.checkRowDest (s : State) (t : Fin 8) (r : Reg) : Except Stop Unit :=
  match s.aliasStream r with
  | some (k, _) => streamTrap k 4
  | none =>
    match (vget (s.srcTiles[t]).rows r.val ⟨0, .full⟩).fill with
    | .empty _ => .error (.park (.row t.val r.val))
    | _ => .ok ()

/-- Empties a row until the operation of the next number fills it. -/
def State.emptyRow (s : State) (t : Fin 8) (r : Nat) : State :=
  let c : CoreSt := s.core s.cur
  s.setCore s.cur (c.mapRow t.val r (fun x => { x with fill := .empty s.nextOp }))

/-- LDV. -/
def effLdv (sc : Scope) (d a b : Reg) (s : State) : Eff := do
  let t ← s.boundTile
  let (x, y, s) ← s.read2 a b
  let addr := idxAddr x y 128
  let (l, s) ← s.checkAccess addr 128 16 needR
  s.checkWeir addr l 128 false
  s.checkRowDest t d
  let ps := s.loadRowParts addr l 128
  let s : State := s.addEv (Party.coreKey s.cur) evL1miss (missCount ps)
  pure ((s.emptyRow t d.val).launchFlight (.load (.row t.val d.val)) ps .rlx sc)

def execLdv (sc : Scope) (d a b : Reg) (s : State) : Host.Outcome State Fault Refusal := run (effLdv sc d a b) s

/-- Whether a check traps; a wait for the PLB is passed on. -/
def failsCheck (r : Except Stop (Loc × State)) : Except Stop Bool :=
  match r with
  | .ok _ => .ok false
  | .error (.trap ..) => .ok true
  | .error e => .error e

/-- The first of n lanes from i on that fails protection; a local one that runs past its window fails (13 R171;
15 R221). -/
def State.firstFailing (s : State) (addr size : Nat) : Nat → Nat → Except Stop Nat
  | 0, i => .ok i
  | k + 1, i => do
    let past := isLocal addr && decide (65536 < bits addr 15 0 + (i + 1) * size)
    let bad ← (if past then .ok true else failsCheck (s.checkAccess (addr + i * size) size 1 needR))
    if bad then pure i else s.firstFailing addr size k (i + 1)

/-- LDVFF. -/
def effLdvff (sc : Scope) (d a b : Reg) (s : State) : Eff := do
  let t ← s.boundTile
  let (x, y, s) ← s.read2 a b
  let addr := idxAddr x y 128
  let e := Fmt.bits (s.srcTiles[t]).typ
  if addr % 16 != 0 then
    let _ ← s.checkAccess addr 128 16 needR
  let fp ← s.firstFailing addr (e / 8) s.lanes 0
  if fp = 0 then
    let (_, s) ← s.checkAccess addr 128 16 needR
    pure s
  else
    let (l, s) ← s.checkAccess addr (fp * (e / 8)) 1 needR
    s.checkWeir addr l (fp * (e / 8)) false
    s.checkRowDest t d
    s.checkDestQ 1
    let ps := (List.range fp).map (fun i => s.loadPart (addr + i * (e / 8)) (l.plus (i * (e / 8))) (e / 8))
    let s : State := s.addEv (Party.coreKey s.cur) evL1miss (missCount ps)
    let s : State := s.setMe { s.me with q := s.me.q.set 1 (.empty s.nextOp) }
    let keep := match (vget (vget (s.core s.cur).tiles t.val Tile.reset).rows d.val ⟨0, .full⟩).fill with
      | .poison x => some x
      | _ => none
    pure ((s.emptyRow t d.val).launchFlight (.load (.first t.val d.val e keep)) ps .rlx sc)

def execLdvff (sc : Scope) (d a b : Reg) (s : State) : Host.Outcome State Fault Refusal := run (effLdvff sc d a b) s

/-- Address of lane i of a gather or scatter (15 R222). -/
def laneAddr (base : Word) (row : Row) (e i : Nat) : Nat :=
  ((base.toNat : Int) + signedOf e (row.toNat / 2 ^ (e * i)) * ((e / 8 : Nat) : Int)).emod ((2 ^ 64 : Nat) : Int) |>.toNat

/-- The checks of lanes in ascending order: their places. -/
def checkLanes (need : Nat) (size : Nat) : List Nat → State → Except Stop (List (Nat × Loc) × State)
  | [], s => .ok ([], s)
  | a :: r, s => do
    let (l, s) ← s.checkAccess a size size need
    let (ls, s) ← checkLanes need size r s
    pure ((a, l) :: ls, s)

/-- The weir checks of lanes: of those that conflict, the trap reports the lowest address (19 R253). -/
def weirLanes (size : Nat) (write : Bool) (s : State) (ls : List (Nat × Loc)) : Except Stop Unit :=
  let bad := ls.filterMap (fun e =>
    (weirConflict (s.cluster s.cur).weir e.2 size write).map (fun c => (e.1 + c.1, c.2.1, c.2.2)))
  match bad.foldl (fun (o : Option (Nat × Nat × Nat)) e =>
      match o with
      | none => some e
      | some x => if e.1 < x.1 then some e else some x) none with
  | none => .ok ()
  | some (a, i, r) => trap 0x08 (w64 a) (w64 (i * 16 + r))

/-- LDVG. -/
def effLdvg (sc : Scope) (d a b : Reg) (s : State) : Eff := do
  let t ← s.boundTile
  let e := Fmt.bits (s.srcTiles[t]).typ
  s.checkPoisonGV [a] [b]
  let (x, s) ← s.readG a
  let (idx, s) ← s.readV b
  let (ls, s) ← checkLanes needR (e / 8) ((List.range s.lanes).map (laneAddr x idx e)) s
  weirLanes (e / 8) false s ls
  s.checkRowDest t d
  let ps := ls.map (fun l => s.loadPart l.1 l.2 (e / 8))
  let s : State := s.addEv (Party.coreKey s.cur) evL1miss (missCount ps)
  pure ((s.emptyRow t d.val).launchFlight (.load (.lanes t.val d.val e)) ps .rlx sc)

def execLdvg (sc : Scope) (d a b : Reg) (s : State) : Host.Outcome State Fault Refusal := run (effLdvg sc d a b) s

/-- Parts of 16 bytes of a row to be stored. -/
def storeRowParts (addr : Nat) (l : Loc) (n v : Nat) : List Part :=
  (List.range (n / 16)).map (fun i => mkPart (addr + 16 * i) (l.plus (16 * i)) 16 (v / 2 ^ (128 * i) % 2 ^ 128))

/-- STV. -/
def effStv (sc : Scope) (d a b : Reg) (s : State) : Eff := do
  if (s.aliasStream d).isNone then
    let _ ← s.boundTile
  s.checkPoisonGV [a, b] [d]
  let (v, s) ← s.readV d
  let (x, y, s) ← s.read2 a b
  let addr := idxAddr x y 128
  let (l, s) ← s.checkAccess addr 128 16 needW
  s.checkWeir addr l 128 true
  pure (s.launchFlight .store (storeRowParts addr l 128 v.toNat) .rlx sc)

def execStv (sc : Scope) (d a b : Reg) (s : State) : Host.Outcome State Fault Refusal := run (effStv sc d a b) s

/-- STVS: element stores in ascending lane order. -/
def effStvs (sc : Scope) (d a b : Reg) (s : State) : Eff := do
  let t ← s.boundTile
  let e := Fmt.bits (s.srcTiles[t]).typ
  s.checkPoisonGV [a] [d, b]
  let (v, s) ← s.readV d
  let (x, s) ← s.readG a
  let (idx, s) ← s.readV b
  let (ls, s) ← checkLanes needW (e / 8) ((List.range s.lanes).map (laneAddr x idx e)) s
  weirLanes (e / 8) true s ls
  let ps := (List.range ls.length).filterMap (fun i =>
    ls[i]?.map (fun l => mkPart l.1 l.2 (e / 8) (v.toNat / 2 ^ (e * i) % 2 ^ e)))
  pure (s.launchFlight (.scatter x.toNat idx v) ps .rlx sc)

def execStvs (sc : Scope) (d a b : Reg) (s : State) : Host.Outcome State Fault Refusal := run (effStvs sc d a b) s

/-! ### PREF (15 R223) -/

/-- The request of a prefetch at the home slice. Which right it needs the manual does not say: the model takes R for every
hint (DESIGN CHOICE: log 122). Nor does it say whether PREF.own is a use for a store: the model gathers A alone (DESIGN CHOICE:
log 122). -/
def State.prefetch (s : State) (h : PrefHint) (addr : Nat) : State :=
  let t := s.src
  let ck := Party.coreKey s.cur
  match s.rights ck t.dom t.sup needR 260 addr (addr + 1) [] with
  | .ok used =>
    let s : State := s.usePlb ck used
    match s.translate (Party.clusterKey s.cur) addr t.revNo false (s.launchOf s.cur) with
    | (.error _, s) => s
    | (.ok x, s) =>
      let s : State := (s.l2Touch s.cur.die t.dom addr x.pa x.attr false).recallAliases ck addr t.dom t.revNo x
      match h with
      | .l1 => s.l1Fill ck addr t.dom t.revNo x false
      | .l2 => s
      | .own => s.l1Fill ck addr t.dom t.revNo x true
  | _ => s

/-- PREF: local, failing and reserved addresses have no effect. -/
def effPref (h : PrefHint) (_sc : Scope) (a b : Reg) (s : State) : Eff := do
  let (x, y, s) ← s.read2 a b
  let addr := (x + y).toNat
  pure (if bits addr 63 56 != 0 then s else s.prefetch h addr)

def execPref (h : PrefHint) (sc : Scope) (a b : Reg) (s : State) : Host.Outcome State Fault Refusal :=
  run (effPref h sc a b) s

/-! ### Atomics (15 R224) -/

/-- An atomic: gd is a source of ACAS alone. -/
def effAtomic (op : AtomOp) (z : AtSize) (o : Ordering) (sc : Scope) (d a b : Reg) (s : State) : Eff := do
  let n := AtSize.bytes z
  s.checkOrd o
  s.checkPoison (if op = .cas then [d, a, b] else [a, b])
  let (c, s) ← (if op = .cas then s.readG d else .ok (0, s))
  let (x, s) ← s.readG a
  let (y, s) ← s.readG b
  let (l, s) ← s.checkAccess x.toNat n n (needR + needW)
  s.checkWeir x.toNat l n true
  s.checkAsync d
  pure (((s.publish o sc).emptyG d).launchFlight (.atomic op y.toNat c.toNat d.val) [mkPart x.toNat l n 0] o sc)

def execAadd (z : AtSize) (o : Ordering) (sc : Scope) (d a b : Reg) (s : State) : Host.Outcome State Fault Refusal :=
  run (effAtomic .add z o sc d a b) s
def execAand (z : AtSize) (o : Ordering) (sc : Scope) (d a b : Reg) (s : State) : Host.Outcome State Fault Refusal :=
  run (effAtomic .and z o sc d a b) s
def execAor (z : AtSize) (o : Ordering) (sc : Scope) (d a b : Reg) (s : State) : Host.Outcome State Fault Refusal :=
  run (effAtomic .or z o sc d a b) s
def execAxor (z : AtSize) (o : Ordering) (sc : Scope) (d a b : Reg) (s : State) : Host.Outcome State Fault Refusal :=
  run (effAtomic .xor z o sc d a b) s
def execAmin (z : AtSize) (o : Ordering) (sc : Scope) (d a b : Reg) (s : State) : Host.Outcome State Fault Refusal :=
  run (effAtomic .min z o sc d a b) s
def execAmax (z : AtSize) (o : Ordering) (sc : Scope) (d a b : Reg) (s : State) : Host.Outcome State Fault Refusal :=
  run (effAtomic .max z o sc d a b) s
def execAminu (z : AtSize) (o : Ordering) (sc : Scope) (d a b : Reg) (s : State) : Host.Outcome State Fault Refusal :=
  run (effAtomic .minu z o sc d a b) s
def execAmaxu (z : AtSize) (o : Ordering) (sc : Scope) (d a b : Reg) (s : State) : Host.Outcome State Fault Refusal :=
  run (effAtomic .maxu z o sc d a b) s
def execAswp (z : AtSize) (o : Ordering) (sc : Scope) (d a b : Reg) (s : State) : Host.Outcome State Fault Refusal :=
  run (effAtomic .swp z o sc d a b) s
def execAcas (z : AtSize) (o : Ordering) (sc : Scope) (d a b : Reg) (s : State) : Host.Outcome State Fault Refusal :=
  run (effAtomic .cas z o sc d a b) s
def execAfadd (z : AtSize) (o : Ordering) (sc : Scope) (d a b : Reg) (s : State) : Host.Outcome State Fault Refusal :=
  run (effAtomic .fadd z o sc d a b) s

/-! ### FENCE (17 R241) -/

/-- FENCE: it parks before it issues until its condition holds; the checks of R200 are made at that issue. -/
def effFence (k : FenceKind) (sc : Scope) (s : State) : Eff := do
  let loads := k != .rel
  let stores := k != .acq
  if !Scope.inCore sc && !s.earlierDone s.src.ctx s.nextOp loads stores then
    .error (.park (.earlier loads stores s.nextOp))
  s.checkRelease
  pure s

def execFence (k : FenceKind) (sc : Scope) (s : State) : Host.Outcome State Fault Refusal := run (effFence k sc) s

end Sys2Proof.Machine
end

