-- ==== Sys2Proof/Machine/Streams.lean ====
section
/-! DEFINITION. Streams: binding, filling and draining (19 R252 to R263). -/

namespace Sys2Proof.Machine

/-! ### Operands read at issue from a local window (11 R163; 19 R257, R271) -/

/-- The access by which an instruction reads an operand at issue: it sees every store of its core before it. -/
def State.issueFlight (s : State) : Flight :=
  ⟨s.nextOp, s.cur, s.src.ctx, .load .none, [], .rlx, .core, s.src.dom, s.src.revNo, s.src.sup, s.issue.pc.toNat, false⟩

/-- n bytes of a polder as an access reads them at the port of its core; a granule with an uncorrectable error leaves no
value that the manual states (DESIGN CHOICE: log 21). -/
def State.readPort (s : State) (f : Flight) (l : Loc) (n : Nat) : Nat × State :=
  match l with
  | .sram i =>
    if poisonIn s.sramPoison i n then
      let (v, s) := s.freshRow
      (v.toNat % 2 ^ (8 * n), s)
    else (s.forward f (mkPart 0 l n 0) (s.readSram i n), s)
  | _ => (0, s)

/-- n bytes of a polder as an instruction reads them at issue. -/
def State.readNow (s : State) (l : Loc) (n : Nat) : Nat × State := s.readPort s.issueFlight l n

/-- The 64-bit words of a value. -/
def wordsOf (v n : Nat) : List Nat := (List.range n).map (fun i => v / 2 ^ (64 * i) % 2 ^ 64)

/-- The trap of a registration that fails. With the table full no address conflicts; the manual names none (DESIGN CHOICE: log 21). -/
def State.weirTrap (s : State) (addr : Nat) : WeirFail → Except Stop α
  | .conflict i o => trap 0x08 (w64 (addr + o)) (w64 (i * 16 + 3))
  | .full => trap 0x08 (Config.freeValue s.freeCount) (w64 4)

/-! ### Descriptors (19 R255, R256, Tables 19.4, 19.5) -/

/-- Whether a queue control word is well formed. -/
def qcwOk (v : Nat) : Bool :=
  let depth := bits v 31 22
  let off := bits v 15 7
  bits v 63 36 == 0 && bits v 6 0 == 0 && decide (2 ≤ depth) && decide (off + depth ≤ 512) &&
    (bits v 21 16 != 0 || decide (128 ≤ off))

/-- Whether the descriptor of a stream is well formed. -/
def Stream.descOk (x : Stream) : Bool :=
  let e := x.esize
  let w1 := x.word 1
  let strides := [x.word 2, x.word 2 / 2 ^ 32, x.word 3, x.word 3 / 2 ^ 32]
  bits (x.word 4) 55 50 == 0 && bits (x.word 5) 63 60 == 0 && x.word 6 == 0 && x.word 7 == 0 &&
    (match bits (x.word 4) 63 56 with
      | 0 =>
        x.word 0 % e == 0 && bits w1 15 0 != 0 && bits w1 31 16 != 0 && bits w1 47 32 != 0 && bits w1 63 48 != 0 &&
          strides.all (fun v => signedOf 32 v % (e : Int) == 0) && x.pos % (128 / e) == 0 && decide (x.pos < x.total)
      | 1 =>
        x.word 0 == 0 && w1 == 0 && x.word 2 == 0 && x.word 3 == 0 && x.pos == 0 && bits (x.word 5) 55 0 % 128 == 0 &&
          !x.outbound && bits x.qcw.toNat 34 32 == 7
      | _ => false)

def Stream.isToken (x : Stream) : Bool := bits (x.word 4) 63 56 == 1

/-- The least and the greatest offset that dimensions reach from a position on, most significant first, each with its
count, its position and its stride. -/
def reach : List (Nat × Nat × Int) → Int × Int
  | [] => (0, 0)
  | (n, p, s) :: rest =>
    let here := reach rest
    let low := (p : Int) * s + here.1
    let high := (p : Int) * s + here.2
    if n ≤ p + 1 then (low, high)
    else
      let span (n : Nat) (s : Int) : Int := ((n - 1 : Nat) : Int) * s
      let restLow := rest.foldl (fun a e => a + min 0 (span e.1 e.2.2)) 0
      let restHigh := rest.foldl (fun a e => a + max 0 (span e.1 e.2.2)) 0
      let a := ((p + 1 : Nat) : Int) * s
      let b := ((n - 1 : Nat) : Int) * s
      (min low (min a b + restLow), max high (max a b + restHigh))

/-- The range of an outbound stream's elements: its lowest address and its bytes (19 R252). -/
def Stream.range (x : Stream) : Nat × Nat :=
  let w := x.word 1
  let n0 := bits w 15 0
  let n1 := bits w 31 16
  let n2 := bits w 47 32
  let n3 := bits w 63 48
  let p := x.pos
  let r := reach
    [(n3, p / (n0 * n1 * n2), signedOf 32 (x.word 3 / 2 ^ 32)), (n2, p / (n0 * n1) % n2, signedOf 32 (x.word 3)),
      (n1, p / n0 % n1, signedOf 32 (x.word 2 / 2 ^ 32)), (n0, p % n0, signedOf 32 (x.word 2))]
  ((((x.word 0 : Nat) + r.1) % (2 ^ 64 : Nat)).toNat, (r.2 - r.1).toNat + x.esize)

/-! ### SBIND (19 R257) -/

/-- A stream as SBIND leaves it, before its descriptor is read. -/
def State.newStream (s : State) (gb : Word) (desc : Loc) (buf : Nat) : Stream :=
  let t := s.src
  { op := s.nextOp, qcw := gb, desc := desc, words := none, buf := buf, dom := t.dom, rev := t.revNo, sup := t.sup,
    iaddr := s.issue.pc.toNat, after := s.nextOp, fault := none, faultAddr := 0, before := 0, moved := 0, filled := 0, bad := [],
    claims := [], lastClaim := 0, weir := none, qid := none, spHead := 0, spTail := 0, drained := false }

/-- The binding of an outbound stream: its descriptor is read at issue, its range registered. -/
def State.bindOut (s : State) (k : Nat) (x : Stream) : Eff := do
  match x.desc with
  | .sram _ => pure ()
  | _ => streamTrap k 1
  s.checkPort x.desc 64 false
  let (v, s) := s.readNow x.desc 64
  let x : Stream := { x with words := some (wordsOf v 8) }
  if !x.descOk then streamTrap k 1
  let (lo, n) := x.range
  match (s.cluster s.cur).weirRange x.op (s.weirRuns s.cur lo n) with
  | .error w => s.weirTrap lo w
  | .ok c =>
    let s : State := s.setCluster s.cur c
    -- its issue spacing is 4 (19 Table 19.13)
    let t : Thread := { s.me with readyAt := s.clock s.cur.die + 4 }
    pure ({ s with nextOp := s.nextOp + 1 }.setMe (t.setStream k (some { x with weir := some x.op })))

def effSbind (k : Reg8) (a b : Reg) (s : State) : Eff := do
  let (ga, gb, s) ← s.read2 a b
  if (s.me.stream? k.val).isSome then streamTrap k.val 2
  let v := gb.toNat
  if !qcwOk v then streamTrap k.val 1
  let buf ← s.checkWindow (2 ^ 63 + bits v 21 16 * 65536 + bits v 15 7 * 128)
  let (desc, s) ← s.checkAccess ga.toNat 64 64 needR
  if 16 ≤ s.inService s.cur.die s.cur.core then streamTrap k.val 3
  let x := s.newStream gb desc buf
  if x.outbound then s.bindOut k.val x
  else pure ({ s with nextOp := s.nextOp + 1 }.setMe (s.me.setStream k.val (some x)))

def execSbind (k : Reg8) (a b : Reg) (s : State) : Host.Outcome State Fault Refusal := run (effSbind k a b) s

/-! ### SFREE, SSTAT, SFLUSH (19 R260 to R262) -/

def effSfree (k : Reg8) (s : State) : Eff := do
  match s.me.stream? k.val with
  | none => streamTrap k.val 2
  | some _ => pure (s.freeStream s.cur k.val)

def execSfree (k : Reg8) (s : State) : Host.Outcome State Fault Refusal := run (effSfree k) s

/-- ROWS: rows popped or pushed since SBIND (19 Table 19.6). -/
def Stream.rowCount (x : Stream) : Nat := x.before + x.moved

/-- Status of a stream (19 Table 19.6). -/
def Stream.status (x : Stream) (t : Thread) : Nat :=
  let fault := x.fault.isSome || !x.bad.isEmpty || t.holdsRow x.op
  let avail := if x.outbound then x.depth - (x.moved - x.filled) else x.avail
  x.rowCount % 2 ^ 38 + avail % 1024 * 2 ^ 38 + b2n (decide (x.spHead < x.spTail)) * 2 ^ 59 + b2n x.drained * 2 ^ 60 +
    b2n fault * 2 ^ 61 + b2n x.outbound * 2 ^ 62 + 2 ^ 63

/-- SSTAT shows a stream after the pops of the bundle (05 R55). -/
def effSstat (d : Reg) (k : Reg8) (s : State) : Eff := do
  s.checkDest d
  pure (s.writeG d (match s.me.stream? k.val with
    | none => 0
    | some x => w64 (x.status s.me)))

def execSstat (d : Reg) (k : Reg8) (s : State) : Host.Outcome State Fault Refusal := run (effSstat d k) s

/-- SFLUSH: an inbound stream is read again from its ROWS on, after the accesses before the SFLUSH. -/
def effSflush (d : Reg) (k : Reg8) (s : State) : Eff := do
  match s.me.stream? k.val with
  | none => streamTrap k.val 2
  | some x =>
    if x.outbound then
      s.checkAsync d
      pure ((s.emptyG d).launchFlight (.status (.sflush x.op x.moved) d.val) [] .rlx .pkg)
    else
      s.checkDest d
      let x' : Stream := { x with
        filled := Nat.min x.filled x.moved
        bad := x.bad.filter (fun e => decide (e.1 < x.moved))
        after := s.nextOp }
      let s : State := { s with nextOp := s.nextOp + 1 }.setMe (s.me.setStream k.val (some x'))
      pure (s.writeG d (w64 x.rowCount))

def execSflush (d : Reg) (k : Reg8) (s : State) : Host.Outcome State Fault Refusal := run (effSflush d k) s

/-- Whether the first rows of an outbound stream have been performed: none of them is in flight or held (19 R262). -/
def State.rowsDone (s : State) (f : Flight) (op rows : Nat) : Bool :=
  let mine (e : Flight) : Bool :=
    match e.kind with
    | .row o _ r _ => o == op && decide (r < rows)
    | _ => false
  !s.flights.any mine && !(s.thread f.party).held.any (fun h => h.flight?.any mine)

/-! ### The transfer unit (19 R257 to R259) -/

/-- A stream of a thread by its number; numbers from 8 on name those that are leaving. -/
def Thread.streamAt (t : Thread) (j : Nat) : Option Stream := if j < 8 then t.stream? j else t.leaving[j - 8]?

/-- Puts a stream back; one that is leaving goes when it owes no row. -/
def Thread.putStreamAt (t : Thread) (j : Nat) (x : Stream) : Thread :=
  if j < 8 then t.setStream j (some x)
  else if x.claims.isEmpty then { t with leaving := t.leaving.eraseIdx (j - 8) }
  else { t with leaving := t.leaving.set (j - 8) x }

/-- The access by which the transfer unit reads for a stream. -/
def Stream.flight (x : Stream) (p : Party) (ctx : Nat) : Flight :=
  ⟨x.after, p, ctx, .load (.tile 0), [], .rlx, .pkg, x.dom, x.rev, x.sup, x.iaddr, false⟩

/-- The record of an access of a stream that failed (15 R199). -/
def Stream.replay (x : Stream) (addr kind : Nat) : Replay :=
  ⟨.load, addr, Nat.log2 x.esize, false, .rlx, .pkg, x.dom, x.rev, kind, x.iaddr, x.op, true⟩

/-- A row enters a stream's buffer, or goes to the matrix command that has claimed it. -/
def State.rowArrives (s : State) (p : Party) (j : Nat) (x : Stream) (row : Row) (bad : Option Replay) : State :=
  let n := x.filled
  let x : Stream := { x with
    filled := n + 1
    bad := match bad with
      | some r => [(n, r)]
      | none => x.bad }
  match x.claims with
  | (id, due) :: rest =>
    let x : Stream := { x with claims := if due ≤ 1 then rest else (id, due - 1) :: rest, lastClaim := id }
    let c : CoreSt := s.core p
    let mq := c.mq.map (fun m => if m.id == id then { m with aRows := m.aRows ++ [(row, bad.map (·.addr))] } else m)
    (s.setCore p { c with mq := mq }).mapThread p (fun t => t.putStreamAt j x)
  | [] => (s.writeSram (x.rowByte n) 128 row.toNat).mapThread p (fun t => t.putStreamAt j x)

/-- Whether every access of a thread before an operation has returned or been performed (19 R258). -/
def State.settledBefore (s : State) (t : Thread) (op : Nat) : Bool :=
  s.earlierDone t.ctx op true true && t.held.all (fun h => decide (op ≤ h.seq))

/-- A core's token queue with a number (19 R283): its party and stream. -/
def State.tokenQueue (s : State) (die core qid : Nat) : Option (Party × Nat × Stream) :=
  s.contexts.findSome? (fun e =>
    if e.1.die == die && e.1.core == core then
      (List.range 8).findSome? (fun k =>
        (e.2.stream? k).bind (fun x => if x.qid == some qid then some (e.1, k, x) else none))
    else none)

/-- STREAM_DESCRIPTOR_READ. -/
def State.descriptorRead (s : State) (p : Party) (k : Nat) : State :=
  match s.thread? p with
  | none => s
  | some t =>
    match t.streamAt k with
    | none => s
    | some x =>
      if x.words.isSome || !x.bad.isEmpty || !s.pastAcquires t.ctx x.after then s
      else
        let a := match x.desc with
          | .va a => a
          | .sram i => i
          | .pa a => a
        match s.readPart (x.flight p t.ctx) (mkPart a x.desc 64 0) with
        | (.error kind, s) => s.mapThread p (fun t => t.putStreamAt k { x with bad := [(0, x.replay a kind)] })
        | (.ok v, s) =>
          let x : Stream := { x with words := some (wordsOf v 8) }
          let q := bits (x.word 4) 49 48
          let x : Stream :=
            if !x.descOk then { x with fault := some 1 }
            else if !x.isToken then x
            else if (s.tokenQueue p.die p.core q).isSome then { x with fault := some 7 }
            else { x with qid := some q, drained := true }
          s.mapThread p (fun t => t.putStreamAt k x)

def execStreamDescriptorRead (p : Party) (k : Nat) (s : State) : Host.Outcome State Fault Refusal :=
  event (fun s => s.descriptorRead p k) s

/-- Reads the elements of a row: the row, or the address and kind of the first that fails. -/
def State.readElems (s : State) (f : Flight) (size : Nat) (ls : List (Nat × Nat × Loc)) : Except (Nat × Nat) Nat × State :=
  ls.foldl (fun o e =>
    match o with
    | (.ok v, s) =>
      match s.readPart f (mkPart e.2.1 e.2.2 size 0) with
      | (.ok w, s) => (.ok (v + w * 2 ^ (8 * size * e.1)), s)
      | (.error kind, s) => (.error (e.2.1, kind), s)
    | o => o) (.ok 0, s)

/-- Whether the transfer unit may read the next row of an inbound stream. -/
def State.mayFill (s : State) (t : Thread) (x : Stream) : Bool :=
  !x.outbound && x.words.isSome && x.fault.isNone && x.bad.isEmpty && x.qid.isNone && decide (x.filled < x.rows) &&
    decide (x.filled - x.moved < x.depth) && s.settledBefore t x.after

/-- STREAM_FILL: the next row of an inbound stream. A claimed row that fails its checks reaches its matrix command as
poisoned. -/
def State.fill (s : State) (p : Party) (k : Nat) : State :=
  match s.thread? p with
  | none => s
  | some t =>
    match t.streamAt k with
    | none => s
    | some x =>
      if !s.mayFill t x then s
      else
        match s.rowCheck p none x x.filled with
        | (.wait _, s) => s
        | (.bad a, s) =>
          let y : Stream := { x with fault := some 6, faultAddr := a }
          if x.claims.isEmpty then s.mapThread p (fun t => t.putStreamAt k y)
          else s.rowArrives p k y 0 (some (x.replay a 0))
        | (.ok ls, s) =>
          match s.readElems (x.flight p t.ctx) x.esize ls with
          | (.ok v, s) => s.rowArrives p k x (BitVec.ofNat 1024 v) none
          | (.error (a, kind), s) => s.rowArrives p k x 0 (some (x.replay a kind))

def execStreamFill (p : Party) (k : Nat) (s : State) : Host.Outcome State Fault Refusal := event (fun s => s.fill p k) s

/-- Performs the parts of a store that may be performed, in order. -/
def State.performAll (s : State) (op n : Nat) : State :=
  (List.range n).foldl (fun s i =>
    match s.flight? op with
    | some f => s.storePerform f i
    | none => s) s

/-- STREAM_DRAIN: the next row of an outbound stream. -/
def State.drain (s : State) (p : Party) (k : Nat) : State :=
  let row (f : Flight) : Bool := f.party == p &&
    (match f.kind with
      | .row _ j _ _ => j == k
      | _ => false)
  match s.flights.find? row with
  | some f => s.performAll f.id f.parts.length
  | none => s

def execStreamDrain (p : Party) (k : Nat) (s : State) : Host.Outcome State Fault Refusal := event (fun s => s.drain p k) s

end Sys2Proof.Machine
end

