-- ==== Sys2Proof/Machine/Fetch.lean ====
section
/-! DEFINITION. Forming a bundle; the times that instructions take; the registers that words name (spec/05 R50 to
R56; 09 R95, R110; 11 R137, R141; 15 R193, R203). -/

namespace Sys2Proof.Machine

/-! ### Times (09 Table 9.2; 11 Table 11.4) -/

def Width.divTime : Width → Nat
  | .d => 36
  | .w => 20
  | .h => 12
  | .b => 8

def FWidth.time (w : FWidth) : Nat :=
  match w with
  | .d => 4
  | _ => 3

def FWidth.longTime : FWidth → Nat
  | .d => 28
  | .s => 16
  | .h | .b => 10

/-- Pipe and Spacing of a vector instruction; none for every other word (11 Table 11.4). -/
def vectorTime : Instr → Option (Nat × Nat)
  | .vadd .. | .vsub .. | .vmul .. | .vmin .. | .vmax .. | .vclamp .. | .vabs .. | .vneg .. | .vand .. | .vor ..
  | .vxor .. | .vshl .. | .vshr .. | .vsar .. | .vcmp .. | .vsel .. | .vmov .. | .vbcast .. | .vextr .. | .vins ..
  | .viota .. => some (2, 2)
  | .vfma .. | .vmulh .. | .vperm .. | .vcomp .. | .vexpand .. | .vcvt .. => some (2, 4)
  | .vredsum .. | .vredmax .. | .vredmin .. => some (2, 8)
  | .vrcp .. | .vrsq .. | .vexp2 .. | .vlog2 .. | .vhist .. => some (4, 8)
  | .vsort .. => some (8, 12)
  | .vdiv .. | .vsqrt .. => some (16, 16)
  | _ => none

/-- Cycles from a word's issue to the next issue of its slot, with the lane count of the bound tile (09 Table 9.2;
11 Table 11.4; 15 Table 15.10; 19 Table 19.13). -/
def spacing (lanes : Nat) (i : Instr) : Nat :=
  match i with
  | .mul .. | .mulh .. | .mulhu .. => 3
  | .div w .. | .divu w .. | .rem w .. | .remu w .. => Width.divTime w
  | .fadd w .. | .fsub w .. | .fmul w .. | .fma w .. | .fmin w .. | .fmax w .. | .fcmp _ w .. | .fcvt _ w ..
  | .fclass w .. => FWidth.time w
  | .fdiv w .. | .fsqrt w .. => FWidth.longTime w
  | .mtc .. | .trap .. | .eret | .yield | .rpush .. | .rpop .. | .pwait .. => 2
  | .ldv .. | .ldvff .. | .stv .. | .terp .. | .unterp .. => 2
  | .ldvg .. | .stvs .. => Nat.max 1 (lanes / 8)
  | .copy .. | .xcopy .. => 4
  | i => ((vectorTime i).map (·.2)).getD 1

/-- Spacing of the bundle whose word is i: that of the slot's bundle is the larger of its words' (09 R95). -/
def pairSpacing (lanes : Nat) (i : Instr) (a : Option Instr) : Nat :=
  Nat.max (spacing lanes i) ((a.map (spacing lanes)).getD 1)

/-! ### Registers that a word names (05 R56) -/

inductive RegKind where
  | g | v | q
  deriving DecidableEq, Repr

/-- A register that a word names, and whether the word writes it. -/
structure RegUse where
  kind : RegKind
  n : Nat
  write : Bool
  deriving DecidableEq, Repr

def gr (r : Reg) : RegUse := ⟨.g, r.val, false⟩
def gw (r : Reg) : RegUse := ⟨.g, r.val, true⟩
def vr (r : Reg) : RegUse := ⟨.v, r.val, false⟩
def vw (r : Reg) : RegUse := ⟨.v, r.val, true⟩
def qr (q : Reg8) : RegUse := ⟨.q, q.val, false⟩
def qw (q : Reg8) : RegUse := ⟨.q, q.val, true⟩

def srcUse : ASrc → RegUse
  | .window ga => gr ga
  | .stream k => ⟨.v, 24 + k.val, false⟩

/-- The registers that a word names, in field order. -/
def regUses : Instr → List RegUse
  | .mfc d _ => [gw d]
  | .mtc _ d => [gr d]
  | .harvest a b | .tlbsd a b | .hand a b => [gr a, gr b]
  | .plbinv a | .jmpr a | .detach a | .pzero a | .barm a _ | .bto _ a | .csum a _ | .wfe a | .cdec a
  | .migrate a | .mrsum _ a => [gr a]
  | .terp d a b | .attach d a b | .pwait d a b | .pkeep d a b | .launch d a b => [gw d, gr a, gr b]
  | .unterp d a | .callr d a | .caddi d a _ | .pquery d a | .alt d a | .rtswap d a | .region d a | .join d a
  | .revq d a | .sleep d a | .rpush d a | .rpop d a => [gw d, gr a]
  | .call d _ | .sstat d _ | .sflush d _ | .cpoll d _ | .barr d _ | .bara d _ | .barw d _ | .sptake d _
  | .fork d | .lui d _ => [gw d]
  | .ret => [⟨.g, 1, false⟩]
  | .beq d a _ | .bne d a _ | .blt d a _ | .bge d a _ | .bltu d a _ | .bgeu d a _ => [gr d, gr a]
  | .loop d _ => [gr d, gw d]
  | .ld _ _ _ d a _ => [gw d, gr a]
  | .ldIndexed _ _ _ d a b => [gw d, gr a, gr b]
  | .ldv _ d a b => [vw d, gr a, gr b]
  | .ldvff _ d a b => [vw d, ⟨.q, 1, true⟩, gr a, gr b]
  | .ldvg _ d a b => [vw d, gr a, vr b]
  | .pref _ _ a b => [gr a, gr b]
  | .st _ _ _ d a _ => [gr d, gr a]
  | .stIndexed _ _ _ d a b => [gr d, gr a, gr b]
  | .stv _ d a b => [vr d, gr a, gr b]
  | .stvs _ d a b => [vr d, gr a, vr b]
  | .acas _ _ _ d a b => [gr d, gw d, gr a, gr b]
  | .aadd _ _ _ d a b | .aand _ _ _ d a b | .aor _ _ _ d a b | .axor _ _ _ d a b | .amin _ _ _ d a b
  | .amax _ _ _ d a b | .aminu _ _ _ d a b | .amaxu _ _ _ d a b | .aswp _ _ _ d a b | .afadd _ _ _ d a b
  | .lea d a b _ | .cadd d a b => [gw d, gr a, gr b]
  | .cmov d a b => [gw d, gr a, gr b]
  | .sbind _ a b | .cbind _ a b | .mtrans _ a b | .mperm _ a b | .mload _ _ _ a b | .mstore _ _ _ a b
  | .wload _ a b => [gr a, gr b]
  | .cgrant d _ b => [gw d, gr b]
  | .mma _ _ x b | .mmas _ _ x b => [srcUse x, gr b]
  | .copy _ d a | .xcopy _ d a => [gw d, gr a]
  | .route d a b => [gw d, gr a, vr b]
  | .add _ _ d a b | .sub _ _ d a b | .mul _ _ d a b => [gw d, gr a, gr b]
  | .mulh _ d a b | .mulhu _ d a b | .div _ d a b | .divu _ d a b | .rem _ d a b | .remu _ d a b | .min _ d a b
  | .max _ d a b | .minu _ d a b | .maxu _ d a b | .slt _ d a b | .sltu _ d a b | .and _ d a b | .or _ d a b
  | .xor _ d a b | .shl _ d a b | .shr _ d a b | .sar _ d a b => [gw d, gr a, gr b]
  | .clz _ d a | .ctz _ d a | .popc _ d a => [gw d, gr a]
  | .sel d a b c => [gw d, gr a, gr b, gr c]
  | .addi d a _ | .andi d a _ | .ori d a _ | .xori d a _ | .slti d a _ => [gw d, gr a]
  | .shli d a _ | .shri d a _ | .sari d a _ => [gw d, gr a]
  | .ext d a _ _ => [gw d, gr a]
  | .ins d a _ _ => [gr d, gw d, gr a]
  | .fma _ _ d a b => [gr d, gw d, gr a, gr b]
  | .fadd _ _ d a b | .fsub _ _ d a b | .fmul _ _ d a b | .fdiv _ _ d a b => [gw d, gr a, gr b]
  | .fmin _ d a b | .fmax _ d a b | .fcmp _ _ d a b | .fsgn _ _ d a b => [gw d, gr a, gr b]
  | .fsqrt _ _ d a => [gw d, gr a]
  | .fcvt _ _ _ d a _ => [gw d, gr a]
  | .fclass _ d a => [gw d, gr a]
  | .pcnt d a => [qw d, gr a]
  | .pmin d a b => [qw d, qr a, gr b]
  | .pmov d a => [qw d, qr a]
  | .pread d a => [gw d, qr a]
  | .vadd _ _ q d a b | .vsub _ _ q d a b | .vmul _ _ q d a b | .vmulh _ _ q d a b => [vw d, vr a, vr b, qr q]
  | .vmin q d a b | .vmax q d a b | .vand q d a b | .vor q d a b | .vxor q d a b | .vshr q d a b | .vsar q d a b
  | .vperm q d a b | .vcomp q d a b | .vexpand q d a b => [vw d, vr a, vr b, qr q]
  | .vshl _ q d a b | .vcmp _ q d a b | .vdiv _ q d a b => [vw d, vr a, vr b, qr q]
  | .vfma _ q d a b => [vr d, vw d, vr a, vr b, qr q]
  | .vabs _ q d a | .vneg _ q d a | .vsqrt _ q d a | .vrcp _ q d a | .vrsq _ q d a | .vexp2 _ q d a
  | .vlog2 _ q d a | .vredsum _ q d a => [vw d, vr a, qr q]
  | .vclamp q d a b c | .vsel q d a b c => [vw d, vr a, vr b, vr c, qr q]
  | .vmov q d a | .vredmax q d a | .vredmin q d a | .vsort q d a => [vw d, vr a, qr q]
  | .vbcast q d a => [vw d, gr a, qr q]
  | .vextr q d a b => [gw d, vr a, gr b, qr q]
  | .vins q d a b => [vw d, gr a, gr b, qr q]
  | .viota q d => [vw d, qr q]
  | .vcvt _ _ q d a _ => [vw d, vr a, qr q]
  | .vhist q d a => [vr d, vw d, vr a, qr q]
  | _ => []

/-- A register that reads as a constant holds nothing that two words could contend for. -/
def RegUse.counts (u : RegUse) : Bool := !(u.n == 0 && (u.kind == .g || u.kind == .q))

/-- What the contract checker of debug mode reports (05 R56). -/
def contractBroken (t : Thread) (c : Instr) (a : Option Instr) : Bool :=
  let uc := (regUses c).filter RegUse.counts
  let ua := ((a.map regUses).getD []).filter RegUse.counts
  let alias_ (u : RegUse) : Bool := decide (24 ≤ u.n) &&
    (match u.kind with
      | .g => (t.chan? (u.n - 24)).isSome
      | .v => (t.stream? (u.n - 24)).isSome
      | .q => false)
  let reads := (uc ++ ua).filter (fun u => !u.write && alias_ u)
  uc.any (fun u => u.write && ua.any (fun v => v.kind == u.kind && v.n == u.n)) ||
    decide (reads.eraseDups.length < reads.length)

/-- The tile that a C-word names for R137. -/
def namedTile : Instr → Option (Fin 8)
  | .mma t .. | .mmas t .. | .mtrans t .. | .mperm t .. | .mrsum t .. | .mzero t | .acfg t _ => some t
  | .mload _ _ t _ _ => some t
  | _ => none

/-- A pair whose A-word reads or writes a row of the tile that its C-word names (11 R137). -/
def tileClash (t : Thread) (c a : Instr) : Bool :=
  (namedTile c).isSome && namedTile c == t.tile &&
    (regUses a).any (fun u => u.kind == .v && !(decide (24 ≤ u.n) && (t.stream? (u.n - 24)).isSome))

/-! ### Fetch (05 R51; 09 R110; 15 R190, R193, R194, R203) -/

/-- What a fetch of one word yields. -/
inductive Fetched where
  | word (w : IWord)
  | fail (why : FetchFail)
  | wait (addr : Nat)
  deriving DecidableEq, Repr

/-- An access by which fetch reads a word as its context would (15 R203): stores of the core that stand before it
and are not yet performed are seen. -/
def fetchFlight (s : State) (p : Party) (t : Thread) : Flight :=
  ⟨s.nextOp, p, t.ctx, .load .none, [], .rlx, .core, t.dom, t.revNo, t.sup, t.pc.toNat, false⟩

/-- A word that the L1 does not hold is requested at its home slice, which first recalls what the core's L1 holds of the line
under another tag, and then owned copies of other L1s (15 R198, R206, R207, R212). -/
def State.fetchMiss (s : State) (p : Party) (t : Thread) (addr : Nat) : Except Nat Xlat × State :=
  match s.translate (Party.clusterKey p) addr t.revNo false (s.launchOf p) with
  | (.error k, s) => (.error k, s)
  | (.ok x, s) =>
    let ck := Party.coreKey p
    let s : State := s.l2Touch p.die t.dom addr x.pa x.attr false
    (.ok x, (s.recallAliases ck addr t.dom t.revNo x).recallShared ck (x.pa / 64) t.revNo
      (s.revisioned t.dom addr x.revd x.attr))

/-- Fetches the word at an address for the context of a slot. -/
def State.fetchWord (s : State) (p : Party) (t : Thread) (addr : Nat) : Fetched × State :=
  if bits addr 63 56 != 0 then (.fail .address, s)
  else
    let ck := Party.coreKey p
    match s.rights ck t.dom t.sup needX 260 addr (addr + 4) [] with
    | .fail _ r => (.fail (.protection r), s)
    | .miss a => (.wait a, s)
    | .ok used =>
      let s : State := s.usePlb ck used
      -- a word that the L1 holds is not translated (15 R198, R206)
      let got : Except Nat Xlat × State := match (s.core p).l1Hit addr 4 t.dom t.revNo with
        | some h => (.ok ⟨h.1, 0, h.2⟩, s)
        | none => s.fetchMiss p t addr
      match got with
      | (.error k, s) => (.fail (.translation k), s)
      | (.ok x, s) =>
        match s.readVirt t.dom t.revNo addr x 4 with
        | none => (.fail (.translation 8), s)
        | some v =>
          (.word (BitVec.ofNat 32 (s.forward (fetchFlight s p t) (mkPart addr (.va addr) 4 0) v)), s)

/-- Why no bundle forms (05 R51; 09 R110; 15 R203): an address and what is wrong there. -/
inductive BundleFault where
  | encoding (addr : Word) (w : IWord) (second : Bool)
  | placement (addr : Word) (w : IWord) (second : Bool)
  | fetch (addr : Word) (why : FetchFail)
  deriving DecidableEq, Repr

/-- What forming a bundle yields. -/
inductive Bundle where
  | ok (c : Instr) (cw : IWord) (a : Option (Instr × IWord)) (nx : Word)
  | bad (f : BundleFault)
  | wait (addr : Nat)
  deriving DecidableEq, Repr

/-- FetchBundle (05 R51). -/
def State.fetchBundle (s : State) (p : Party) (t : Thread) : Bundle × State :=
  let pc := t.pc
  match s.fetchWord p t pc.toNat with
  | (.fail why, s) => (.bad (.fetch pc why), s)
  | (.wait a, s) => (.wait a, s)
  | (.word w0, s) =>
    match decodeWord w0 with
    | none => (.bad (.encoding pc w0 false), s)
    | some c =>
      if loneBit w0 then (.ok c w0 none (pc + 4), s)
      else if isAWord w0 || pc.getLsbD 2 then (.bad (.placement pc w0 false), s)
      else
        match s.fetchWord p t (pc.toNat + 4) with
        | (.fail why, s) => (.bad (.fetch (pc + 4) why), s)
        | (.wait a, s) => (.wait a, s)
        | (.word w1, s) =>
          match decodeWord w1 with
          | none => (.bad (.encoding (pc + 4) w1 true), s)
          | some a =>
            if !isAWord w1 || loneBit w1 then (.bad (.placement (pc + 4) w1 true), s)
            else if Instr.loneOnly c then (.bad (.placement pc w0 false), s)
            else (.ok c w0 (some (a, w1)) (pc + 8), s)

end Sys2Proof.Machine
end

