-- ==== Sys2Proof/Machine/Vector.lean ====
section
/-! DEFINITION. Vector instructions (11 R138 to R150; 07 R92). -/

namespace Sys2Proof.Machine

/-! ### Lanes -/

/-- Lane i of a row, with e bits to a lane (11 R130). -/
def lane (e : Nat) (x : Row) (i : Nat) : Nat := x.toNat / 2 ^ (e * i) % 2 ^ e

/-- Values of e bits packed from bit 0. -/
def packLanes (e : Nat) (vs : List Nat) : Nat := vs.foldr (fun v acc => v % 2 ^ e + 2 ^ e * acc) 0

/-- A row with its first lanes replaced. -/
def putLanes (old : Row) (e : Nat) (vs : List Nat) : Row :=
  if vs.isEmpty then old else BitVec.ofNat 1024 (putBits old.toNat (e * vs.length - 1) 0 (packLanes e vs))

/-- The bound tile, its type, its lanes and the active lanes of a vector word. -/
structure VCtx where
  typ : Fmt
  e : Nat
  lanes : Nat
  n : Nat
  deriving DecidableEq, Repr

/-- What every vector word first checks: a tile is bound, and the field values suit its type (11 R134, R139). -/
def vprep (q : Reg8) (ok : Fmt → Bool) (s : State) : Except Stop VCtx := do
  let t ← s.boundTile
  let typ := (s.srcTiles[t]).typ
  if !ok typ then s.illegalHere
  let n ← s.readQ q
  let l := 1024 / Fmt.bits typ
  pure ⟨typ, Fmt.bits typ, l, Nat.min n l⟩

def isFloat (f : Fmt) : Bool := f.shape.isSome

/-! ### Which field values suit which tiles (11 Table 11.3) -/

def okRoundSat (m : Rounding) (t : Sat) (f : Fmt) : Bool := if isFloat f then t == .wrap else m == .rne
def okSatInt (t : Sat) (f : Fmt) : Bool := !isFloat f || t == .wrap
def okRoundFloat (m : Rounding) (f : Fmt) : Bool := isFloat f || m == .rne
def okFloat (f : Fmt) : Bool := isFloat f
def okInt (f : Fmt) : Bool := !isFloat f
def okAny (_ : Fmt) : Bool := true

/-! ### The model of R140 -/

/-- Draws for n elements in ascending order: only SR steps the generator (07 R84). -/
def State.draws (s : State) (m : Rounding) : Nat → List Nat × State
  | 0 => ([], s)
  | k + 1 =>
    let (r, s) := s.drawFor m
    let (rs, s) := s.draws m k
    (r :: rs, s)

/-- Writes the active lanes, counts their events, and leaves the other lanes as they were. -/
def State.finishV (s : State) (c : VCtx) (d : Reg) (i : Nat) (vs : List (Nat × Counts)) : State :=
  let s : State := s.count (vs.flatMap (·.2))
  let whole := c.n == c.lanes
  let (old, s) := if whole then (0, s) else s.oldV d
  s.writeV d (putLanes old c.e (vs.map (·.1))) whole i

/-- A vector word with sources va and vb: f takes the draw and the two lanes. -/
def vec2 (m : Rounding) (q : Reg8) (d a b : Reg) (spc : Nat) (ok : Fmt → Bool)
    (f : Fmt → Nat → Nat → Nat → Nat × Counts) (s : State) : Eff := do
  let c ← vprep q ok s
  s.checkPoisonGV [] [a, b]
  let (x, s) ← s.readV a
  let (y, s) ← s.readV b
  s.checkDestV d
  let (rs, s) := s.draws m c.n
  let vs := (List.range c.n).map (fun i => f c.typ (nth rs i 0) (lane c.e x i) (lane c.e y i))
  pure (s.finishV c d spc vs)

/-- A vector word with source va. -/
def vec1 (m : Rounding) (q : Reg8) (d a : Reg) (spc : Nat) (ok : Fmt → Bool)
    (f : Fmt → Nat → Nat → Nat × Counts) (s : State) : Eff := do
  let c ← vprep q ok s
  s.checkPoisonGV [] [a]
  let (x, s) ← s.readV a
  s.checkDestV d
  let (rs, s) := s.draws m c.n
  let vs := (List.range c.n).map (fun i => f c.typ (nth rs i 0) (lane c.e x i))
  pure (s.finishV c d spc vs)

/-- A vector word with sources va, vb and vc; it rounds nothing. -/
def vec3 (q : Reg8) (d a b c3 : Reg) (spc : Nat) (f : Fmt → Nat → Nat → Nat → Nat × Counts) (s : State) : Eff := do
  let c ← vprep q okAny s
  s.checkPoisonGV [] [a, b, c3]
  let (x, s) ← s.readV a
  let (y, s) ← s.readV b
  let (z, s) ← s.readV c3
  s.checkDestV d
  let vs := (List.range c.n).map (fun i => f c.typ (lane c.e x i) (lane c.e y i) (lane c.e z i))
  pure (s.finishV c d spc vs)

/-! ### Arithmetic (11 R142) -/

/-- An operation with a floating-point and an integer form. -/
def arith (m : Rounding) (t : Sat) (fl : FpShape → Rounding → Nat → FpVal → FpVal → Nat × Counts) (int : Int → Int → Int)
    (typ : Fmt) (r x y : Nat) : Nat × Counts :=
  match typ.shape with
  | some f => fl f m r (f.read x) (f.read y)
  | none => intResult typ.bits t (int (signedOf typ.bits x) (signedOf typ.bits y))

def execVadd (m : Rounding) (t : Sat) (q : Reg8) (d a b : Reg) (s : State) : Host.Outcome State Fault Refusal :=
  run (vec2 m q d a b 2 (okRoundSat m t) (arith m t FpShape.add (· + ·))) s
def execVsub (m : Rounding) (t : Sat) (q : Reg8) (d a b : Reg) (s : State) : Host.Outcome State Fault Refusal :=
  run (vec2 m q d a b 2 (okRoundSat m t) (arith m t FpShape.sub (· - ·))) s
def execVmul (m : Rounding) (t : Sat) (q : Reg8) (d a b : Reg) (s : State) : Host.Outcome State Fault Refusal :=
  run (vec2 m q d a b 2 (okRoundSat m t) (arith m t FpShape.mul (· * ·))) s

/-- VMULH: integer tiles, with rm and sat 0. -/
def execVmulh (m : Rounding) (t : Sat) (q : Reg8) (d a b : Reg) (s : State) : Host.Outcome State Fault Refusal :=
  run (vec2 .rne q d a b 4 (fun f => okInt f && m == .rne && t == .wrap) (fun typ _ x y =>
    let e := typ.bits
    (wrapTo e (Int.fdiv (signedOf e x * signedOf e y) ((2 ^ e : Nat) : Int)), []))) s

/-- The minimum or maximum of two lanes (07 R89). -/
def extreme (wantMax : Bool) (typ : Fmt) (x y : Nat) : Nat × Counts :=
  match typ.shape with
  | some f => f.minMax wantMax x y
  | none =>
    let xs := signedOf typ.bits x
    let ys := signedOf typ.bits y
    (if wantMax then (if xs < ys then y else x) else (if ys < xs then y else x), [])

def execVmin (q : Reg8) (d a b : Reg) (s : State) : Host.Outcome State Fault Refusal :=
  run (vec2 .rne q d a b 2 okAny (fun typ _ x y => extreme false typ x y)) s
def execVmax (q : Reg8) (d a b : Reg) (s : State) : Host.Outcome State Fault Refusal :=
  run (vec2 .rne q d a b 2 okAny (fun typ _ x y => extreme true typ x y)) s

/-- VABS and VNEG: a sign bit, or an integer result. -/
def signOp (t : Sat) (neg : Bool) (typ : Fmt) (x : Nat) : Nat × Counts :=
  let e := typ.bits
  match typ.shape with
  | some _ =>
    let top := 2 ^ (e - 1)
    (if neg then (x + top) % 2 ^ e else x % top, [])
  | none =>
    let xs := signedOf e x
    intResult e t (if neg then -xs else (xs.natAbs : Int))

def execVabs (t : Sat) (q : Reg8) (d a : Reg) (s : State) : Host.Outcome State Fault Refusal :=
  run (vec1 .rne q d a 2 (okSatInt t) (fun typ _ x => signOp t false typ x)) s
def execVneg (t : Sat) (q : Reg8) (d a : Reg) (s : State) : Host.Outcome State Fault Refusal :=
  run (vec1 .rne q d a 2 (okSatInt t) (fun typ _ x => signOp t true typ x)) s

/-- VFMA reads vd as well. -/
def effVfma (m : Rounding) (q : Reg8) (d a b : Reg) (s : State) : Eff := do
  let c ← vprep q (okRoundFloat m) s
  s.checkPoisonGV [] [d, a, b]
  let (z, s) ← s.readV d
  let (x, s) ← s.readV a
  let (y, s) ← s.readV b
  s.checkDestV d
  let (rs, s) := s.draws m c.n
  let vs := (List.range c.n).map (fun i =>
    let xi := lane c.e x i
    let yi := lane c.e y i
    let zi := lane c.e z i
    match c.typ.shape with
    | some f => f.fma m (nth rs i 0) (f.read xi) (f.read yi) (f.read zi)
    | none => (wrapTo c.e (signedOf c.e xi * signedOf c.e yi + signedOf c.e zi), []))
  pure (s.finishV c d 4 vs)

def execVfma (m : Rounding) (q : Reg8) (d a b : Reg) (s : State) : Host.Outcome State Fault Refusal :=
  run (effVfma m q d a b) s

/-- A floating-point function of one lane. -/
def floatFn (m : Rounding) (fl : FpShape → Rounding → Nat → FpVal → Nat × Counts) (typ : Fmt) (r x : Nat) : Nat × Counts :=
  match typ.shape with
  | some f => fl f m r (f.read x)
  | none => (x, [])

def execVdiv (m : Rounding) (q : Reg8) (d a b : Reg) (s : State) : Host.Outcome State Fault Refusal :=
  run (vec2 m q d a b 16 okFloat (arith m .wrap FpShape.div (fun x _ => x))) s
def execVsqrt (m : Rounding) (q : Reg8) (d a : Reg) (s : State) : Host.Outcome State Fault Refusal :=
  run (vec1 m q d a 16 okFloat (floatFn m FpShape.sqrt)) s
def execVrcp (m : Rounding) (q : Reg8) (d a : Reg) (s : State) : Host.Outcome State Fault Refusal :=
  run (vec1 m q d a 8 okFloat (floatFn m FpShape.rcp)) s
def execVrsq (m : Rounding) (q : Reg8) (d a : Reg) (s : State) : Host.Outcome State Fault Refusal :=
  run (vec1 m q d a 8 okFloat (floatFn m FpShape.rsqrt)) s
def execVexp2 (m : Rounding) (q : Reg8) (d a : Reg) (s : State) : Host.Outcome State Fault Refusal :=
  run (vec1 m q d a 8 okFloat (floatFn m FpShape.exp2)) s
def execVlog2 (m : Rounding) (q : Reg8) (d a : Reg) (s : State) : Host.Outcome State Fault Refusal :=
  run (vec1 m q d a 8 okFloat (floatFn m FpShape.log2)) s

/-- VCLAMP: VMIN(VMAX(va, vb), vc). -/
def execVclamp (q : Reg8) (d a b c : Reg) (s : State) : Host.Outcome State Fault Refusal :=
  run (vec3 q d a b c 2 (fun typ x y z =>
    let u := extreme true typ x y
    let v := extreme false typ u.1 z
    (v.1, u.2 ++ v.2))) s

/-! ### Logic, shifts, comparisons, selection (11 R143 to R145) -/

def execVand (q : Reg8) (d a b : Reg) (s : State) : Host.Outcome State Fault Refusal :=
  run (vec2 .rne q d a b 2 okAny (fun _ _ x y => (Nat.land x y, []))) s
def execVor (q : Reg8) (d a b : Reg) (s : State) : Host.Outcome State Fault Refusal :=
  run (vec2 .rne q d a b 2 okAny (fun _ _ x y => (Nat.lor x y, []))) s
def execVxor (q : Reg8) (d a b : Reg) (s : State) : Host.Outcome State Fault Refusal :=
  run (vec2 .rne q d a b 2 okAny (fun _ _ x y => (Nat.xor x y, []))) s

def execVshl (t : Sat) (q : Reg8) (d a b : Reg) (s : State) : Host.Outcome State Fault Refusal :=
  run (vec2 .rne q d a b 2 okInt (fun typ _ x y =>
    intResult typ.bits t (signedOf typ.bits x * ((2 ^ (y % 64) : Nat) : Int)))) s
def execVshr (q : Reg8) (d a b : Reg) (s : State) : Host.Outcome State Fault Refusal :=
  run (vec2 .rne q d a b 2 okInt (fun _ _ x y => (x / 2 ^ (y % 64), []))) s
def execVsar (q : Reg8) (d a b : Reg) (s : State) : Host.Outcome State Fault Refusal :=
  run (vec2 .rne q d a b 2 okInt (fun typ _ x y =>
    (wrapTo typ.bits (Int.fdiv (signedOf typ.bits x) ((2 ^ (y % 64) : Nat) : Int)), []))) s

/-- A comparison of two lanes (11 R144). -/
def vcmpOf (c : VCond) (typ : Fmt) (x y : Nat) : Bool × Counts :=
  match typ.shape with
  | some f =>
    let u := f.read x
    let v := f.read y
    let signalling := u.isSignalling || v.isSignalling
    let anyNan := u.isNan || v.isNan
    match c with
    | .eq => (u.eqv v, invalidIf signalling)
    | .ne => (!u.eqv v, invalidIf signalling)
    | .lt => (u.lt v, invalidIf anyNan)
    | .le => (u.lt v || u.eqv v, invalidIf anyNan)
    | .un => (anyNan, invalidIf signalling)
    | .ltu | .leu => (false, [])
  | none =>
    let xs := signedOf typ.bits x
    let ys := signedOf typ.bits y
    match c with
    | .eq => (x == y, [])
    | .ne => (x != y, [])
    | .lt => (decide (xs < ys), [])
    | .le => (decide (xs ≤ ys), [])
    | .ltu => (decide (x < y), [])
    | .leu => (decide (x ≤ y), [])
    | .un => (false, [])

/-- Conditions that suit a tile (11 Table 11.3). -/
def okCond (c : VCond) (f : Fmt) : Bool :=
  match c with
  | .ltu | .leu => okInt f
  | .un => okFloat f
  | _ => true

def execVcmp (c : VCond) (q : Reg8) (d a b : Reg) (s : State) : Host.Outcome State Fault Refusal :=
  run (vec2 .rne q d a b 2 (okCond c) (fun typ _ x y =>
    let r := vcmpOf c typ x y
    (if r.1 then 2 ^ typ.bits - 1 else 0, r.2))) s

def execVsel (q : Reg8) (d a b c : Reg) (s : State) : Host.Outcome State Fault Refusal :=
  run (vec3 q d a b c 2 (fun _ x y z => (if z != 0 then x else y, []))) s

/-! ### Moves (11 R146) -/

def execVmov (q : Reg8) (d a : Reg) (s : State) : Host.Outcome State Fault Refusal :=
  run (vec1 .rne q d a 2 okAny (fun _ _ x => (x, []))) s

/-- VBCAST. -/
def effVbcast (q : Reg8) (d a : Reg) (s : State) : Eff := do
  let c ← vprep q okAny s
  s.checkPoison [a]
  let (x, s) ← s.readG a
  s.checkDestV d
  pure (s.finishV c d 2 (List.replicate c.n (x.toNat % 2 ^ c.e, [])))

def execVbcast (q : Reg8) (d a : Reg) (s : State) : Host.Outcome State Fault Refusal := run (effVbcast q d a) s

/-- A lane in a g register: sign-extended for an integer tile, zero-extended for a floating-point one. -/
def laneWord (typ : Fmt) (v : Nat) : Word :=
  if isFloat typ then w64 v else BitVec.ofInt 64 (signedOf typ.bits v)

/-- VEXTR. -/
def effVextr (q : Reg8) (d a b : Reg) (s : State) : Eff := do
  let c ← vprep q okAny s
  s.checkPoisonGV [b] [a]
  let (x, s) ← s.readV a
  let (k, s) ← s.readG b
  s.checkDest d
  let i := k.toNat % c.lanes
  pure (s.writeG d (if i < c.n then laneWord c.typ (lane c.e x i) else 0))

def execVextr (q : Reg8) (d a b : Reg) (s : State) : Host.Outcome State Fault Refusal := run (effVextr q d a b) s

/-- VINS. -/
def effVins (q : Reg8) (d a b : Reg) (s : State) : Eff := do
  let c ← vprep q okAny s
  let (x, k, s) ← s.read2 a b
  s.checkDestV d
  let i := k.toNat % c.lanes
  let (old, s) := s.oldV d
  let v := if i < c.n then BitVec.ofNat 1024 (putBits old.toNat (c.e * i + c.e - 1) (c.e * i) x.toNat) else old
  pure (s.writeV d v false 2)

def execVins (q : Reg8) (d a b : Reg) (s : State) : Host.Outcome State Fault Refusal := run (effVins q d a b) s

/-- The integer i in a tile's type. -/
def iotaOf (typ : Fmt) (i : Nat) : Nat :=
  match typ.shape with
  | some f => (f.deliver .rne 0 false (Exact.ofInt i 0)).1
  | none => i % 2 ^ typ.bits

/-- VIOTA. -/
def effViota (q : Reg8) (d : Reg) (s : State) : Eff := do
  let c ← vprep q okAny s
  s.checkDestV d
  pure (s.finishV c d 2 ((List.range c.n).map (fun i => (iotaOf c.typ i, []))))

def execViota (q : Reg8) (d : Reg) (s : State) : Host.Outcome State Fault Refusal := run (effViota q d) s

/-! ### Permutes (11 R147) -/

/-- A word that makes its lanes from both rows as a whole. -/
def permuteOp (q : Reg8) (d a b : Reg) (f : VCtx → Row → Row → List Nat) (s : State) : Eff := do
  let c ← vprep q okAny s
  s.checkPoisonGV [] [a, b]
  let (x, s) ← s.readV a
  let (y, s) ← s.readV b
  s.checkDestV d
  pure (s.finishV c d 4 ((f c x y).map (fun v => (v, []))))

/-- Active lanes of va whose lane of vb is set, in order. -/
def chosen (c : VCtx) (x y : Row) : List Nat :=
  (List.range c.n).filterMap (fun i => if lane c.e y i != 0 then some (lane c.e x i) else none)

/-- VEXPAND's lanes: the j-th set lane of vb takes lane j of va. -/
def expandFrom (c : VCtx) (x y : Row) : List Nat → Nat → List Nat
  | [], _ => []
  | i :: r, j =>
    if lane c.e y i != 0 then lane c.e x j :: expandFrom c x y r (j + 1) else 0 :: expandFrom c x y r j

def execVperm (q : Reg8) (d a b : Reg) (s : State) : Host.Outcome State Fault Refusal :=
  run (permuteOp q d a b (fun c x y => (List.range c.n).map (fun i => lane c.e x (lane c.e y i % c.lanes)))) s
def execVcomp (q : Reg8) (d a b : Reg) (s : State) : Host.Outcome State Fault Refusal :=
  run (permuteOp q d a b (fun c x y =>
    let t := chosen c x y
    t ++ List.replicate (c.n - t.length) 0)) s
def execVexpand (q : Reg8) (d a b : Reg) (s : State) : Host.Outcome State Fault Refusal :=
  run (permuteOp q d a b (fun c x y => expandFrom c x y (List.range c.n) 0)) s

/-! ### Reductions (11 R148; 07 R92) -/

/-- One level of the tree: values, the generator and the events. -/
def sumPairs (sr : Bool) (add : Nat → Nat → Nat → Nat × Counts) :
    List (Option Nat) → Nat → List (Option Nat) × Nat × Counts
  | some x :: some y :: r, seed =>
    let seed := if sr then stepSeed seed else seed
    let v := add (if sr then seed else 0) x y
    let (rs, seed, evs) := sumPairs sr add r seed
    (some v.1 :: rs, seed, v.2 ++ evs)
  | some x :: none :: r, seed =>
    let (rs, seed, evs) := sumPairs sr add r seed
    (some x :: rs, seed, evs)
  | none :: o :: r, seed =>
    let (rs, seed, evs) := sumPairs sr add r seed
    (o :: rs, seed, evs)
  | l, seed => (l, seed, [])

/-- The tree over a row of 2^k lanes. -/
def sumTree (sr : Bool) (add : Nat → Nat → Nat → Nat × Counts) : Nat → List (Option Nat) → Nat → Option Nat × Nat × Counts
  | 0, l, seed => (l.head?.getD none, seed, [])
  | k + 1, l, seed =>
    let (l, seed, evs) := sumPairs sr add l seed
    let (v, seed, evs2) := sumTree sr add k l seed
    (v, seed, evs ++ evs2)

/-- Writes lane 0 of vd and leaves the others. -/
def State.writeLane0 (s : State) (c : VCtx) (d : Reg) (v : Nat) (evs : Counts) : State :=
  let s : State := s.count evs
  let (old, s) := s.oldV d
  s.writeV d (putLanes old c.e [v]) false 8

/-- VREDSUM. -/
def effVredsum (m : Rounding) (q : Reg8) (d a : Reg) (s : State) : Eff := do
  let c ← vprep q (okRoundFloat m) s
  s.checkPoisonGV [] [a]
  let (x, s) ← s.readV a
  s.checkDestV d
  let ls := (List.range c.lanes).map (fun i => if i < c.n then some (lane c.e x i) else none)
  let add (r u v : Nat) : Nat × Counts :=
    match c.typ.shape with
    | some f => f.add m r (f.read u) (f.read v)
    | none => ((u + v) % 2 ^ c.e, [])
  let (v, seed, evs) := sumTree (m == .sr) add (Nat.log2 c.lanes) ls (s.me.seed.toNat % 2 ^ 32)
  let s : State := if m == .sr then s.setMe { s.me with seed := w64 seed } else s
  pure (s.writeLane0 c d (v.getD 0) evs)

def execVredsum (m : Rounding) (q : Reg8) (d a : Reg) (s : State) : Host.Outcome State Fault Refusal :=
  run (effVredsum m q d a) s

/-- The maximum or minimum of lanes (07 Table 7.8): with a signalling NaN, or with NaNs alone, the lowest-numbered NaN
lane quieted; INVALID once for each signalling lane. -/
def redExtreme (wantMax : Bool) (typ : Fmt) (xs : List Nat) : Nat × Counts :=
  match typ.shape with
  | some f =>
    let vals := xs.map f.read
    let signalling := (vals.filter FpVal.isSignalling).length
    let evs := List.replicate signalling evInvalid
    if signalling != 0 || vals.all FpVal.isNan then (f.pickNan vals, evs)
    else
      match xs.filter (fun x => !(f.read x).isNan) with
      | [] => (0, evs)
      | x :: r => (r.foldl (fun acc y => (f.minMax wantMax acc y).1) x, evs)
  | none =>
    match xs with
    | [] => (0, [])
    | x :: r => (r.foldl (fun acc y => (extreme wantMax typ acc y).1) x, [])

/-- VREDMAX and VREDMIN: with no active lane they write nothing. -/
def redOp (wantMax : Bool) (q : Reg8) (d a : Reg) (s : State) : Eff := do
  let c ← vprep q okAny s
  s.checkPoisonGV [] [a]
  let (x, s) ← s.readV a
  s.checkDestV d
  let v := redExtreme wantMax c.typ ((List.range c.n).map (lane c.e x))
  pure (if c.n = 0 then s else s.writeLane0 c d v.1 v.2)

def execVredmax (q : Reg8) (d a : Reg) (s : State) : Host.Outcome State Fault Refusal := run (redOp true q d a) s
def execVredmin (q : Reg8) (d a : Reg) (s : State) : Host.Outcome State Fault Refusal := run (redOp false q d a) s

/-! ### Conversion, sorting, histograms (11 R149, R150, R169) -/

/-- VCVT. Each lane that it converts steps the generator under SR, from T to T as well (11 R149; 07 R84). -/
def effVcvt (m : Rounding) (t : Sat) (q : Reg8) (d a : Reg) (f : Fmt) (s : State) : Eff := do
  let c ← vprep q okAny s
  s.checkPoisonGV [] [a]
  let (x, s) ← s.readV a
  s.checkDestV d
  let k := Nat.min c.n (1024 / f.bits)
  let (rs, s) := s.draws m k
  let vs := (List.range k).map (fun i => convert c.typ f m t (nth rs i 0) (lane c.e x i))
  let s : State := s.count (vs.flatMap (·.2))
  let whole := k * f.bits == 1024
  let (old, s) := if whole then (0, s) else s.oldV d
  pure (s.writeV d (putLanes old f.bits (vs.map (·.1))) whole 4)

def execVcvt (m : Rounding) (t : Sat) (q : Reg8) (d a : Reg) (f : Fmt) (s : State) :
    Host.Outcome State Fault Refusal := run (effVcvt m t q d a f) s

/-- A feature that the local die lacks: cause 0x09, whose entry takes the missing FEAT bit (05 R53, R66). -/
def State.needFeat (s : State) (mask : Nat) : Except Stop Unit :=
  if Nat.land (Config.feat s.cur.die) mask == mask then .ok () else trap 0x09 0 (w64 mask)

/-- FEAT bits (01 Table 1.3). -/
def featMx4 : Nat := 2
def featTern : Nat := 4
def featSort : Nat := 8

/-- The key by which VSORT orders a lane. -/
def sortKey (typ : Fmt) (x : Nat) : Int :=
  match typ.shape with
  | some f => f.totalKey x
  | none => signedOf typ.bits x

/-- Inserts a lane behind those of an equal key. -/
def insertLane (typ : Fmt) (x : Nat) : List Nat → List Nat
  | [] => [x]
  | y :: r => if sortKey typ x < sortKey typ y then x :: y :: r else y :: insertLane typ x r

/-- VSORT. -/
def effVsort (q : Reg8) (d a : Reg) (s : State) : Eff := do
  s.needFeat featSort
  let c ← vprep q okAny s
  s.checkPoisonGV [] [a]
  let (x, s) ← s.readV a
  s.checkDestV d
  let sorted := ((List.range c.n).map (lane c.e x)).foldl (fun l v => insertLane c.typ v l) []
  pure (s.finishV c d 12 (sorted.map (fun v => (v, []))))

def execVsort (q : Reg8) (d a : Reg) (s : State) : Host.Outcome State Fault Refusal := run (effVsort q d a) s

/-- VHIST: every bin of vd, which is read as well. -/
def effVhist (q : Reg8) (d a : Reg) (s : State) : Eff := do
  s.needFeat featSort
  let c ← vprep q okInt s
  s.checkPoisonGV [] [d, a]
  let (z, s) ← s.readV d
  let (x, s) ← s.readV a
  s.checkDestV d
  let vals := (List.range c.n).map (lane c.e x)
  let bins := (List.range c.lanes).map (fun j => (lane c.e z j + vals.count j) % 2 ^ c.e)
  pure (s.writeV d (putLanes 0 c.e bins) true 8)

def execVhist (q : Reg8) (d a : Reg) (s : State) : Host.Outcome State Fault Refusal := run (effVhist q d a) s

end Sys2Proof.Machine
end

