-- ==== Sys2Proof/Machine/Matrix.lean ====
section
/-! DEFINITION. Tiles, matrix commands, weight slots and tile transfers, and the matrix unit (11 R131, R151 to R169). -/

namespace Sys2Proof.Machine

/-! ### Tiles (11 R131, R132, R164) -/

/-- The tile as it stands. -/
def State.tileNow (s : State) (t : Nat) : Tile := vget (s.core s.cur).tiles t Tile.reset

def State.setTile (s : State) (t : Nat) (x : Tile) : State :=
  let c : CoreSt := s.core s.cur
  s.setCore s.cur { c with tiles := vset c.tiles t x }

/-- A tile tagged with another domain traps (11 R131). -/
def State.checkTag (s : State) (t : Nat) : Except Stop Unit :=
  match (s.tileNow t).tag with
  | some d => if d == s.src.dom then .ok () else trap 0x06 0 (w64 t)
  | none => .ok ()

/-- The first instruction that names an untagged tile tags it (11 R131). -/
def State.tagTile (s : State) (t : Nat) : State :=
  let x := s.tileNow t
  if x.tag.isNone then s.setTile t { x with tag := some s.src.dom } else s

/-- An instruction that waits for every row of a tile parks while one is empty (11 R132). -/
def State.checkRows (s : State) (t : Nat) : Except Stop Unit :=
  if (s.tileNow t).rows.toList.any (fun r =>
      match r.fill with
      | .empty _ => true
      | _ => false) then .error (.park (.rows t))
  else .ok ()

/-- A tile with every bit 0. -/
def Tile.zeroed (t : Tile) : Tile := { t with rows := Vector.replicate 32 ⟨0, .full⟩ }

def effMzero (t : Reg8) (s : State) : Eff := do
  s.checkTag t.val
  s.checkRows t.val
  let s : State := s.tagTile t.val
  pure (s.setTile t.val (s.tileNow t.val).zeroed)

def execMzero (t : Reg8) (s : State) : Host.Outcome State Fault Refusal := run (effMzero t) s

def effAcfg (t : Reg8) (f : Fmt) (s : State) : Eff := do
  s.checkTag t.val
  s.checkRows t.val
  pure (s.setTile t.val ({ s.tileNow t.val with typ := f, tag := some s.src.dom } : Tile).zeroed)

def execAcfg (t : Reg8) (f : Fmt) (s : State) : Host.Outcome State Fault Refusal := run (effAcfg t f) s

def effAbind (t : Reg8) (s : State) : Eff := do
  s.checkTag t.val
  let s : State := s.tagTile t.val
  pure (s.setMe { s.me with tile := some t })

def execAbind (t : Reg8) (s : State) : Host.Outcome State Fault Refusal := run (effAbind t) s

def effAbindNone (s : State) : Eff := pure (s.setMe { s.me with tile := none })

def execAbindNone (s : State) : Host.Outcome State Fault Refusal := run effAbindNone s

/-! ### WLOAD and WFREE (11 R154, R156, R157) -/

def State.wslot (s : State) (p : Party) (w : Nat) : WSlot := vget (s.cluster p).wslots w WSlot.reset

def State.setWslot (s : State) (p : Party) (w : Nat) (x : WSlot) : State :=
  let c := s.cluster p
  s.setCluster p { c with wslots := vset c.wslots w x }

/-- A matrix trap of cause 0x0B: EADDR the operand at fault, EINFO 0 (11 R160). -/
def matTrap (x : Word) : Except Stop α := .error (.trap 0x0B x 0 (some 0))

/-- Cores of a cluster, by position. -/
def clusterCores (ck : Nat) : List Nat := (List.range 8).map (fun i => ck / 32 * 256 + Config.coreAt (ck % 32) i)

/-- The weight slot that a command reads; none for a constant form. -/
def MatCmd.wslot? (m : MatCmd) : Option Nat :=
  match m.form with
  | .mma | .mmas => some (m.gb % 16)
  | _ => none

/-- Whether a command of a queue was received before an operation and has yet to read a slot (11 R154). -/
def readsBefore (q : List MatCmd) (w op : Nat) : Bool :=
  q.any (fun m => !m.done && m.wslot? == some w && decide (m.id < op))

/-- Whether a command of a cluster was received before an operation and has yet to read a slot. -/
def State.unread (s : State) (ck w op : Nat) : Bool := (clusterCores ck).any (fun k => readsBefore (s.coreAt k).mq w op)

/-- Whether a slot is free for what is received now: a WFREE received before counts, although the bytes wait for the
commands that stand before it (11 R154, R157; DEDUCED: log 36). -/
def WSlot.isFree (x : WSlot) : Bool := x.st == .free || x.freeAt.isSome

/-- A slot tagged with another domain; the manual states no EADDR or EINFO here (DESIGN CHOICE: log 23). -/
def State.checkSlotDomain (s : State) (w : Nat) : Except Stop Unit :=
  let x := s.wslot s.cur w
  if x.st != .free && x.dom != s.src.dom then s.openTrap 0x06 else .ok ()

/-- LEN and OFF × 64 of a WLOAD descriptor (11 Table 11.9). -/
def wlen (gb : Nat) : Nat := bits gb 17 0
def woff (gb : Nat) : Nat := bits gb 28 18 * 64

def wdescOk (gb : Nat) : Bool :=
  bits gb 63 31 == 0 && wlen gb % 64 == 0 && decide (64 ≤ wlen gb) && decide (woff gb + wlen gb ≤ 131072)

/-- Whether a WLOAD's range covers that of an earlier record. -/
def covers (gb old : Nat) : Bool := decide (woff gb ≤ woff old) && decide (woff old + wlen old ≤ woff gb + wlen gb)

/-- Whether a WLOAD is one that a held command waits for: the command's own thread repeats a load that the slot had
recorded at the command's issue (11 R168). -/
def State.repeats (s : State) (w : Nat) (ga gb : Word) : Bool :=
  (clusterCores (Party.clusterKey s.cur)).any (fun k => (s.coreAt k).mq.any (fun m =>
    m.held && m.wslot? == some w && m.ctx == s.src.ctx && m.recs.any (fun r => r.ga == ga && r.gb == gb)))

/-- The slot after a WLOAD: one that a held command waits for changes no record, and keeps its place among them. -/
def WSlot.receive (x : WSlot) (again : Bool) (dom op : Nat) (ga gb : Word) (old : List WRec) : WSlot :=
  if again then
    let recs := x.recs.map (fun r => if r.ga == ga && r.gb == gb then { r with op := op } else r)
    { x with st := if recs.any (fun r => r.op == op) then .loading else x.st, recs := recs }
  else ⟨.loading, dom, bits gb.toNat 30 29, old ++ [⟨ga, gb, op⟩], none⟩

/-- WLOAD: its checks in the order of R156; that of a fifth record, for which the rule gives no place, comes last
(DESIGN CHOICE: log 107). A WLOAD received after a WFREE finds the slot free of records. -/
def effWload (w : Fin 16) (a b : Reg) (s : State) : Eff := do
  let (ga, gb, s) ← s.read2 a b
  let y := gb.toNat
  if !wdescOk y then matTrap gb
  if ga.toNat % 64 != 0 then matTrap ga
  s.checkSlotDomain w.val
  let (l, s) ← s.checkAccess ga.toNat (wlen y) 64 needR
  let x := s.wslot s.cur w.val
  let old := if x.isFree then [] else x.recs.filter (fun r => !covers y r.gb.toNat)
  match (s.cluster s.cur).weirRegister s.nextOp [(l, wlen y, false)] with
  | .error f => s.weirTrap ga.toNat f
  | .ok c =>
    let again := s.repeats w.val ga gb
    if !again && decide (4 ≤ old.length) then matTrap ga
    let s : State := s.setCluster s.cur c
    let s : State := s.setWslot s.cur w.val (x.receive again s.src.dom s.nextOp ga gb old)
    pure (s.launchFlight (.wload w.val ga.toNat y again) [mkPart ga.toNat l (wlen y) 0] .rlx .clu)

def execWload (w : Fin 16) (a b : Reg) (s : State) : Host.Outcome State Fault Refusal := run (effWload w a b) s

/-- WFREE: the slot is free once every command received before it has read it (11 R157; DEDUCED: log 36). -/
def effWfree (w : Fin 16) (s : State) : Eff := do
  s.checkSlotDomain w.val
  let x := s.wslot s.cur w.val
  if s.unread (Party.clusterKey s.cur) w.val s.nextOp then
    pure (s.setWslot s.cur w.val { x with freeAt := if x.isFree then x.freeAt else some s.nextOp })
  else pure (s.setWslot s.cur w.val WSlot.reset)

/-- The slots of a cluster whose WFREE no command precedes any longer become free. -/
def State.freeSlotsDue (s : State) (ck : Nat) : State :=
  let c := s.clusterAt ck
  if c.wslots.toList.all (fun x => x.freeAt.isNone) then s
  else
    s.setClusterAt ck { c with wslots := Vector.ofFn (fun (w : Fin 16) =>
      match c.wslots[w].freeAt with
      | some op => if s.unread ck w.val op then c.wslots[w] else WSlot.reset
      | none => c.wslots[w]) }

/-- WFREEs that wait take effect as soon as they may. -/
def State.wfreeSweep (s : State) : State := s.clusters.foldl (fun s e => s.freeSlotsDue e.1) s

def execWfree (w : Fin 16) (s : State) : Host.Outcome State Fault Refusal := run (effWfree w) s

/-- First byte of a slot among the bytes of all weight buffers. -/
def weightBase (ck w : Nat) : Nat := (ck * 16 + w) * 131072

/-- Writes n bytes of a weight buffer. -/
def State.writeW (s : State) (a n v : Nat) : State :=
  { s with
    wmem := Memory.writeN s.wmem a v n
    wmemPoison := s.wmemPoison.filter (fun g => !(coveredGranules a n).contains g) }

def State.poisonW (s : State) (a : Nat) : State :=
  { s with wmemPoison := if s.wmemPoison.contains (a / 16) then s.wmemPoison else s.wmemPoison ++ [a / 16] }

/-- The weight slot of a WLOAD, and whether a command waits for it. -/
def Flight.wslot? (f : Flight) : Option (Nat × Bool) :=
  match f.kind with
  | .wload w _ _ again => some (w, again)
  | _ => none

/-- Whether a load into a slot must wait for what its cluster received before it: an earlier load into the slot, or a command
that has yet to read it. One that a held command waits for waits for other such loads only (11 R154, R168). -/
def State.slotInUse (s : State) (ck w : Nat) (again : Bool) (op : Nat) : Bool :=
  s.flights.any (fun e => decide (e.id < op) && Party.clusterKey e.party == ck &&
      e.wslot?.any (fun x => x.1 == w && (x.2 || !again))) ||
    (!again && s.unread ck w op)

/-- WLOAD_COMPLETE: the bytes reach the slot; those that cannot be delivered are poisoned granules. -/
def State.wloadDone (s : State) (op : Nat) : State :=
  match s.flight? op with
  | none => s
  | some f =>
    match f.kind, f.parts with
    | .wload w ga gb again, p :: _ =>
      let ck := Party.clusterKey f.party
      if s.slotInUse ck w again op || !s.earlierDone f.ctx op false true || !s.pastAcquires f.ctx op then s
      else
        let base := weightBase ck w + woff gb
        let g : Flight := { f with kind := .load (.tile 0) }
        let s : State := (List.range (wlen gb / 16)).foldl (fun s i =>
          match s.readPart g (mkPart (ga + 16 * i) (p.loc.plus (16 * i)) 16 0) with
          | (.ok v, s) => s.writeW (base + 16 * i) 16 v
          | (.error _, s) => s.poisonW (base + 16 * i)) s
        let s : State := (s.dropFlight op).weirRemove ck op
        let x := s.wslot f.party w
        let more := s.flights.any (fun e => Party.clusterKey e.party == ck && x.recs.any (fun r => r.op == e.id) &&
          e.wslot?.any (fun v => v.1 == w))
        if x.st == .loading && x.recs.any (fun r => r.op == op) && !more then s.setWslot f.party w { x with st := .loaded }
        else s
    | _, _ => s

def execWloadComplete (op : Nat) (s : State) : Host.Outcome State Fault Refusal := event (fun s => s.wloadDone op) s

/-! ### Issue of a matrix command (11 R158 to R163) -/

/-- A format pair and the tile type it needs, with its FEAT bits (11 Table 11.12). -/
def matPair (a b : Fmt) : Option (Fmt × Nat) :=
  match a, b with
  | .bf16, .bf16 | .bf16, .fp16 | .fp16, .bf16 | .fp16, .fp16 => some (.fp32, 0)
  | .fp8e4, .fp8e4 | .fp8e4, .fp8e5 | .fp8e5, .fp8e4 | .fp8e5, .fp8e5 => some (.fp32, 0)
  | .fp4, .fp4 => some (.fp32, featMx4)
  | .int8, .int8 => some (.int32, 0)
  | .int8, .tern => some (.int32, featTern)
  | _, _ => none

/-- The formats of FMTA and FMTB codes, where they are a pair. -/
def pairOf (fa fb : Nat) : Option (Fmt × Fmt × Fmt × Nat) :=
  match fmtOfCode (fa % 16), fmtOfCode (fb % 16) with
  | some a, some b => (matPair a b).map (fun r => (a, b, r.1, r.2))
  | _, _ => none

/-- Scale code of an operand: MMA has none, and neither has an INT8 or TERN operand (07 R76; 11 R159). -/
def scaleCode (mmas : Bool) (f : Fmt) (fmt : Nat) : Nat :=
  match f with
  | .int8 | .tern => 0
  | _ => if mmas then bits fmt 5 4 else 0

/-- The pair that the thread's formats make for the form (11 R159, R160, R163). -/
def State.formPair (s : State) (form : MatForm) : Option (Fmt × Fmt × Fmt × Nat) :=
  let fa := s.me.fmta.toNat
  let fb := s.me.fmtb.toNat
  match form with
  | .mma | .mmas => pairOf fa fb
  | _ => pairOf fa fa

/-- Item 2 of R160: the pair, a reserved scale code of an operand whose code the form uses (DEDUCED: log 95), and the tile's
type. -/
def State.checkPair (s : State) (t : Nat) (mmas : Bool) (o : Option (Fmt × Fmt × Fmt × Nat)) : Except Stop (Fmt × Fmt) :=
  let typ := (s.tileNow t).typ
  let info := w64 (s.me.fmta.toNat % 64 + s.me.fmtb.toNat % 64 * 2 ^ 8 + Fmt.code typ * 2 ^ 16)
  let bad : Except Stop (Fmt × Fmt) := s.openAddrTrap 0x0B info
  match o with
  | none => bad
  | some (a, b, need, _) =>
    if typ == need && scaleCode mmas a s.me.fmta.toNat != 3 && scaleCode mmas b s.me.fmtb.toNat != 3 then .ok (a, b) else bad

/-- The feature of a pair (11 Table 11.12). -/
def State.checkPairFeat (s : State) (o : Option (Fmt × Fmt × Fmt × Nat)) : Except Stop Unit :=
  match o with
  | some (_, _, _, feat) => s.needFeat feat
  | none => .ok ()

/-- Item 6 of R160: a window address of 4 KiB. Reserved bits of a local address fail as for every access (13 R170). -/
def State.checkAWindow (s : State) (ga : Word) : Except Stop Loc := do
  let a := ga.toNat
  if !isLocal a || a % 128 != 0 || decide (0xF000 < bits a 15 0) then matTrap ga
  if bits a 62 22 != 0 then protTrap a needR 6
  let i ← s.checkWindow a
  s.checkWeir a (.sram i) 4096 false
  pure (.sram i)

/-- The position of the element that a stream of 128-byte elements gives next. -/
def Stream.position (x : Stream) : Nat := if x.isToken then x.before + x.moved else x.pos + x.moved

/-- Item 7 of R160: stream k with 128-byte elements, and its next 32 rows. A stream with other elements traps with the reason of
one bound in the wrong direction, which the rule does not name (DESIGN CHOICE: log 116). -/
def State.checkAStream (s : State) (k : Nat) : Except Stop Stream :=
  match s.src.stream? k with
  | none => streamTrap k 2
  | some x =>
    if x.outbound || bits x.qcw.toNat 34 32 != 7 then streamTrap k 4
    else
      match x.fault with
      | some r => if x.filled < x.moved + 32 then x.faultTrap k r else .ok x
      | none =>
        match x.needWords k with
        | .error e => .error e
        | .ok _ => if x.qid.isNone && decide (x.rows < x.moved + 32) then streamTrap k 5 else .ok x

/-- Item 8 of R160: the scale bytes of an operand. -/
def State.checkScales (s : State) (code base idx nb : Nat) : Eff := do
  if code == 0 then pure s
  else
    let (_, s) ← s.checkAccess (base + idx * 32 * nb) (32 * nb) 1 needR
    pure s

/-- The command takes the rows of a stream that are present and claims the rest of its 32, which count as popped by the
bundle (11 R161; 05 R55). -/
def State.claimRows (s : State) (k : Nat) (x : Stream) (id : Nat) : List (Row × Option Nat) × State :=
  let have_ := Nat.min 32 (x.filled - x.moved)
  let rows := (List.range have_).map (fun i =>
    let n := x.moved + i
    match x.bad.find? (fun e => e.1 == n) with
    | some e => ((0 : Row), some e.2.addr)
    | none => (BitVec.ofNat 1024 (s.readSram (x.rowByte n) 128), none))
  let e := (s.me.stream? k).getD x
  let claims := if have_ = 32 then e.claims else e.claims ++ [(id, 32 - have_)]
  let y : Stream := { e with moved := e.moved + 32, claims := claims, lastClaim := id }
  let s : State := s.setMe (s.me.setStream k (some y))
  (rows, { s with issue := { s.issue with popped := List.replicate 32 (8 + k, 0) ++ s.issue.popped } })

/-- What an issuing matrix command has found of its operands. -/
structure MatIssue where
  form : MatForm
  zero : Bool
  tile : Nat
  a : Option Loc
  ga : Nat
  rows : List (Row × Option Nat)
  gb : Nat
  code : Nat
  recs : List WRec

/-- Appends a command whose checks have passed: a full queue parks it, and so do rows that another operation is to
fill (11 R132, R151). -/
def State.appendCmd (s : State) (x : MatIssue) (after : State → List (Row × Option Nat) × State) : Eff := do
  let c : CoreSt := s.core s.cur
  if (s.tileNow x.tile).rows.toList.any (fun r => c.rowBusy r) then .error (.park (.rows x.tile))
  if 4 ≤ c.mq.length then .error (.park .matrixQueue)
  let (rows, s) := after s
  let s : State := s.tagTile x.tile
  let t : Thread := s.me
  let id := s.nextOp
  let tile := s.tileNow x.tile
  let s : State := s.setTile x.tile { tile with rows := tile.rows.map (fun r => { r with fill := .empty id }) }
  let c : CoreSt := s.core s.cur
  let cmd : MatCmd :=
    { id := id, slot := s.cur.slot, ctx := t.ctx, form := x.form, word := s.issue.word.toNat, zero := x.zero,
      tile := x.tile, a := x.a, ga := x.ga, aRows := x.rows ++ rows, gb := x.gb, fmta := t.fmta.toNat,
      fmtb := t.fmtb.toNat, scla := t.scla.toNat, sclb := t.sclb.toNat, dom := t.dom, rev := t.revNo,
      iaddr := s.issue.pc.toNat, code := x.code, recs := x.recs, block := 0, held := false,
      heldAt := 0, resumed := false, counts := List.replicate 16 0, done := false }
  pure { s.setCore s.cur { c with mq := c.mq ++ [cmd] } with nextOp := id + 1 }

/-- MMA and MMAS. -/
def effMma (mmas : Bool) (t : Reg8) (zero : Bool) (src : ASrc) (b : Reg) (s : State) : Eff := do
  let form : MatForm := if mmas then .mmas else .mma
  let pair := s.formPair form
  s.checkPairFeat pair
  let (ga, gb, s) ← (match src with
    | .window a => s.read2 a b
    | .stream _ => do
      s.checkPoison [b]
      let (y, s) ← s.readG b
      pure (0, y, s))
  s.checkTag t.val
  let (fa, fb) ← s.checkPair t.val mmas pair
  let y := gb.toNat
  let nb := kOf fa / 32
  if bits y 63 48 != 0 || bits y 15 12 != 0 || (!mmas && bits y 47 16 != 0) then matTrap gb
  let slot := s.wslot s.cur (y % 16)
  if slot.st == .free then matTrap gb
  s.checkSlotDomain (y % 16)
  if slot.isFree then matTrap gb
  match tileBytes slot.code fb with
  | none => matTrap gb
  | some n => if 131072 < (bits y 11 4 + 1) * n then matTrap gb
  let scales (s : State) : Eff := do
    let s ← s.checkScales (scaleCode mmas fa s.me.fmta.toNat) s.me.scla.toNat (bits y 31 16) nb
    s.checkScales (scaleCode mmas fb s.me.fmtb.toNat) s.me.sclb.toNat (bits y 47 32) nb
  match src with
  | .window _ =>
    let l ← s.checkAWindow ga
    let s ← scales s
    s.appendCmd ⟨form, zero, t.val, some l, ga.toNat, [], y, slot.code, slot.recs⟩ (fun s => ([], s))
  | .stream k =>
    let x ← s.checkAStream k.val
    let s ← scales s
    s.appendCmd ⟨form, zero, t.val, none, x.position, [], y, slot.code, slot.recs⟩ (fun s => s.claimRows k.val x s.nextOp)

def execMma (t : Reg8) (zero : Bool) (src : ASrc) (b : Reg) (s : State) : Host.Outcome State Fault Refusal :=
  run (effMma false t zero src b) s

def execMmas (t : Reg8) (zero : Bool) (src : ASrc) (b : Reg) (s : State) : Host.Outcome State Fault Refusal :=
  run (effMma true t zero src b) s

/-- The checks that the constant forms share, and their format (11 R163). -/
def State.constChecks (s : State) (t : Nat) : Except Stop Fmt := do
  let pair := s.formPair .mrsum
  let (fa, _) ← s.checkPair t false pair
  pure fa

/-- MTRANS. -/
def effMtrans (t : Reg8) (a b : Reg) (s : State) : Eff := do
  s.checkPairFeat (s.formPair .mrsum)
  let (ga, gb, s) ← s.read2 a b
  s.checkTag t.val
  let fa ← s.constChecks t.val
  if bits gb.toNat 63 3 != 0 || decide (kOf fa / 32 ≤ gb.toNat % 8) then matTrap gb
  let l ← s.checkAWindow ga
  s.appendCmd ⟨.mtrans (gb.toNat % 8), false, t.val, some l, ga.toNat, [], gb.toNat, 0, []⟩ (fun s => ([], s))

def execMtrans (t : Reg8) (a b : Reg) (s : State) : Host.Outcome State Fault Refusal := run (effMtrans t a b) s

/-- MPERM: its index bytes are read at issue. -/
def effMperm (t : Reg8) (a b : Reg) (s : State) : Eff := do
  s.checkPairFeat (s.formPair .mrsum)
  let (ga, gb, s) ← s.read2 a b
  s.checkTag t.val
  let _ ← s.constChecks t.val
  let y := gb.toNat
  if !isLocal y || y % 32 != 0 then matTrap gb
  let l ← s.checkAWindow ga
  if bits y 62 22 != 0 then protTrap y needR 6
  let i ← s.checkWindow y
  s.checkPort (.sram i) 32 false
  let (v, s) := s.readNow (.sram i) 32
  let p := (List.range 32).map (fun j => v / 2 ^ (8 * j) % 256)
  s.appendCmd ⟨.mperm p, false, t.val, some l, ga.toNat, [], y, 0, []⟩ (fun s => ([], s))

def execMperm (t : Reg8) (a b : Reg) (s : State) : Host.Outcome State Fault Refusal := run (effMperm t a b) s

/-- MRSUM. -/
def effMrsum (t : Reg8) (a : Reg) (s : State) : Eff := do
  s.checkPairFeat (s.formPair .mrsum)
  s.checkPoison [a]
  let (ga, s) ← s.readG a
  s.checkTag t.val
  let _ ← s.constChecks t.val
  let l ← s.checkAWindow ga
  s.appendCmd ⟨.mrsum, false, t.val, some l, ga.toNat, [], 0, 0, []⟩ (fun s => ([], s))

def execMrsum (t : Reg8) (a : Reg) (s : State) : Host.Outcome State Fault Refusal := run (effMrsum t a) s

/-! ### The matrix unit (11 R151 to R153, R161, R168) -/

/-- Whether a command's operands are ready (11 R151): its rows of A are present, earlier stores to its window are
performed, no load received before it into its weight slot is still due, nor one repeated for a held command, and no access of its
thread that others may not precede is under way (17 R232). -/
def State.cmdReady (s : State) (k : Nat) (m : MatCmd) : Bool :=
  let ck := k / 256 * 32 + Config.clusterOf (k % 256)
  (match m.a with
    | none => decide (32 ≤ m.aRows.length) || (m.aRows.getLast?.any (fun r => r.2.isSome))
    | some l => s.flights.all (fun f => !(Party.coreKey f.party == k && decide (f.id < m.id) && f.stores &&
        f.parts.any (fun p => p.open_ && (locOverlap p.loc p.size l 4096).isSome)))) &&
    s.pastAcquires m.ctx m.id &&
    (match m.wslot? with
      | none => true
      | some w => s.flights.all (fun f => !(Party.clusterKey f.party == ck &&
          f.wslot?.any (fun x => x.1 == w && (x.2 || decide (f.id < m.id))))))

/-- The head command of a core that has not run, if it is ready. -/
def State.headReady (s : State) (k : Nat) : Option MatCmd :=
  match (s.coreAt k).mq.find? (fun m => !m.done) with
  | some m => if !m.held && s.cmdReady k m then some m else none
  | none => none

/-- NextCore (11 R152): the position chosen, and p and left after the choice; the unit of a halted die starts no
command (23 R328). -/
def State.nextCore (s : State) (ck : Nat) : Option (Nat × Nat × Nat) :=
  if (s.dieAt (ck / 32)).halted then none else
  let c := s.clusterAt ck
  let cores := clusterCores ck
  let ready (j : Nat) : Bool := (s.headReady (nth cores j 0)).isSome
  if ready c.muPos && decide (0 < c.muLeft) then some (c.muPos, c.muPos, c.muLeft - 1)
  else
    ((List.range 8).map (fun i => (c.muPos + i + 1) % 8)).find? ready |>.map (fun j =>
      (j, j, (s.coreAt (nth cores j 0)).mweight - 1))

/-- A poisoned granule or scale byte that a block meets (11 Table 11.16). -/
structure Hold where
  addr : Nat
  row : Nat
  scale : Bool
  sideB : Bool
  deriving DecidableEq, Repr

/-- The first poisoned granule of [a, a + n) among those of g: its first byte within the range, cut to the granule. -/
def firstPoison (g : List Nat) (a n : Nat) : Option Nat := ((granulesOf a n).find? (fun x => g.contains x)).map (· * 16)

/-- A poisoned granule of A, or of a source read as B, in a block. -/
def State.holdA (s : State) (m : MatCmd) (fa : Fmt) (blk : Nat) : Option Hold :=
  let w := 4 * fa.bits
  let sideB := match m.form with
    | .mtrans _ => true
    | _ => false
  (List.range 32).findSome? (fun i =>
    match m.a with
    | some (.sram b) =>
      (firstPoison s.sramPoison (b + 128 * i + w * blk) w).map (fun g => ⟨m.ga + (g - b), i, false, sideB⟩)
    | _ =>
      match m.aRows[i]? with
      | some (_, some a) => some ⟨a, i, false, false⟩
      | _ => none)

/-- The record whose WLOAD last filled a granule, of a list in order. -/
def lastFill (recs : List WRec) (off : Nat) : Option WRec :=
  recs.reverse.find? (fun r => decide (woff r.gb.toNat ≤ off) && decide (off < woff r.gb.toNat + wlen r.gb.toNat))

/-- The source address of a granule of a weight slot: by the slot's records of loads that are over, or by those that the
command found at its issue where a later load, not yet performed, has replaced them (11 R168). -/
def State.sourceOf (s : State) (ck w : Nat) (m : MatCmd) (off : Nat) : Nat :=
  let ended := (vget (s.clusterAt ck).wslots w WSlot.reset).recs.filter (fun r => (s.flight? r.op).isNone)
  match (lastFill ended off).orElse (fun _ => lastFill m.recs off) with
  | some r => (r.ga.toNat + (off - woff r.gb.toNat)) % 2 ^ 64
  | none => 0

/-- A poisoned granule of B in a block. -/
def State.holdB (s : State) (ck : Nat) (m : MatCmd) (fb : Fmt) (blk : Nat) : Option Hold :=
  match m.wslot? with
  | none => none
  | some w =>
    let base := weightBase ck w
    let t := bits m.gb 11 4 * (tileBytes m.code fb).getD 0
    (List.range 32).findSome? (fun j =>
      ((tileRanges m.code fb j blk).filterMap (fun r => firstPoison s.wmemPoison (base + t + r.1) r.2)).head?.map (fun g =>
        ⟨s.sourceOf ck w m (g - base), j, false, true⟩))

/-- The scale bytes of a block, by row or column: none where a byte is poisoned. -/
def State.readScales (s : State) (p : Party) (m : MatCmd) (code base nb blk : Nat) :
    List (Nat × Option ScaleVal) × State :=
  if code == 0 then ((List.range 32).map (fun _ => (0, some (.val 1 0))), s)
  else
    let f : Flight := ⟨m.id, p, m.ctx, .load (.tile 0), [], .rlx, .pkg, m.dom, m.rev, false, m.iaddr, false⟩
    (List.range 32).foldl (fun o i =>
      let a := base + i * nb + blk
      match o.2.readPart f (mkPart a (.va a) 1 0) with
      | (.ok v, s) => (o.1 ++ [(a, some (readScale code v))], s)
      | (.error _, s) => (o.1 ++ [(a, none)], s)) ([], s)

/-- The first poisoned scale byte. -/
def holdScale (l : List (Nat × Option ScaleVal)) (sideB : Bool) : Option Hold :=
  (List.range 32).findSome? (fun i =>
    match l[i]? with
    | some (a, none) => some ⟨a, i, true, sideB⟩
    | _ => none)

def scaleAt (l : List (Nat × Option ScaleVal)) (i : Nat) : ScaleVal := ((l[i]?).bind (·.2)).getD (.val 1 0)

/-- The A rows of a command. -/
def State.cmdRows (s : State) (m : MatCmd) : List Row :=
  match m.a with
  | some (.sram b) => (List.range 32).map (fun i => BitVec.ofNat 1024 (s.readSram (b + 128 * i) 128))
  | _ => m.aRows.map (·.1)

/-- The products of an output element in a block, by patterns of the A format and the B format; a product with a
constant 0 is absent, and a constant 1 is left out as none (11 R161, R163). -/
def cmdTerms (form : MatForm) (a b : List (List Nat)) (blk i j : Nat) : List (Nat × Option Nat) :=
  match form with
  | .mma | .mmas => ((nth a i []).zip (nth b j [])).map (fun t => (t.1, some t.2))
  | .mtrans g => if g == blk then [(nth (nth a j []) i 0, none)] else []
  | .mperm p =>
    let k := nth p j 0
    if k / 32 == blk then [(nth (nth a i []) (k % 32) 0, none)] else []
  | .mrsum => (nth a i []).map (fun x => (x, none))

/-- One output element after a block. -/
def cmdStep (fa fb : Fmt) (acc : Nat) (ts : List (Nat × Option Nat)) (sa sb : ScaleVal) : Nat × Counts :=
  if ts.isEmpty then (acc, [])
  else if fa == .int8 then
    intStep acc (ts.foldl (fun v t => v + intElem fa t.1 * ((t.2.map (intElem fb)).getD 1)) 0)
  else
    fpStep acc (contribution (ts.map (fun t => (Fmt.read fa t.1, (t.2.map (Fmt.read fb)).getD (.fin false 1 0)))) sa sb)

/-- The accumulator after a block, with the counts. -/
def blockStep (form : MatForm) (fa fb : Fmt) (a b : List (List Nat)) (sa sb : Nat → ScaleVal) (blk : Nat)
    (acc : List (List Nat)) : List (List Nat) × Counts :=
  let rows := (List.range 32).map (fun i =>
    (List.range 32).map (fun j => cmdStep fa fb (nth (nth acc i []) j 0) (cmdTerms form a b blk i j) (sa i) (sb j)))
  (rows.map (fun r => r.map (·.1)), rows.flatMap (fun r => r.flatMap (·.2)))

/-- Adds counts to sixteen counters. -/
def addCounts (l : List Nat) (cs : Counts) : List Nat := cs.foldl (fun l n => setNth l n (nth l n 0 + 1)) l

/-- How the run of a command ends: its accumulator, its counts, and the block and granule that hold it. -/
structure MatRun where
  acc : List (List Nat)
  counts : List Nat
  hold : Option (Nat × Hold)

/-- Runs the blocks of a command in order. -/
def State.runBlocks (s : State) (p : Party) (m : MatCmd) (fa fb : Fmt) : List Nat → MatRun → MatRun × State
  | [], r => (r, s)
  | blk :: rest, r =>
    let ck := Party.clusterKey p
    let nb := kOf fa / 32
    let mmas := m.form == .mmas
    match s.readScales p m (scaleCode mmas fa m.fmta) (m.scla + bits m.gb 31 16 * 32 * nb) nb blk with
    | (sa, s) =>
      match s.readScales p m (scaleCode mmas fb m.fmtb) (m.sclb + bits m.gb 47 32 * 32 * nb) nb blk with
      | (sb, s) =>
        let hold := (s.holdA m fa blk).orElse (fun _ => (s.holdB ck m fb blk).orElse (fun _ =>
          (holdScale sa false).orElse (fun _ => holdScale sb true)))
        match hold with
        | some h => ({ r with hold := some (blk, h) }, s)
        | none =>
          let a := (s.cmdRows m).map (fun row => rowBlock fa row blk)
          let b := match m.wslot? with
            | none => []
            | some w =>
              let n := (tileBytes m.code fb).getD 0
              let tile := Memory.readN s.wmem (weightBase ck w + bits m.gb 11 4 * n) n
              (List.range 32).map (fun j => decodeBlock m.code fb tile j blk)
          let step := blockStep m.form fa fb a (b.map (·.1)) (scaleAt sa) (scaleAt sb) blk r.acc
          s.runBlocks p m fa fb rest
            { r with acc := step.1, counts := addCounts r.counts (step.2 ++ b.flatMap (·.2)) }

/-- The rows of a tile as an accumulator, and back. -/
def accOf (t : Tile) : List (List Nat) :=
  t.rows.toList.map (fun r => (List.range 32).map (fun j => r.data.toNat / 2 ^ (32 * j) % 2 ^ 32))

def Tile.putAcc (t : Tile) (acc : List (List Nat)) : Tile :=
  { t with rows := Vector.ofFn (fun (i : Fin 32) =>
      { t.rows[i] with data := BitVec.ofNat 1024 ((nth acc i.val []).foldr (fun v a => v % 2 ^ 32 + 2 ^ 32 * a) 0) }) }

/-- MFAULT of a held command (11 Table 11.16). -/
def mfaultWord (h : Hold) (tile blk : Nat) : Nat :=
  blk % 8 + tile % 8 * 2 ^ 6 + b2n h.sideB * 2 ^ 9 + b2n h.scale * 2 ^ 10 + h.row % 32 * 2 ^ 11 + 2 ^ 62 + 2 ^ 63

/-- Holds a command at a block: MFAULT is set and its slot owes a trap; the command of a thread that has quit is
discarded (11 R168; 09 R123). -/
def State.holdCmd (s : State) (p : Party) (m : MatCmd) (blk : Nat) (h : Hold) : State :=
  let c : CoreSt := s.core p
  let s : State := s.setCore p
    { c with mq := c.mq.map (fun x =>
        if x.id == m.id then { x with held := true, heldAt := h.addr, block := blk, zero := false, resumed := false } else x) }
  match s.thread? p with
  | none => s
  | some t =>
    if t.quitting then s.discardQuit p t
    else
      s.setThread p { t with
        mfault := w64 (mfaultWord h m.tile blk)
        owed := t.owed ++ [⟨0x0B, w64 h.addr, w64 m.iaddr⟩] }

/-- The operand formats of a command. -/
def MatCmd.formats (m : MatCmd) : Fmt × Fmt :=
  let r := match m.form with
    | .mma | .mmas => pairOf m.fmta m.fmtb
    | _ => pairOf m.fmta m.fmta
  match r with
  | some (a, b, _, _) => (a, b)
  | none => (.bf16, .bf16)

/-- Runs one command: all its blocks, or those up to the one that holds it. -/
def State.runCmd (s : State) (k : Nat) (m : MatCmd) : State :=
  let p : Party := ⟨k / 256, k % 256, m.slot⟩
  let (fa, fb) := m.formats
  let tile : Tile := vget (s.core p).tiles m.tile Tile.reset
  let acc0 := if m.zero then List.replicate 32 (List.replicate 32 0) else accOf tile
  let blocks := (List.range (kOf fa / 32)).filter (fun b => decide (m.block ≤ b))
  match s.runBlocks p m fa fb blocks ⟨acc0, m.counts, none⟩ with
  | (r, s) =>
    let c : CoreSt := s.core p
    let s : State := s.setCore p { c with
      tiles := vmod c.tiles m.tile (fun t => t.putAcc r.acc)
      mq := c.mq.map (fun x => if x.id == m.id then { x with counts := r.counts, done := r.hold.isNone } else x) }
    match r.hold with
    | some (blk, h) => s.holdCmd p m blk h
    | none =>
      let cl := s.cluster p
      s.setCluster p { cl with muRun := cl.muRun ++ [(k, m.id)] }

/-- MATRIX_COMMAND_START. -/
def State.matStart (s : State) (ck : Nat) : State :=
  match s.nextCore ck with
  | none => s
  | some (j, pos, left) =>
    let k := nth (clusterCores ck) j 0
    match s.headReady k with
    | none => s
    | some m =>
      let cl := s.clusterAt ck
      (s.setClusterAt ck { cl with muPos := pos, muLeft := left }).runCmd k m

def execMatrixCommandStart (die cluster : Nat) (s : State) : Host.Outcome State Fault Refusal :=
  event (fun s => s.matStart (die * 32 + cluster)) s

/-- MATRIX_COMMAND_COMPLETE: the oldest command that has run fills its rows and counts (11 R153). -/
def State.matDone (s : State) (ck : Nat) : State :=
  let cl := s.clusterAt ck
  match cl.muRun with
  | [] => s
  | (k, id) :: rest =>
    let s : State := s.setClusterAt ck { cl with muRun := rest }
    let c := s.coreAt k
    match c.mq.find? (fun m => m.id == id) with
    | none => s
    | some m =>
      let c : CoreSt := { c.fillRows m with
        mq := c.mq.filter (fun x => x.id != id)
        ev := Vector.ofFn (fun (i : Fin 16) => satAdd32 c.ev[i] (nth m.counts i.val 0)) }
      let s : State := s.setCoreAt k c
      if m.resumed then s.mapThread ⟨k / 256, k % 256, m.slot⟩ (fun t =>
        if t.ctx == m.ctx then { t with mfault := wset t.mfault 63 false } else t)
      else s

def execMatrixCommandComplete (die cluster : Nat) (s : State) : Host.Outcome State Fault Refusal :=
  event (fun s => s.matDone (die * 32 + cluster)) s

/-- Whether every matrix command, WLOAD and MLOAD of a context has completed (11 R168). -/
def State.matrixIdle (s : State) (p : Party) (ctx : Nat) : Bool :=
  !(s.core p).mq.any (fun m => m.ctx == ctx) &&
    s.flights.all (fun f => !(f.ctx == ctx &&
      (match f.kind with
        | .wload .. | .load (.tile _) => true
        | _ => false)))

def effMwait (s : State) : Eff :=
  if s.matrixIdle s.cur s.me.ctx then .ok s else .error (.parkAfter .matrixDone s)

def execMwait (s : State) : Host.Outcome State Fault Refusal := run effMwait s

/-! ### MLOAD and MSTORE (11 R165 to R167) -/

/-- Whether a tile transfer descriptor is well formed (11 Table 11.15). -/
def mdescOk (y : Nat) (store : Bool) : Bool :=
  let conv := bit y 28
  let f := bits y 27 24
  bits y 63 33 == 0 && bits y 23 0 % 16 == 0 &&
    (if store then
      bits y 23 0 != 0 && (decide (f ≤ 5) || (decide (7 ≤ f) && decide (f ≤ 9))) && decide (bits y 31 29 ≤ 4) &&
        (conv || (bits y 31 29 == 0 && !bit y 32))
    else !conv && f == 0 && bits y 31 29 == 0 && !bit y 32)

/-- The traps of cause 0x0B of a tile transfer; the manual states no EADDR or EINFO for them (DESIGN CHOICE: log 21). -/
def State.checkTransfer (s : State) (ga : Word) (y n : Nat) (store : Bool) : Except Stop Unit :=
  let a := ga.toNat
  let past := isLocal a && decide (65536 < bits a 15 0 + 31 * bits y 23 0 + n)
  if !mdescOk y store || a % 16 != 0 || past then s.openTrap 0x0B else .ok ()

/-- The checks of the 32 rows: their places. -/
def State.checkTileRows (addr stride n need : Nat) : List Nat → State → Except Stop (List (Nat × Loc) × State)
  | [], s => .ok ([], s)
  | r :: rest, s => do
    let a := (addr + r * stride) % 2 ^ 64
    let (l, s) ← s.checkAccess a n 16 need
    let (ls, s) ← State.checkTileRows addr stride n need rest s
    pure ((a, l) :: ls, s)

/-- The weir checks of the rows. -/
def State.weirRows (s : State) (n : Nat) (write : Bool) (ls : List (Nat × Loc)) : Except Stop Unit := weirLanes n write s ls

/-- The parts of a row transfer, which no L1 line serves and which is always translated (15 R198). -/
def wideParts (addr : Nat) (l : Loc) (n v : Nat) : List Part :=
  (storeRowParts addr l n v).map (fun p => { p with wide := true })

def effMload (o : Ordering) (sc : Scope) (t : Reg8) (a b : Reg) (s : State) : Eff := do
  let (ga, gb, s) ← s.read2 a b
  s.checkTag t.val
  let y := gb.toNat
  s.checkTransfer ga y 128 false
  let (ls, s) ← State.checkTileRows ga.toNat (bits y 23 0) 128 needR (List.range 32) s
  s.weirRows 128 false ls
  s.checkRows t.val
  let s : State := s.tagTile t.val
  let id := s.nextOp
  let tile := s.tileNow t.val
  let ps := ls.flatMap (fun e => wideParts e.1 e.2 128 0)
  let s : State := s.addEv (Party.coreKey s.cur) evL1miss (missCount ps)
  let s : State := s.setTile t.val { tile with rows := tile.rows.map (fun r => { r with fill := .empty id }) }
  pure (s.launchFlight (.load (.tile t.val)) ps o sc)

def execMload (o : Ordering) (sc : Scope) (t : Reg8) (a b : Reg) (s : State) : Host.Outcome State Fault Refusal :=
  run (effMload o sc t a b) s

/-- MLOAD_ROW_ARRIVAL: a row of an MLOAD arrives (11 R166). -/
def State.mloadRow (s : State) (op r : Nat) : State :=
  match s.flight? op with
  | none => s
  | some f =>
    match f.kind with
    | .load (.tile t) =>
      let s : State := (List.range 8).foldl (fun s i =>
        match s.flight? op with
        | some f => s.loadArrive f (.tile t) (8 * r + i)
        | none => s) s
      match s.flight? op with
      | none => s
      | some f =>
        let s : State := s.deliverTileRow f t r
        if f.finished then s.dropFlight op else s
    | _ => s

def execMloadRowArrival (op part : Nat) (s : State) : Host.Outcome State Fault Refusal :=
  event (fun s => s.mloadRow op part) s

/-- The oldest poisoned row of a tile (15 R200). -/
def Tile.oldestPoison (t : Tile) : Option Poison :=
  (List.range 32).foldl (fun o r =>
    match (vget t.rows r ⟨0, .full⟩).fill with
    | .poison x => olderPoison o (.ofReplay x true r)
    | _ => o) none

/-- The rows as MSTORE writes them, with the draws and counts of a conversion. -/
def State.convertRows (s : State) (tile : Tile) (y : Nat) : List Nat × State :=
  let f := (fmtOfCode (bits y 27 24)).getD .fp32
  let m : Rounding := nth [.rne, .rtz, .rdn, .rup, .sr] (bits y 31 29) .rne
  let sat : Sat := if bit y 32 then .wrap else .sat
  let e := Fmt.bits tile.typ
  tile.rows.toList.foldl (fun o row =>
    let vs := (List.range (1024 / e)).foldl (fun (p : List Nat × Counts × State) i =>
      match p.2.2.drawFor m with
      | (r, s) =>
        let c := convert tile.typ f m sat r (lane e row.data i)
        (p.1 ++ [c.1], p.2.1 ++ c.2, s)) ([], [], o.2)
    (o.1 ++ [packLanes f.bits vs.1], vs.2.2.count vs.2.1)) ([], s)

/-- MSTORE. A poisoned row traps before the checks of protection and of the weir, whose order with it the manual does not give
(DESIGN CHOICE: log 117). -/
def effMstore (o : Ordering) (sc : Scope) (t : Reg8) (a b : Reg) (s : State) : Eff := do
  s.checkOrd o
  let (ga, gb, s) ← s.read2 a b
  s.checkTag t.val
  let y := gb.toNat
  let tile := s.tileNow t.val
  let n := if bit y 28 then 128 * Fmt.bits ((fmtOfCode (bits y 27 24)).getD .fp32) / Fmt.bits tile.typ else 128
  s.checkTransfer ga y n true
  match tile.oldestPoison with
  | some p => s.poisonTrap p none
  | none => pure ()
  let (ls, s) ← State.checkTileRows ga.toNat (bits y 23 0) n needW (List.range 32) s
  s.weirRows n true ls
  s.checkRows t.val
  let s : State := s.tagTile t.val
  let (vs, s) := if bit y 28 then s.convertRows tile y else (tile.rows.toList.map (fun r => r.data.toNat), s)
  let ps := (ls.zip vs).flatMap (fun e => wideParts e.1.1 e.1.2 n e.2)
  pure ((s.publish o sc).launchFlight .store ps o sc)

def execMstore (o : Ordering) (sc : Scope) (t : Reg8) (a b : Reg) (s : State) : Host.Outcome State Fault Refusal :=
  run (effMstore o sc t a b) s

end Sys2Proof.Machine
end

