-- ==== Sys2Proof/Machine/Polders.lean ====
section
/-! DEFINITION. Polder instructions and the events of the attach tables (13 R171 to R186). -/

namespace Sys2Proof.Machine

/-! ### Operands -/

/-- A trap of cause 0x05: EADDR the register operand at fault, EINFO 0 (13 R175). -/
def polderTrap (x : Word) : Except Stop α := trap 0x05 x 0

/-- A trap of cause 0x04 or 0x06 of a window: EADDR the operand at fault, EINFO the window (13 R175). -/
def windowTrap (cause : Nat) (x : Word) (w : Nat) : Except Stop α := trap cause x (w64 w)

/-- The polder that a name names, as a number over the package; p0 to p7 where `home` (13 R176, Table 13.4). -/
def State.polderNamed (s : State) (p : Party) (x : Nat) (home : Bool) : Option Nat :=
  if bits x 63 9 != 0 || (!home && decide (x % 64 < 8)) then none
  else (s.clusterToward (Party.clusterKey p) (bits x 8 6)).map (fun c => polderNo c (x % 64))

/-- The checks of DETACH on the window that ga names: the window and its entry (13 R178). -/
def State.heldWindow (s : State) (x : Word) : Except Stop (Nat × Window) :=
  let w := x.toNat % 64
  match s.window? s.cur w with
  | none => windowTrap 0x04 x w
  | some v =>
    if bits x.toNat 63 6 != 0 || w == 0 || v.st != .opened then windowTrap 0x04 x w
    else if v.pin.isSome && v.pin != some s.cur.slot then windowTrap 0x04 x w
    else if v.dom != s.src.dom || v.holder != s.src.unit then windowTrap 0x06 x w
    else .ok (w, v)

/-- Whether a core of the die may be a target: present, in the partition of the thread, in reach of the polder
(13 R172, R179). -/
def State.reachable (s : State) (n core : Nat) : Bool :=
  let d := s.cur.die
  s.corePresent d core && s.inPartition s.cur s.src d core &&
    (s.directionTo (n / 64) (d * 32 + Config.clusterOf core)).isSome

/-- The first stream of any slot of a core whose buffer stands in a polder. Of the contexts that are saved the rule says
nothing: those of the core's slots count (13 R179; DESIGN CHOICE: log 120). -/
def State.bufferIn (s : State) (p : Party) (n : Nat) : Option Nat :=
  s.contexts.findSome? (fun e =>
    if e.1.die == p.die && e.1.core == p.core then
      (List.range 8).find? (fun k => (e.2.stream? k).any (fun x => inPolder n (.sram x.buf) (128 * x.depth)))
    else none)

/-- An attach entry as a word (13 Table 13.2). -/
def Attach.word (e : Attach) : Nat :=
  let st := match e.st with
    | .detached => 0
    | .attached => 1
    | .handing => 2
    | .quarantined => 3
  e.count % 2 ^ 32 + e.dom % 128 * 2 ^ 32 + e.koff % 8 * 2 ^ 39 + e.keeper % 8 * 2 ^ 42 + e.pslot % 16 * 2 ^ 45 +
    b2n e.pinv * 2 ^ 49 + e.ooff % 8 * 2 ^ 50 + e.owner % 8 * 2 ^ 53 + e.window % 64 * 2 ^ 56 + st * 2 ^ 62

/-- Offset code from a polder's cluster to a core's (13 Table 13.2). -/
def offTo (n : Nat) (p : Party) : Nat := bearing (n / 64) (Party.clusterKey p)

/-! ### ATTACH (13 R177) -/

def effAttach (d a b : Reg) (s : State) : Eff := do
  let (x, y, s) ← s.read2 a b
  let w := y.toNat % 64
  if bits y.toNat 63 7 != 0 || w == 0 || (s.window? s.cur w).isSome then windowTrap 0x04 y w
  match s.polderNamed s.cur x.toNat false with
  | none => polderTrap x
  | some n =>
    s.checkAsync d
    let s : State := s.setWindow s.cur w (some ⟨.pending, n, s.src.dom, 0, none⟩)
    pure ((s.emptyG d).launchFlight (.status (.attach n w (wbit y 6) s.src.unit) d.val) [] .rlx .clu)

def execAttach (d a b : Reg) (s : State) : Host.Outcome State Fault Refusal := run (effAttach d a b) s

/-- ATTACH_PERFORM: the attach table performs an ATTACH (13 R174, R177). -/
def State.attachPerform (s : State) (op : Nat) : State :=
  match s.flight? op with
  | none => s
  | some f =>
    match f.kind with
    | .status (.attach n w pin u) d =>
      let e := s.attachOf n
      if e.st != .detached then (s.setWindow f.party w none).statusArrive f d (.val 2)
      else
        let z := e.dom != f.dom
        let s : State := if z then s.zeroSram (polderBase n) 65536 else s
        let off := offTo n f.party
        let pos := Config.posOf f.party.core
        let s : State := s.setAttach n ⟨.attached, w, pos, off, pin, f.party.slot, pos, off, f.dom, e.count⟩
        let s : State := s.setWindow f.party w
          (some ⟨.opened, n, f.dom, u, if pin then some f.party.slot else none⟩)
        s.statusArrive f d (.val (w64 (b2n z)))
    | _ => s

def execAttachPerform (op : Nat) (s : State) : Host.Outcome State Fault Refusal :=
  event (fun s => s.attachPerform op) s

/-! ### DETACH (13 R178) -/

def effDetach (a : Reg) (s : State) : Eff := do
  s.checkRelease
  let (x, s) ← s.readG a
  let (w, v) ← s.heldWindow x
  let s : State := s.setWindow s.cur w (some { v with st := .closed })
  pure (s.launchFlight (.detach w v.polder) [] .rlx .clu)

def execDetach (a : Reg) (s : State) : Host.Outcome State Fault Refusal := run (effDetach a) s

/-- DETACH_FLIP, once every earlier access to the polder is complete. -/
def State.detachFlip (s : State) (op : Nat) : State :=
  match s.flight? op with
  | none => s
  | some f =>
    match f.kind with
    | .detach w n =>
      if s.polderIdle f.party n op then
        let s : State := s.setAttach n { s.attachOf n with st := .detached, window := 0, pinv := false }
        (s.setWindow f.party w none).dropFlight op
      else s
    | _ => s

def execDetachFlip (op : Nat) (s : State) : Host.Outcome State Fault Refusal := event (fun s => s.detachFlip op) s

/-! ### HAND and arrivals (13 R179, R180) -/

def effHand (a b : Reg) (s : State) : Eff := do
  s.checkRelease
  let (x, s) ← s.readG a
  let (y, s) ← s.readG b
  let (w, v) ← s.heldWindow x
  let target := y.toNat % 256
  let pin := wbit y 12
  let slot := bits y.toNat 11 8
  if bits y.toNat 63 24 != 0 || bits y.toNat 15 13 != 0 || (!pin && slot != 0) || !s.reachable v.polder target then
    polderTrap y
  match s.bufferIn s.cur v.polder with
  | some k => streamTrap k 2
  | none =>
    let s : State := s.setWindow s.cur w (some { v with st := .closed })
    pure (s.launchFlight (.hand w v.polder target (bits y.toNat 23 16) (if pin then some slot else none) none) [] .rlx .clu)

def execHand (a b : Reg) (s : State) : Host.Outcome State Fault Refusal := run (effHand a b) s

/-- The places that flips hold, of those that wait for an arrival queue, in the order in which the attach tables asked
(13 R180). -/
def State.handsAsked (s : State) (die target : Nat) : List Nat :=
  s.flights.filterMap (fun e =>
    match e.kind with
    | .hand _ _ t _ _ asked => if t == target && e.party.die == die then asked else none
    | _ => none)

/-- HAND_FLIP: the polder goes to the target's arrival queue. A flip that finds the queue full, or others waiting for it,
takes its place behind them. -/
def State.handFlip (s : State) (op : Nat) : State :=
  match s.flight? op with
  | none => s
  | some f =>
    match f.kind with
    | .hand w n target tag pin asked =>
      let q : Party := ⟨f.party.die, target, 0⟩
      let c : CoreSt := s.core q
      let waits := s.handsAsked f.party.die target
      let behind := waits.any (fun m => asked.all (fun k => decide (m < k)))
      if !s.polderIdle f.party n op then s
      else if decide (16 ≤ c.arrivals.length) || behind then
        if asked.isSome then s
        else s.setFlight { f with kind := .hand w n target tag pin (some (waits.foldl (fun a m => Nat.max a (m + 1)) 0)) }
      else
        let e := s.attachOf n
        let s : State := s.setAttach n
          { e with
            st := .handing
            window := 0
            owner := Config.posOf target
            ooff := offTo n q
            pinv := pin.isSome
            pslot := pin.getD 0
            count := (e.count + 1) % 2 ^ 32 }
        let s : State := s.setCore q { c with arrivals := c.arrivals ++ [⟨n, tag, f.party.core, pin, e.dom, false, op⟩] }
        (s.setWindow f.party w none).dropFlight op
    | _ => s

def execHandFlip (op : Nat) (s : State) : Host.Outcome State Fault Refusal := event (fun s => s.handFlip op) s

/-- POLDER_ARRIVAL: a queued arrival becomes visible at its core and wakes the slots that wait (13 R181, R186). -/
def State.polderArrival (s : State) (op : Nat) : State :=
  { s with
    cores := s.cores.map (fun e =>
      if e.2.arrivals.any (fun a => a.op == op && !a.seen) then
        (e.1,
          { e.2 with
            arrivals := e.2.arrivals.map (fun a => if a.op == op then { a with seen := true } else a)
            arrivalCount := e.2.arrivalCount + 1 })
      else e) }

def execPolderArrival (op : Nat) (s : State) : Host.Outcome State Fault Refusal :=
  event (fun s => s.polderArrival op) s

/-! ### PWAIT (13 R181) -/

/-- Whether an arrival matches a filter. -/
def State.matches (s : State) (y : Nat) (a : Arrival) : Bool :=
  a.seen && a.dom == s.src.dom && (bit y 8 || a.tag == y % 256) && (a.pin.isNone || a.pin == some s.cur.slot)

def effPwait (d a b : Reg) (s : State) : Eff := do
  let (x, y, s) ← s.read2 a b
  let w := x.toNat % 64
  if bits x.toNat 63 6 != 0 || bits y.toNat 63 9 != 0 || w == 0 || (s.window? s.cur w).isSome then windowTrap 0x04 x w
  s.checkDest d
  let c : CoreSt := s.core s.cur
  match c.arrivals.find? (fun v => s.matches y.toNat v) with
  | none => .error (.park (.arrival c.arrivalCount))
  | some v =>
    let s : State := s.setCore s.cur { c with arrivals := c.arrivals.erase v }
    let s : State := s.setAttach v.polder { s.attachOf v.polder with st := .attached, window := w }
    let s : State := s.setWindow s.cur w (some ⟨.opened, v.polder, v.dom, s.src.unit, v.pin⟩)
    pure (s.writeG d (w64 (v.tag + v.sender * 2 ^ 8 + polderName s.cur v.polder % 64 * 2 ^ 16 +
      polderName s.cur v.polder / 64 * 2 ^ 22)))

def execPwait (d a b : Reg) (s : State) : Host.Outcome State Fault Refusal := run (effPwait d a b) s

/-! ### PQUERY (13 R182) -/

/-- The polder that the operand of PQUERY names, or none for an unmapped window. -/
def State.queried (s : State) (x : Word) : Except Stop (Option Nat) :=
  let v := x.toNat
  if bits v 63 10 != 0 then polderTrap x
  else if bit v 9 then
    match s.polderNamed s.cur (v % 512) true with
    | some n => .ok (some n)
    | none => polderTrap x
  else if bits v 8 6 != 0 then polderTrap x
  else if v % 64 == 0 then .ok (some (homePolder s.cur))
  else .ok ((s.window? s.cur (v % 64)).map (·.polder))

def effPquery (d a : Reg) (s : State) : Eff := do
  s.checkPoison [a]
  let (x, s) ← s.readG a
  let o ← s.queried x
  s.checkDest d
  match o with
  | none => pure (s.writeG d 0)
  | some n =>
    let e := s.attachOf n
    let hide := decide (8 ≤ n % 64) && e.st != .detached && e.dom != s.src.dom && !s.src.sup
    pure (s.writeG d (w64 (if hide then bits e.word 63 62 * 2 ^ 62 else e.word)))

def execPquery (d a : Reg) (s : State) : Host.Outcome State Fault Refusal := run (effPquery d a) s

/-! ### PKEEP (13 R183) -/

/-- The core that holds a polder's queued arrival, if the issuing core may reach it. -/
def State.queuedAt (s : State) (n : Nat) : Option Nat :=
  (s.cores.find? (fun e => e.2.arrivals.any (fun a => a.polder == n) &&
    (s.directionTo (Party.clusterKey s.cur) (e.1 / 256 * 32 + Config.clusterOf (e.1 % 256))).isSome)).map (·.1)

/-- The condition and the removal that RELEASE and RECLAIM share: a status other than 0, or the state with the
arrival removed. -/
def State.takeBack (s : State) (n : Nat) : Except Nat State :=
  let e := s.attachOf n
  let at_ := if e.st == .handing then s.queuedAt n else none
  if e.st != .quarantined && at_.isNone then .error 1
  else
    let keeper := (s.keeperOf n e).any (fun k => k.die == s.cur.die && k.core == s.cur.core)
    if !(keeper && e.dom == s.src.dom) && !s.src.sup then .error 2
    else
      match at_ with
      | none => .ok s
      | some ck =>
        let c : CoreSt := s.coreAt ck
        .ok (s.setCoreAt ck { c with arrivals := c.arrivals.filter (fun a => a.polder != n) })

/-- PKEEP SET. The order of its checks of gb's reserved bits, of the window and of the target core is the model's
(DESIGN CHOICE: log 110). -/
def effKeepSet (d : Reg) (x y : Word) (s : State) : Eff := do
  if bits y.toNat 63 10 != 0 then polderTrap y
  let (_, v) ← s.heldWindow x
  let core := y.toNat % 256
  if !s.reachable v.polder core then polderTrap y
  s.checkDest d
  let e := s.attachOf v.polder
  let s : State := s.setAttach v.polder
    { e with keeper := Config.posOf core, koff := offTo v.polder ⟨s.cur.die, core, 0⟩ }
  pure (s.writeG d 0)

/-- PKEEP RELEASE: the reserved bits of gb are checked before the polder that ga names (DESIGN CHOICE: log 110). -/
def effKeepRelease (d : Reg) (x y : Word) (s : State) : Eff := do
  if bits y.toNat 63 10 != 0 || y.toNat % 256 != 0 then polderTrap y
  match s.polderNamed s.cur x.toNat false with
  | none => polderTrap x
  | some n =>
    s.checkDest d
    match s.takeBack n with
    | .error k => pure (s.writeG d (w64 k))
    | .ok s =>
      let s : State := s.setAttach n { s.attachOf n with st := .detached, window := 0, pinv := false }
      pure (s.writeG d 0)

/-- PKEEP RECLAIM: the reserved bits of gb are checked first, then its window, then the polder that ga names (DESIGN CHOICE:
log 110). -/
def effKeepReclaim (d : Reg) (x y : Word) (s : State) : Eff := do
  if bits y.toNat 63 22 != 0 || bits y.toNat 15 10 != 0 || y.toNat % 256 != 0 then polderTrap y
  let w := bits y.toNat 21 16
  if w == 0 || (s.window? s.cur w).isSome then windowTrap 0x04 y w
  match s.polderNamed s.cur x.toNat false with
  | none => polderTrap x
  | some n =>
    s.checkDest d
    match s.takeBack n with
    | .error k => pure (s.writeG d (w64 k))
    | .ok s =>
      let e := s.attachOf n
      let s : State := if e.dom != s.src.dom then s.zeroSram (polderBase n) 65536 else s
      let off := offTo n s.cur
      let pos := Config.posOf s.cur.core
      let s : State := s.setAttach n ⟨.attached, w, pos, off, false, s.cur.slot, pos, off, s.src.dom, e.count⟩
      let s : State := s.setWindow s.cur w (some ⟨.opened, n, s.src.dom, s.src.unit, none⟩)
      pure (s.writeG d 0)

def effPkeep (d a b : Reg) (s : State) : Eff := do
  let (x, y, s) ← s.read2 a b
  match bits y.toNat 9 8 with
  | 0 => effKeepSet d x y s
  | 1 => effKeepRelease d x y s
  | 2 => effKeepReclaim d x y s
  | _ => polderTrap y

def execPkeep (d a b : Reg) (s : State) : Host.Outcome State Fault Refusal := run (effPkeep d a b) s

/-! ### PZERO (13 R184) -/

/-- The window of a PZERO becomes pending once every earlier access to the polder is complete. -/
def State.pzeroPend (s : State) (f : Flight) : State :=
  match f.kind with
  | .pzero w n =>
    match s.window? f.party w with
    | some v =>
      if v.st == .opened && v.polder == n && s.polderIdle f.party n f.id then
        s.setWindow f.party w (some { v with st := .pending })
      else s
    | none => s
  | _ => s

/-- Every PZERO whose earlier accesses are complete makes its window pending. -/
def State.pzeroSweep (s : State) : State :=
  let zs := s.flights.filter (fun f =>
    match f.kind with
    | .pzero .. => true
    | _ => false)
  zs.foldl (fun s f => s.pzeroPend f) s

def effPzero (a : Reg) (s : State) : Eff := do
  s.checkRelease
  let (x, s) ← s.readG a
  let (w, v) ← s.heldWindow x
  pure (s.launchFlight (.pzero w v.polder) [] .rlx .clu).pzeroSweep

def execPzero (a : Reg) (s : State) : Host.Outcome State Fault Refusal := run (effPzero a) s

/-- PZERO_COMPLETE: the polder is zeroed and its window opens again. -/
def State.pzeroComplete (s : State) (op : Nat) : State :=
  match s.flight? op with
  | none => s
  | some f =>
    match f.kind with
    | .pzero w n =>
      if s.polderIdle f.party n op then
        let s : State := s.zeroSram (polderBase n) 65536
        let s : State := match s.window? f.party w with
          | some v => if v.st == .pending && v.polder == n then s.setWindow f.party w (some { v with st := .opened }) else s
          | none => s
        s.dropFlight op
      else s
    | _ => s

def execPzeroComplete (op : Nat) (s : State) : Host.Outcome State Fault Refusal :=
  event (fun s => s.pzeroComplete op) s

end Sys2Proof.Machine
end

