-- ==== Sys2Proof/Machine/Caches.lean ====
section
/-! DEFINITION. Terp registers, harvest, shoot-down and PLB instructions, and the events of the translation buffers,
the PLBs, the caches and the host's accesses (15 R193, R198, R204 to R215, R226 to R231). -/

namespace Sys2Proof.Machine

/-! ### TERP and UNTERP (15 R227, R228) -/

/-- TERP at its register file: the status, and the register set. -/
def State.terpSet (s : State) (f : Flight) (base len : Nat) : Nat × State :=
  let d := s.dieAt f.party.die
  let held := ((List.range 8).filter (fun i => (vget d.terps i none).any (fun t => t.dom == f.dom))).length
  if decide (4 ≤ held) && !f.sup then (0xFFFFFFFFFFFFFFFE, s)
  else
    match (List.range 8).find? (fun i => (vget d.terps i none).isNone) with
    | none => (0xFFFFFFFFFFFFFFFF, s)
    | some i => (i, s.setDie f.party.die { d with terps := vset d.terps i (some ⟨base, len, f.dom, 0, 0⟩) })

/-- TERP. -/
def effTerp (d a b : Reg) (s : State) : Eff := do
  let (x, y, s) ← s.read2 a b
  if bits x.toNat 63 56 != 0 || x.toNat % 256 != 0 then operandTrap x
  if y.toNat % 256 != 0 || decide (y.toNat < 256) || decide (2 ^ 36 < y.toNat) then operandTrap y
  let s ← s.checkGlobal x.toNat y.toNat needR
  s.checkWeir x.toNat (.va x.toNat) y.toNat false
  s.checkAsync d
  pure ((s.emptyG d).launchFlight (.status (.terp x.toNat y.toNat) d.val) [] .rlx .die)

def execTerp (d a b : Reg) (s : State) : Host.Outcome State Fault Refusal := run (effTerp d a b) s

/-- UNTERP on register i: the counts, and the register kept with counts 0 or freed. The counts of a register that is
not set are no value the manual states (DESIGN CHOICE: log 21). -/
def State.unterp (s : State) (i : Nat) (keep : Bool) (d : Reg) : State :=
  let die := s.cur.die
  let x := s.dieAt die
  let r := vget x.terps i none
  let ok := r.any (fun t => t.dom == s.src.dom) || (s.src.sup && r.isSome)
  if !ok && !s.src.sup then s.writeG d (w64 0xFFFFFFFFFFFFFFFF)
  else
    match r with
    | none =>
      let (v, s) := s.fresh
      s.writeG d v
    | some t =>
      let s : State := s.setDie die
        (if keep then { x with terps := vset x.terps i (some { t with hits := 0, missed := 0 }) } else x.freeTerp i)
      s.writeG d (w64 (t.missed * 2 ^ 32 + t.hits))

/-- UNTERP. -/
def effUnterp (d a : Reg) (s : State) : Eff := do
  s.checkPoison [a]
  let (x, s) ← s.readG a
  if bits x.toNat 63 4 != 0 then operandTrap x
  s.checkDest d
  pure (s.unterp (x.toNat % 8) (wbit x 3) d)

def execUnterp (d a : Reg) (s : State) : Host.Outcome State Fault Refusal := run (effUnterp d a) s

/-! ### HARVEST, TLBSD, PLBINV (15 R229 to R231) -/

/-- Whether a translation buffer entry overlaps a range; length 0 stands for every address. -/
def TlbEntry.inRange (e : TlbEntry) (a n : Nat) : Bool := n == 0 || overlap e.vpage e.size a n

/-- Writes the gathered state of the entries that satisfy a test, and keeps them clean or removes them (15 R204). -/
def State.harvestTlb (s : State) (f : TlbEntry → Bool) (drop : Bool) : State :=
  s.clusters.foldl (fun s e =>
    let c := s.clusterAt e.1
    let hit := c.tlb.filter f
    if hit.isEmpty then s
    else
      let s : State := hit.foldl (fun s x => s.writeAD x) s
      s.setClusterAt e.1
        { c with tlb := if drop then c.tlb.filter (fun x => !f x) else c.tlb.map (fun x => if f x then x.clean else x) })
    s

/-- The operands of HARVEST and TLBSD: multiples of 65,536. -/
def rangeOperands (a b : Reg) (s : State) : Except Stop (Nat × Nat × State) := do
  s.needSup
  let (x, y, s) ← s.read2 a b
  if x.toNat % 65536 != 0 then operandTrap x
  if y.toNat % 65536 != 0 then operandTrap y
  pure (x.toNat, y.toNat, s)

/-- HARVEST parks until its writes are performed. -/
def effHarvest (a b : Reg) (s : State) : Eff := do
  let (x, y, s) ← rangeOperands a b s
  .error (.parkAfter (.sys (.harvest x y)) s)

def execHarvest (a b : Reg) (s : State) : Host.Outcome State Fault Refusal := run (effHarvest a b) s

/-- TLBSD parks until the shoot-down is complete. -/
def effTlbsd (a b : Reg) (s : State) : Eff := do
  let (x, y, s) ← rangeOperands a b s
  .error (.parkAfter (.sys (.tlbsd x y)) s)

def execTlbsd (a b : Reg) (s : State) : Host.Outcome State Fault Refusal := run (effTlbsd a b) s

/-- PLBINV parks until every PLB has discarded its entries. -/
def effPlbinv (a : Reg) (s : State) : Eff := do
  s.needSup
  s.checkPoison [a]
  let (x, s) ← s.readG a
  if bits x.toNat 63 8 != 0 then operandTrap x
  .error (.parkAfter (.sys (.plbinv (wbit x 7) (x.toNat % 128))) s)

def execPlbinv (a : Reg) (s : State) : Host.Outcome State Fault Refusal := run (effPlbinv a) s

/-- The system operation that a slot waits for. -/
def State.sysWait (s : State) (p : Party) : Option (Thread × SysOp) :=
  match s.thread? p with
  | none => none
  | some t =>
    match t.park with
    | some ⟨.sys op, true, _, _⟩ => some (t, op)
    | _ => none

/-- HARVEST_COMPLETE. -/
def State.harvestComplete (s : State) (p : Party) : State :=
  match s.sysWait p with
  | some (_, .harvest a n) => (s.harvestTlb (fun e => e.inRange a n) false).endWait p
  | _ => s

def execHarvestComplete (p : Party) (s : State) : Host.Outcome State Fault Refusal :=
  event (fun s => s.harvestComplete p) s

/-- Whether no access still to be performed relies on an L1 line of a range (15 R230, step 4). -/
def State.noneInFlight (s : State) (a n : Nat) : Bool :=
  s.flights.all (fun f => f.parts.all (fun x =>
    !(x.open_ && x.hit.isSome &&
      (match x.loc with
        | .va v => n == 0 || overlap v x.size a n
        | _ => false))))

/-- TLBSD_COMPLETE: its five steps, once the earlier stores of the thread are performed. -/
def State.tlbsdComplete (s : State) (p : Party) : State :=
  match s.sysWait p with
  | some (t, .tlbsd a n) =>
    if s.acked t.ctx && s.noneInFlight a n then
      let s : State := { s with
        cores := s.cores.map (fun e =>
          (e.1, { e.2 with l1 := e.2.l1.filter (fun l => !(n == 0 || overlap (l.line * 64) 64 a n)) })) }
      (s.harvestTlb (fun e => e.inRange a n) true).endWait p
    else s
  | _ => s

def execTlbsdComplete (p : Party) (s : State) : Host.Outcome State Fault Refusal :=
  event (fun s => s.tlbsdComplete p) s

/-- PLBINV_COMPLETE. -/
def State.plbinvComplete (s : State) (p : Party) : State :=
  match s.sysWait p with
  | some (t, .plbinv all dom) =>
    if s.acked t.ctx then
      let s : State := { s with
        cores := s.cores.map (fun e => (e.1, { e.2 with plb := e.2.plb.filter (fun x => !(all || x.dom == dom)) })) }
      s.endWait p
    else s
  | _ => s

def execPlbinvComplete (p : Party) (s : State) : Host.Outcome State Fault Refusal :=
  event (fun s => s.plbinvComplete p) s

/-! ### Events of the PLBs and the translation buffers -/

/-- PLB_FILL: the region of the address that a parked slot waits for enters its core's PLB (15 R193). -/
def State.plbFill (s : State) (p : Party) (addr : Nat) : State :=
  match s.thread? p with
  | none => s
  | some t =>
    match t.park with
    | some ⟨.plb a, _, _, _⟩ =>
      if a != addr then s
      else
        match s.searchRegion t.dom a with
        | .ok e => s.setCore p ((s.core p).plbUse e)
        | .error _ => s
    | _ => s

def execPlbFill (p : Party) (addr : Nat) (s : State) : Host.Outcome State Fault Refusal :=
  event (fun s => s.plbFill p addr) s

/-- Whether an access in flight of a cluster needs the translation of an address in a revision. -/
def State.needsWalk (s : State) (ck addr rev : Nat) : Bool :=
  s.flights.any (fun f => Party.clusterKey f.party == ck && f.rev == rev &&
    f.parts.any (fun x => x.open_ && x.hit.isNone && x.loc == .va addr))

/-- TRANSLATION_WALK: a walk that an access in flight needs ends, and its entry is installed (15 R198). -/
def State.translationWalk (s : State) (ck addr rev : Nat) : State :=
  if !s.needsWalk ck addr rev || ((s.clusterAt ck).tlbFind addr rev).isSome then s
  else
    match s.walk addr with
    | .ok l => s.installTlb ck rev l
    | .error _ => s

def execTranslationWalk (die cluster addr rev : Nat) (s : State) : Host.Outcome State Fault Refusal :=
  event (fun s => s.translationWalk (die * 32 + cluster) addr rev) s

/-- AD_WRITEBACK_TIMEOUT: state gathered for 4,194,304 cycles is written (15 R204). -/
def State.adTimeout (s : State) (ck : Nat) : State :=
  let c := s.clusterAt ck
  let due (e : TlbEntry) : Bool := e.since.any (fun t => decide (t + 4194304 ≤ s.clock (ck / 32)))
  let hit := c.tlb.filter due
  if hit.isEmpty then s
  else
    let s : State := hit.foldl (fun s x => s.writeAD x) s
    s.setClusterAt ck { c with tlb := c.tlb.map (fun x => if due x then x.clean else x) }

def execAdWritebackTimeout (die cluster : Nat) (s : State) : Host.Outcome State Fault Refusal :=
  event (fun s => s.adTimeout (die * 32 + cluster)) s

/-! ### Evictions (15 R207, R208, R215) -/

/-- Marks granules of a line, written through a virtual line, as poisoned in a view; as a write does, it leaves the
children forked from the view what they had (21 R293, R308). -/
def State.poisonView (s : State) (r pl : Nat) (gs : List Nat) (line : Nat) : State :=
  let old := s.lineIn r pl
  let s : State := if s.revs.isEmpty then s else s.keepAncestors r pl old
  match (if r = 0 then none else tget s.revs r) with
  | none => { s with memPoison := s.memPoison ++ (gs.map (· + pl * 4)).filter (fun g => !s.memPoison.contains g) }
  | some x =>
    let poison := gs.foldl (fun m i => Nat.lor m (2 ^ i)) old.poison
    { s with revs := tset s.revs r { x with view := tset x.view pl { old with poison := poison, line := line } } }

/-- L1_EVICTION: a line leaves an L1. Its dirty words return; granules with an uncorrectable error are written as
poisoned and reported to the last writer's domain (15 R215). -/
def State.l1Evict (s : State) (die core line : Nat) (bad : List Nat) : State :=
  let k := die * 256 + core
  let c := s.coreAt k
  let out := c.l1.filter (fun l => l.line == line)
  let s : State := if out.isEmpty then s else s.setCoreAt k { c with l1 := c.l1.filter (fun l => l.line != line) }
  let gs := (bad.map (· % 4)).eraseDups
  out.foldl (fun s l =>
    if l.dirty == 0 || gs.isEmpty then s
    else
      let s : State := s.poisonView (s.lineView l) l.pa gs l.line
      gs.foldl (fun s g => s.postMemError l.writer 0x14 none (some (l.pa * 64 + g * 16))) s) s

def execL1Eviction (die core line : Nat) (bad : List Nat) (s : State) : Host.Outcome State Fault Refusal :=
  event (fun s => s.l1Evict die core line bad) s

/-- L2_EVICTION: where a set has no invalid line, its victim leaves the slice (15 R208). -/
def State.l2Evict (s : State) (pa : Nat) (bad : List Nat) : State :=
  match homeDie pa with
  | none => s
  | some h =>
    let d := s.dieAt h
    let pl := pa / 256
    match tget d.l2 pl with
    | none => s
    | some l =>
      let ls := d.l2.filter (fun e => s.l2SetOf e.1 == s.l2SetOf pl)
      if decide (ls.length < 16) || l2Victim ls != some pl then s
      else
        let s : State := s.setDie h { d with l2 := terase d.l2 pl }
        let gs := (bad.map (· % 16)).eraseDups
        if !l.dirty then s
        else
          gs.foldl (fun s g =>
            (s.poisonPa (pl * 256 + g * 16) 16).postMemError l.writer 0x14 none (some (pl * 256 + g * 16))) s

def execL2Eviction (pa : Nat) (bad : List Nat) (s : State) : Host.Outcome State Fault Refusal :=
  event (fun s => s.l2Evict pa bad) s

/-! ### Accesses of the host and of peers (15 R210) -/

/-- HOST_WRITE: performed at the home slice after the invalidations of R209. -/
def State.hostWrite (s : State) (pa : Nat) (data : List Byte) : State :=
  let n := data.length
  if n == 0 || !s.present pa || !s.present (pa + n - 1) then s
  else
    let v := data.foldr (fun b acc => b.toNat + 256 * acc) 0
    (linePieces pa n).foldl (fun s p =>
      let a := pa + p.1
      let s : State := s.invalidateOthers none (a / 64) 0 false
      s.writeView 0 a p.2 (v / 2 ^ (8 * p.1) % 2 ^ (8 * p.2)) 0) s

def execHostWrite (pa : Nat) (data : List Byte) (s : State) : Host.Outcome State Fault Refusal :=
  event (fun s => s.hostWrite pa data) s

/-- HOST_READ: owned L1 copies are recalled; what is read leaves the device. -/
def State.hostRead (s : State) (pa size : Nat) : State :=
  if size == 0 || !s.present pa then s
  else (linePieces pa size).foldl (fun s p => s.recallShared (12 * 256) ((pa + p.1) / 64) 0 false) s

def execHostRead (pa size : Nat) (s : State) : Host.Outcome State Fault Refusal :=
  event (fun s => s.hostRead pa size) s

end Sys2Proof.Machine
end

