-- ==== Sys2Proof/Machine/Engines.lean ====
section
/-! DEFINITION. Copy engines (19 R271 to R274). -/

namespace Sys2Proof.Machine

/-! ### COPY and XCOPY (19 R271) -/

/-- A copy descriptor (19 Table 19.9). -/
structure CopyDesc where
  dst : Nat
  src : Nat
  len : Nat
  flag : Nat
  ok : Bool

def copyDesc (v : Nat) (x : Bool) : CopyDesc :=
  let w := wordsOf v 4
  let dst := nth w 0 0
  let src := nth w 1 0
  let w2 := nth w 2 0
  let w3 := nth w 3 0
  let lap := isLocal dst == isLocal src && overlap src w2 dst w2
  ⟨dst, src, w2, w3,
    dst % 16 == 0 && src % 16 == 0 && bits w2 63 32 == 0 && w2 % 16 == 0 && w2 != 0 && bits w3 63 56 == 0 &&
      w3 % 4 == 0 && (x || w3 == 0) && !lap⟩

/-- The engine with the fewest queued commands that has room, the lowest-numbered on a tie (19 R272). -/
def State.pickEngine (s : State) (die : Nat) : Option Nat :=
  let d := s.dieAt die
  let len (e : Nat) : Nat := (tgetD d.engines e ⟨[]⟩).queue.length
  let es := List.range (Config.engines die)
  let least := es.foldl (fun m e => Nat.min m (len e)) 16
  if 16 ≤ least then none else es.find? (fun e => len e == least)

/-- The lowest conflicting address of a copy's registration, with its entry (19 R253). -/
def copyConflict (t : Vector (Option Weir) 32) (d src : Loc) (x : CopyDesc) : Option (Nat × Nat) :=
  match weirRegConflict t d x.len true, weirRegConflict t src x.len false with
  | none, none => none
  | some (i, o), none => some (i, x.dst + o)
  | none, some (i, o) => some (i, x.src + o)
  | some (i, o), some (j, q) => if x.dst + o ≤ x.src + q then some (i, x.dst + o) else some (j, x.src + q)

/-- The command of an issuing word. -/
def State.newCopy (s : State) (d src : Loc) (x : CopyDesc) (xc : Bool) (sc : Scope) : Copy :=
  let t := s.src
  { op := s.nextOp, party := s.cur, ctx := t.ctx, dst := d, src := src, dstA := x.dst, srcA := x.src, len := x.len,
    flag := if xc then some x.flag else none, scope := sc, dom := t.dom, rev := t.revNo, iaddr := s.issue.pc.toNat,
    from_ := 0, started := false, stopped := false, moved := [] }

/-- COPY and XCOPY. -/
def effCopy (xc : Bool) (sc : Scope) (d a : Reg) (s : State) : Eff := do
  s.checkRelease
  let (ga, s) ← s.readG a
  let at_ := ga.toNat
  if !isLocal at_ || at_ % 32 != 0 then operandTrap ga
  let (l, s) ← s.checkAccess at_ 32 32 needR
  s.checkPort l 32 false
  let (v, s) := s.readNow l 32
  let x := copyDesc v xc
  if !x.ok then operandTrap ga
  let (src, s) ← s.checkAccess x.src x.len 16 needR
  let (dst, s) ← s.checkAccess x.dst x.len 16 needW
  let s ← (if xc then s.checkGlobal x.flag 4 needW else pure s)
  match copyConflict (s.cluster s.cur).weir dst src x with
  | some (i, addr) => trap 0x08 (w64 addr) (w64 (i * 16 + 3))
  | none =>
    s.checkDest d
    let die := s.cur.die
    match s.pickEngine die with
    | none => pure (s.writeG d 1)
    | some e =>
      match (s.cluster s.cur).weirRegister s.nextOp [(dst, x.len, true), (src, x.len, false)] with
      | .error _ => pure (s.writeG d 2)
      | .ok c =>
        let s : State := s.setCluster s.cur c
        let di := s.dieAt die
        let g := tgetD di.engines e ⟨[]⟩
        let s : State := s.setDie die
          { di with engines := tset di.engines e { g with queue := g.queue ++ [s.newCopy dst src x xc sc] } }
        pure ({ s with nextOp := s.nextOp + 1 }.writeG d 0)

def execCopy (sc : Scope) (d a : Reg) (s : State) : Host.Outcome State Fault Refusal := run (effCopy false sc d a) s

def execXcopy (sc : Scope) (d a : Reg) (s : State) : Host.Outcome State Fault Refusal := run (effCopy true sc d a) s

/-! ### CWAIT (19 R274) -/

/-- Copy commands of a context that have not completed. -/
def State.copiesOf (s : State) (ctx : Nat) : List Nat :=
  s.dies.flatMap (fun e => e.2.engines.flatMap (fun g => (g.2.queue.filter (fun c => c.ctx == ctx)).map (·.op)))

def effCwait (s : State) : Eff :=
  let ops := s.copiesOf s.me.ctx
  if ops.isEmpty then .ok s else .error (.parkAfter (.ops ops) s)

def execCwait (_ : Scope) (s : State) : Host.Outcome State Fault Refusal := run effCwait s

/-! ### The engines (19 R272, R273) -/

/-- The access by which an engine reads and writes for a command. -/
def Copy.flight (c : Copy) : Flight :=
  ⟨c.op, c.party, c.ctx, .load (.tile 0), [], .rlx, .pkg, c.dom, c.rev, false, c.iaddr, false⟩

/-- Writes a granule, or poison, at the destination: none, or the kind of its failure. -/
def State.engineWrite (s : State) (c : Copy) (o : Nat) (v : Option Nat) : Option Nat × State :=
  match c.dst.plus o with
  | .sram i =>
    match v with
    | some v => (none, s.writeSram i 16 v)
    | none => (none, s.poisonSram i 16)
  | .pa _ => (none, s)
  | .va a =>
    match s.translate (Party.clusterKey c.party) a c.rev true (s.launchOf c.party) with
    | (.error k, s) => (some k, s)
    | (.ok x, s) =>
      let s : State := s.l2Touch c.party.die c.dom a x.pa x.attr true
      let rv := s.revisioned c.dom a x.revd x.attr
      let s : State := s.invalidateOthers none (x.pa / 64) c.rev rv
      match v with
      | some v => (none, s.writeVirt c.dom c.rev a x 16 v)
      | none => (none, s.poisonView (if rv then c.rev else 0) (x.pa / 64) [x.pa / 16 % 4] (a / 64))

/-- Moves one granule: none, or the failure's kind and address. -/
def State.moveGranule (s : State) (c : Copy) (o : Nat) : Option (Nat × Nat) × State :=
  match s.readPart c.flight (mkPart (c.srcA + o) (c.src.plus o) 16 0) with
  | (.error 8, s) =>
    match s.engineWrite c o none with
    | (some k, s) => (some (k, c.dstA + o), s)
    | (none, s) => (none, s)
  | (.error k, s) => (some (k, c.srcA + o), s)
  | (.ok v, s) =>
    match s.engineWrite c o (some v) with
    | (some k, s) => (some (k, c.dstA + o), s)
    | (none, s) => (none, s)

/-- Moves granules in the order given; the first failure ends it, with the granules moved. -/
def State.moveGranules (s : State) (c : Copy) : List Nat → List Nat → Option (Nat × Nat × Nat) × List Nat × State
  | [], moved => (none, moved, s)
  | o :: rest, moved =>
    match s.moveGranule c o with
    | (some (k, a), s) => (some (o, k, a), moved, s)
    | (none, s) => s.moveGranules c rest (o :: moved)

/-- Adds 1 to a completion flag as an atomic (19 R272): none, or the kind of its failure. -/
def State.addFlag (s : State) (c : Copy) (a : Nat) : Option Nat × State :=
  match s.atomicAt { c.flight with kind := .atomic .add 1 0 0 } .add 1 0 (mkPart a (.va a) 4 0) with
  | (.ok _, s) => (none, s)
  | (.error k, s) => (some k, s)

/-- An engine of a die, and the command that it may run: the first that has not stopped, once every earlier access of
its thread is over, in its slot or saved, and every store that the thread has read from its core (17 R238, R243); the engines of a halted die start no granule (23 R328). -/
def State.engine (s : State) (die e : Nat) : Engine := tgetD (s.dieAt die).engines e ⟨[]⟩

def State.setEngine (s : State) (die e : Nat) (g : Engine) : State :=
  let d := s.dieAt die
  s.setDie die { d with engines := tset d.engines e g }

def State.runnable (s : State) (die e : Nat) : Option Copy :=
  if (s.dieAt die).halted then none else
  match (s.engine die e).queue.find? (fun c => !c.stopped) with
  | some c =>
    let free (t : Thread) : Bool := t.ctx != c.ctx || t.held.all (fun h => decide (c.op ≤ h.seq))
    let seen (e : Flight) : Bool := decide (e.id < c.op) && e.ctx != c.ctx && e.stores && e.party.die == c.party.die &&
      e.party.core == c.party.core && e.knownTo c.ctx
    if c.started || (s.earlierDone c.ctx c.op true true && !s.flights.any seen && s.contexts.all (fun t => free t.2) &&
        s.saved.all (fun x => free x.thread)) then some c else none
  | none => none

/-- A command stops at an offset: the rest of it is a held store of its thread, or is reported where the thread has
ended (19 R273). -/
def State.stopCopy (s : State) (die e : Nat) (c : Copy) (o k a : Nat) : State :=
  let alive (t : Thread) : Bool := t.ctx == c.ctx && !t.quitting
  if s.contexts.any (fun t => alive t.2) || s.saved.any (fun x => alive x.thread) then
    let g := s.engine die e
    let s : State := s.setEngine die e
      { queue := g.queue.map (fun x =>
          if x.op == c.op then { x with stopped := true, started := true, from_ := o, moved := [] } else x) }
    s.mapCtx c.ctx (fun t => ({ t with held := t.held ++ [⟨.copy c.op o c.iaddr a, k, c.op, 16⟩] } : Thread).oweHeld)
  else
    let g := s.engine die e
    let s : State := s.setEngine die e { queue := g.queue.filter (fun x => x.op != c.op) }
    (s.weirRemove (Party.clusterKey c.party) c.op).postMemError c.dom (if k == 8 then 0x0A else 0x07)
      (some c.party) (some a)

/-- COPY_ENGINE_START: the head command of an engine starts, or goes on, and moves granules named by their number. -/
def State.copyStart (s : State) (die e : Nat) (granules : List Nat) : State :=
  match s.runnable die e with
  | none => s
  | some c =>
    let want := ((granules.map (· * 16)).eraseDups).filter (fun o => decide (c.from_ ≤ o) && decide (o < c.len) && !c.moved.contains o)
    match s.moveGranules c want c.moved with
    | (_, moved, s) =>
      let g := s.engine die e
      s.setEngine die e
        { queue := g.queue.map (fun x => if x.op == c.op then { x with started := true, moved := moved } else x) }

def execCopyEngineStart (die engine : Nat) (granules : List Nat) (s : State) : Host.Outcome State Fault Refusal :=
  event (fun s => s.copyStart die engine granules) s

/-- The granules of a command that are still to be moved, in ascending order. -/
def Copy.left (c : Copy) : List Nat :=
  ((List.range (c.len / 16)).map (· * 16)).filter (fun o => decide (c.from_ ≤ o) && !c.moved.contains o)

/-- COPY_ENGINE_COMPLETE: the granules that are left are moved, the flag is added to, the registration goes. -/
def State.copyFinish (s : State) (die e : Nat) : State :=
  match s.runnable die e with
  | none => s
  | some c =>
    match s.moveGranules c c.left [] with
    | (some (o, k, a), _, s) => s.stopCopy die e c o k a
    | (none, _, s) =>
      let done (s : State) : State :=
        let g := s.engine die e
        (s.setEngine die e { queue := g.queue.filter (fun x => x.op != c.op) }).weirRemove
          (Party.clusterKey c.party) c.op
      match c.flag with
      | none => done s
      | some a =>
        match s.addFlag c a with
        | (none, s) => done s
        | (some k, s) => s.stopCopy die e c c.len k a

def execCopyEngineComplete (die engine : Nat) (s : State) : Host.Outcome State Fault Refusal :=
  event (fun s => s.copyFinish die engine) s

/-- COPY_ENGINE_FAULT: the lowest granule that fails stops the command, those below it moved; where none fails,
nothing happens. -/
def State.copyFault (s : State) (die e : Nat) : State :=
  match s.runnable die e with
  | none => s
  | some c =>
    match s.moveGranules c c.left [] with
    | (some (o, k, a), _, s') => s'.stopCopy die e c o k a
    | (none, _, _) => s

def execCopyEngineFault (die engine : Nat) (s : State) : Host.Outcome State Fault Refusal :=
  event (fun s => s.copyFault die engine) s

end Sys2Proof.Machine
end

