-- ==== Sys2Proof/Machine/Barriers.lean ====
section
/-! DEFINITION. Bobbin barriers, their time-outs and count records (19 R270, R275 to R280; 03 R42). -/

namespace Sys2Proof.Machine

/-! ### Traps of barriers (19 Table 19.10) -/

/-- A barrier trap of cause 0x15; the manual states no EADDR (DESIGN CHOICE: log 21). -/
def State.barTrap (s : State) (n reason : Nat) : Except Stop α := s.openAddrTrap 0x15 (w64 (n * 16 + reason))

/-- The barrier that an instruction of the current slot names. -/
def State.barHere (s : State) (n : Nat) : Barrier := s.barrier s.cur.die n

def State.setBarHere (s : State) (n : Nat) (b : Barrier) : State := s.setBarrier s.cur.die n b

/-- Changes that wait for a completion, or act at once, on the set of members (19 R276). -/
def Barrier.change (b : Barrier) (m : Member) (join : Bool) : Barrier :=
  if join then (if b.member m.ctx then b else { b with members := b.members ++ [m] })
  else { b with members := b.members.filter (fun x => x.ctx != m.ctx) }

/-- The barrier with its pending changes made. -/
def Barrier.changed (b : Barrier) : Barrier := b.changes.foldl (fun x c => x.change c.1 c.2) { b with changes := [] }

/-! ### BARM (19 R275, R276) -/

/-- BARM. A barrier whose members are still to join at the completion is not idle: their domain is its tag (19 R275, R276). -/
def effBarm (a : Reg) (n : Fin 16) (s : State) : Eff := do
  s.checkRelease
  let (x, s) ← s.readG a
  if bits x.toNat 63 1 != 0 then s.barTrap n.val 2
  let b := s.barHere n.val
  let join := wbit x 0
  let idle := b.members.isEmpty && b.changed.members.isEmpty
  if join && !idle && b.dom != s.src.dom then s.openTrap 0x06
  let m : Member := ⟨s.cur, s.src.ctx⟩
  let b : Barrier := if join && idle then { b with dom := s.src.dom } else b
  pure (s.setBarHere n.val (if b.arrived.isEmpty then b.change m join else { b with changes := b.changes ++ [(m, join)] }))

def execBarm (a : Reg) (n : Fin 16) (s : State) : Host.Outcome State Fault Refusal := run (effBarm a n) s

/-! ### Arrival (19 R277) -/

/-- The checks of an arrival: a non-member traps; one whose previous arrival is still to complete parks. -/
def State.checkArrival (s : State) (n : Nat) (again : Bool) : Except Stop Unit :=
  let b := s.barHere n
  if !b.member s.src.ctx then s.barTrap n 3
  else if b.hasArrived s.src.ctx then .error (.park (.barrier n b.phase again))
  else .ok ()

/-- The arrival itself. -/
def State.arrive (s : State) (n : Nat) : State :=
  let b := s.barHere n
  let s : State := s.setBarHere n { b with arrived := b.arrived ++ [(⟨s.cur, s.src.ctx⟩, s.nextOp)] }
  { s.setMe { s.me with arrived := tset s.me.arrived n ⟨s.nextOp, b.phase, none⟩ } with nextOp := s.nextOp + 1 }

def effBara (d : Reg) (n : Fin 16) (s : State) : Eff := do
  s.checkRelease
  s.checkArrival n.val false
  s.checkDest d
  let p := (s.barHere n.val).phase
  pure ((s.arrive n.val).writeG d (w64 p))

def execBara (d : Reg) (n : Fin 16) (s : State) : Host.Outcome State Fault Refusal := run (effBara d n) s

/-! ### BARW and BARR (19 R278) -/

def effBarw (d : Reg) (n : Fin 16) (s : State) : Eff := do
  s.checkRelease
  s.checkAsync d
  match tget s.me.arrived n.val with
  | none => pure (s.writeG d 0)
  | some x =>
    match x.status with
    | some v => pure (s.writeG d (w64 v))
    | none => .error (.parkAfter (.barw n.val x.phase d.val) s)

def execBarw (d : Reg) (n : Fin 16) (s : State) : Host.Outcome State Fault Refusal := run (effBarw d n) s

def effBarr (d : Reg) (n : Fin 16) (s : State) : Eff := do
  s.checkRelease
  s.checkArrival n.val true
  s.checkAsync d
  let p := (s.barHere n.val).phase
  .error (.parkAfter (.barw n.val p d.val) (s.arrive n.val))

def execBarr (d : Reg) (n : Fin 16) (s : State) : Host.Outcome State Fault Refusal := run (effBarr d n) s

/-! ### BTO and CSUM (19 R270, R280) -/

def effBto (pkg : Bool) (a : Reg) (s : State) : Eff := do
  s.checkRelease
  let (x, s) ← s.readG a
  if bits x.toNat 63 32 != 0 then s.barTrap 0 2
  pure (s.setMe (if pkg then { s.me with btoPkg := x.toNat } else { s.me with btoDie := x.toNat }))

def execBto (pkg : Bool) (a : Reg) (s : State) : Host.Outcome State Fault Refusal := run (effBto pkg a) s

def effCsum (a : Reg) (n : Fin 16) (s : State) : Eff := do
  s.checkRelease
  let (x, s) ← s.readG a
  if isLocal x.toNat then operandTrap x
  let (_, s) ← s.checkAccess x.toNat 136 8 needW
  let b := s.barHere n.val
  if !b.member s.src.ctx then s.barTrap n.val 3
  let t := s.src
  let r : CsumRec := ⟨⟨s.cur, t.ctx⟩, x.toNat, t.dom, t.revNo, t.sup, s.issue.pc.toNat, b.phase⟩
  pure (s.setBarHere n.val { b with csums := b.csums ++ [r] })

def execCsum (a : Reg) (n : Fin 16) (s : State) : Host.Outcome State Fault Refusal := run (effCsum a n) s

/-! ### Completion (19 R277 to R280; 03 R42; 19 R286) -/

/-- A context, in its slot or saved. -/
def State.ctxThread (s : State) (ctx : Nat) : Option Thread :=
  match s.findCtx ctx with
  | some e => some e.2
  | none => (s.saved.find? (fun x => x.thread.ctx == ctx)).map (·.thread)

/-- Whether an arrival counts: every earlier access of its thread is over (19 R277). -/
def State.arrivalCounts (s : State) (e : Member × Nat) : Bool :=
  s.earlierDone e.1.ctx e.2 true true &&
    (match s.ctxThread e.1.ctx with
      | some t => t.held.all (fun h => decide (e.2 ≤ h.seq))
      | none => true)

/-- Cores whose members have all arrived, with counting arrivals. -/
def State.coresArrived (s : State) (b : Barrier) : List Nat :=
  let cores := (b.members.map (fun m => Party.coreKey m.party)).eraseDups
  cores.filter (fun k =>
    b.members.all (fun m => Party.coreKey m.party != k ||
      b.arrived.any (fun e => e.1.ctx == m.ctx && s.arrivalCounts e)))

/-- A core's counters are taken at its arrival (19 R280). -/
def State.takeCounts (s : State) (b : Barrier) : Barrier :=
  if b.arrived.isEmpty then b
  else
    { b with counts := (s.coresArrived b).foldl (fun l k =>
        if l.any (fun e => e.1 == k) then l else l ++ [(k, (s.coreAt k).ev.toList)]) b.counts }

/-- Takes the counters of every core that has arrived at a barrier. -/
def State.countSweep (s : State) : State :=
  let s : State := if s.bars.isEmpty then s else { s with bars := s.bars.map (fun e => (e.1, s.takeCounts e.2)) }
  s.dies.foldl (fun s e =>
    if e.2.bars.all (fun b => b.2.arrived.isEmpty) then s
    else
      let d := s.dieAt e.1
      s.setDie e.1 { d with bars := d.bars.map (fun b => (b.1, s.takeCounts b.2)) }) s

/-- The words of a count record: sixteen sums and the number of cores (19 R280). -/
def csumWords (counts : List (Nat × List Nat)) : List Nat :=
  (List.range 16).map (fun i => counts.foldl (fun a e => a + nth e.2 i 0) 0) ++ [counts.length]

/-- The slot of a context, or the slot that a saved context has left. -/
def State.ctxPlace (s : State) (ctx : Nat) : Option Party :=
  match s.findCtx ctx with
  | some e => some e.1
  | none => (s.saved.find? (fun x => x.thread.ctx == ctx)).map (·.party)

/-- Writes a count record; a part that fails is a held store of its thread, which may be saved at the completion. Where the
thread has ended, the record is written all the same, and a part that fails has no thread to hold it. -/
def State.writeCsum (s : State) (r : CsumRec) (ws : List Nat) : State :=
  let p := (s.ctxPlace r.member.ctx).getD r.member.party
  let parts := (List.range 17).map (fun i => mkPart (r.addr + 8 * i) (.va (r.addr + 8 * i)) 8 (nth ws i 0))
  let f : Flight := ⟨s.nextOp, p, r.member.ctx, .store, parts, .rlx, .pkg, r.dom, r.rev, r.sup, r.iaddr, false⟩
  parts.foldl (fun s x =>
    match s.writePart f x with
    | (none, s) => s
    | (some k, s) =>
      if (s.findCtx f.ctx).isSome then s.holdPart f x k
      else s.mapCtx f.ctx (fun t =>
        let first := !t.held.any (fun h => h.seq == f.id)
        let t : Thread := { t with held := t.heldWith f x k (s.heldPage x) }
        if first && decide (16 < t.held.length) then t.oweHeld else t)) { s with nextOp := s.nextOp + 1 }

/-- A thread's last arrival receives its status, and a slot parked in BARW or BARR for it wakes. A saved one takes its
status when it resumes. An earlier arrival, at a die that the thread has left, is not the last one. -/
def State.wakeMember (s : State) (n op status ctx : Nat) : State :=
  let mine (t : Thread) : Option Nat := (tget t.arrived n).bind (fun a => if a.op == op && a.status.isNone then some a.phase else none)
  let set (t : Thread) : Thread :=
    match mine t with
    | some q => { t with arrived := tset t.arrived n ⟨op, q, some status⟩ }
    | none => t
  let waits (t : Thread) : Option Nat :=
    match t.park with
    | some ⟨.barw m _ d, true, _, _⟩ => if m == n && (mine t).isSome then some d else none
    | _ => none
  let found := s.findCtx ctx
  let s : State := { s with
    saved := s.saved.map (fun x =>
      if x.thread.ctx != ctx then x
      else
        match waits x.thread with
        | some d => { x with thread := { x.thread with park := none }, woken := some (d, w64 status) }
        | none => x) }
  let s : State := s.mapCtx ctx set
  match found with
  | none => s
  | some (p, t) =>
    match waits t with
    | some d => (s.mapThread p (fun u => u.putG d (w64 status))).endWait p
    | none => s

/-- The pending SLOTTAB of a core becomes its table (03 R42). -/
def State.activateSlottab (s : State) (k : Nat) : State :=
  let c := s.coreAt k
  match c.slottabNext with
  | some v => s.setCoreAt k { c with slottab := v, slottabNext := none }
  | none => s

/-- The forwarding entries of a token queue last until the next swap, for the tokens resolved before it (19 R286). -/
def State.pruneQueues (s : State) : State :=
  let flying (k gen : Nat) : Bool := s.flights.any (fun f =>
    match f.kind with
    | .token _ w _ _ g => decide (g ≤ gen) && bits w 11 8 * 256 + w % 256 == k
    | _ => false)
  { s with
    cores := s.cores.map (fun e => (e.1,
      { e.2 with fwd := e.2.fwd.filter (fun z =>
          match z with
          | .queue _ gen => decide (s.swaps ≤ gen) || flying e.1 gen
          | _ => true) })) }

/-- A token queue is no longer drained. -/
def Thread.undrain (t : Thread) : Thread :=
  { t with streams := t.streams.map (fun o => o.map (fun x => if x.qid.isSome then { x with drained := false } else x)) }

/-- Every die makes its next bank current, and DRAINED of every token queue is cleared (19 R286). -/
def State.switchBanks (s : State) : State :=
  let s : State :=
    { s with
      swapPending := false
      swaps := s.swaps + 1
      dies := s.dies.map (fun e => (e.1,
        match e.2.bankNext with
        | some b => { e.2 with bank := b, bankNext := none }
        | none => e.2))
      threads := s.threads.map (fun e => (e.1, e.2.undrain))
      saved := s.saved.map (fun x => { x with thread := x.thread.undrain }) }
  s.pruneQueues

/-- Whether a phase is complete: every remaining member has arrived. A phase that has had an arrival or has lost a member
completes when no member remains (DEDUCED: log 96). -/
def State.phaseDone (s : State) (b : Barrier) : Bool :=
  (!b.members.isEmpty || b.lost || !b.arrived.isEmpty) && b.members.all (fun m => b.arrived.any (fun e => e.1.ctx == m.ctx)) &&
    b.arrived.all (fun e => s.arrivalCounts e)

/-- BARRIER_COMPLETE. -/
def State.barComplete (s : State) (die n : Nat) : State :=
  if n ≥ 16 then s
  else
    let b0 := s.barrier die n
    if !s.phaseDone b0 then s
    else
      let b := s.takeCounts b0
      let status := b2n b.lost
      let after := b.changed
      let s : State := s.setBarrier die n
        { after with phase := (b.phase + 1) % 2 ^ 32, arrived := [], lost := false, csums := [], counts := [] }
      let ws := csumWords b.counts
      let s : State := b.csums.foldl (fun s r => if r.phase == b.phase then s.writeCsum r ws else s) s
      let s : State := ((b.members.map (fun m => Party.coreKey m.party)).eraseDups).foldl (fun s k => s.activateSlottab k) s
      let s : State := if 12 ≤ n && s.swapPending then s.switchBanks else s
      b.arrived.foldl (fun s e => s.wakeMember n e.2 status e.1.ctx) s

def execBarrierComplete (die bar : Nat) (s : State) : Host.Outcome State Fault Refusal :=
  event (fun s => s.barComplete die bar) s

/-- The barrier that a wait with a limit names: that of BARW or BARR, or of a BARR that has yet to issue. -/
def Park.limited (k : Park) : Option Nat :=
  match k.why, k.after with
  | .barw n _ _, true => some n
  | .barrier n _ true, false => some n
  | _, _ => none

/-- BARRIER_TIMEOUT: a slot that has waited in BARW or BARR longer than its limit traps; its arrival stands
(19 R278). -/
def State.barTimeout (s : State) (p : Party) : State :=
  match s.thread? p with
  | none => s
  | some t =>
    match t.park with
    | some k =>
      match k.limited with
      | some n =>
        let limit := if n < 12 then t.btoDie else t.btoPkg
        if limit == 0 || decide (k.waited ≤ limit) || (!k.after && s.wakes p t k.why) then s
        else
          let (v, s) := s.fresh
          s.takeTrap p 0x15 (b2n k.second) t.pc v (w64 (n * 16 + 1))
      | none => s
    | none => s

def execBarrierTimeout (p : Party) (s : State) : Host.Outcome State Fault Refusal :=
  event (fun s => s.barTimeout p) s

end Sys2Proof.Machine
end

