-- ==== Sys2Proof/Machine/Revisions.lean ====
section
/-! DEFINITION. Tatting: regions, FORK, JOIN, the stitch and the end of a revision; the end of a thread (spec/21;
09 R123). -/

namespace Sys2Proof.Machine

/-! ### REGION (21 R294, R295, R298) -/

def Region.ofWords (ws : List Nat) : Region :=
  let w := nth ws 1 0
  ⟨bits (nth ws 0 0) 55 0, bits w 36 0, bits w 43 40, bits w 45 44⟩

/-- A descriptor within Table 21.1, but for its stitch type. -/
def regionOk (ws : List Nat) : Bool :=
  let r := Region.ofWords ws
  let w := nth ws 1 0
  bits (nth ws 0 0) 63 56 == 0 && r.base % 64 == 0 && bits w 39 37 == 0 && bits w 63 46 == 0 && nth ws 2 0 == 0 &&
    nth ws 3 0 == 0 && r.len % 64 == 0 && decide (64 ≤ r.len) && decide (r.len ≤ 2 ^ 36)

/-- Whether Table 21.2 allows an element size for a stitch type. -/
def stitchOk (stitch esize : Nat) : Bool := decide (stitch < 10) && !((stitch == 4 || stitch == 9) && esize == 0)

/-- REGION: it waits for the thread's earlier accesses and reads the descriptor as it issues. -/
def effRegion (d a : Reg) (s : State) : Eff := do
  s.checkPoison [a]
  let (x, s) ← s.readG a
  if x.toNat % 32 != 0 then operandTrap x
  let (l, s) ← s.checkAccess x.toNat 32 32 needR
  if !s.earlierDone s.src.ctx s.nextOp true true then .error (.park (.earlier true true s.nextOp))
  match s.readPart s.issueFlight (s.loadPart x.toNat l 32) with
  | (.error k, _) =>
    let p : Poison := ⟨s.nextOp, k, false, 0, x.toNat, s.issue.pc.toNat⟩
    trap p.cause (w64 p.addr) p.einfo
  | (.ok v, s) =>
    let ws := wordsOf v 4
    let r := Region.ofWords ws
    if !regionOk ws then operandTrap x
    if !stitchOk r.stitch r.esize then s.openAddrTrap 0x19 (w64 (r.stitch + r.esize * 16))
    let s ← (if r.stitch == 0 then .ok s else s.checkGlobal r.base r.len (needR + needW))
    s.checkAsync d
    pure ((s.emptyG d).launchFlight (.status (.region ws) d.val) [] .rlx .pkg)

def execRegion (d a : Reg) (s : State) : Host.Outcome State Fault Refusal := run (effRegion d a) s

/-- Adds up the bytes of [va, stop) that stand on pages with REVD 1 and another ATTR than DEV, page by page (21 R292). -/
def State.revBytes (s : State) : Nat → Nat → Nat → Nat → Nat
  | 0, _, _, n => n
  | fuel + 1, va, stop, n =>
    if stop ≤ va then n
    else
      let size := 2 ^ s.pageBits va
      let next := Nat.min stop ((va / size + 1) * size)
      let on := match s.walk va with
        | .ok l => l.revd && l.attr != 3
        | .error _ => false
      s.revBytes fuel next stop (if on then n + (next - va) else n)

/-- Revisioned bytes of some regions, as the page table stands (21 R292; DEDUCED: log 28). -/
def State.revisionedBytes (s : State) (rs : List Region) : Nat :=
  rs.foldl (fun n r => s.revBytes (r.len / 65536 + 2) r.base (r.base + r.len) n) 0

/-- The status of REGION, and its effect on the domain's table. -/
def State.regionDone (s : State) (f : Flight) (ws : List Nat) (d : Nat) : State :=
  let r := Region.ofWords ws
  let rs := tgetD s.regions f.dom []
  let done (v : Nat) (rs : List Region) : State :=
    { s with regions := tput s.regions f.dom [] rs }.statusArrive f d (.val (w64 v))
  if f.rev != 0 || s.revs.any (fun e => e.2.dom == f.dom) then done 3 rs
  else if r.stitch == 0 then
    if rs.any (fun x => x.base == r.base) then done 0 (rs.filter (fun x => x.base != r.base)) else done 2 rs
  else if rs.any (fun x => overlap r.base r.len x.base x.len) then done 2 rs
  else if 16 ≤ rs.length then done 1 rs
  else if 2 ^ 36 < s.revisionedBytes (rs ++ [r]) then done 4 rs
  else done 0 (rs ++ [r])

/-! ### FORK (21 R293, R299) -/

def effFork (d : Reg) (s : State) : Eff := do
  s.checkRelease
  s.checkAsync d
  pure ((s.emptyG d).launchFlight (.status .fork d.val) [] .rlx .pkg)

def execFork (d : Reg) (s : State) : Host.Outcome State Fault Refusal := run (effFork d) s

/-- Revisioned lines of a domain, doubled (21 R299). -/
def State.reserveFor (s : State) (dom : Nat) : Nat := 2 * (s.revisionedBytes (tgetD s.regions dom []) / 64)

/-- Version lines that FORK could still reserve: the store holds one for each 64 bytes (21 R299, R303; 23 Table 23.8;
DEDUCED: log 28). -/
def State.linesLeft (s : State) : Nat := bits (portWord s 3) 47 0 / 64 - s.revs.foldl (fun n e => n + e.2.reserved) 0

def State.depthOf (s : State) (r : Nat) : Nat := if r = 0 then 0 else ((tget s.revs r).map (·.depth)).getD 0

/-- The lowest number from n on that a table does not hold. -/
def lowestFree {α : Type} (n : Nat) (t : Table α) : Nat :=
  (((List.range (t.length + 1)).map (· + n)).find? (fun k => (tget t k).isNone)).getD n

/-- The fork point: the child's view is its parent's, which every later write of either leaves to the other. -/
def State.forkDone (s : State) (f : Flight) (d : Nat) : State :=
  let need := s.reserveFor f.dom
  if s.depthOf f.rev = 15 then s.statusArrive f d (.val 0xFFFFFFFFFFFFFFFD)
  else if 4096 ≤ s.revs.length + 1 then s.statusArrive f d (.val 0xFFFFFFFFFFFFFFFE)
  else if s.linesLeft < need then s.statusArrive f d (.val 0xFFFFFFFFFFFFFFFF)
  else
    let c := lowestFree 1 s.revs
    let r : Rev := ⟨f.dom, f.rev, s.depthOf f.rev + 1, f.ctx, f.id, true, true, false, need, [], [], none⟩
    { s with revs := tset s.revs c r }.statusArrive f d (.val (w64 c))

/-! ### JOIN (21 R296, R300, R301) -/

/-- The elements of a child's view that the stitch visits: those that differ from its ancestor image, or meet an
uncorrectable error in either. -/
def State.changedIn (s : State) (r : Rev) : List (Nat × Nat × Nat × Nat) :=
  r.view.flatMap (fun e =>
    let old := match tget r.anc e.1 with
      | some l => l
      | none => s.lineIn r.parent e.1
    match s.regionOf r.dom (e.2.line * 64) with
    | none => []
    | some g =>
      let n := 2 ^ g.esize
      (List.range (64 / n)).filterMap (fun i =>
        let bad := bit e.2.poison (i * n / 16) || bit old.poison (i * n / 16)
        let k := 8 * n * i
        if bad || e.2.data / 2 ^ k % 2 ^ (8 * n) != old.data / 2 ^ k % 2 ^ (8 * n) then
          some (e.2.line * 64 + i * n, e.1 * 64 + i * n, n, g.stitch)
        else none))

/-- The elements that a join has yet to stitch. They are those of the child's view as it stands when the stitch begins, after every
earlier access of the thread (21 R301; DEDUCED: log 68). -/
def State.joinTodo (s : State) (r : Rev) (j : Joining) : List (Nat × Nat × Nat × Nat) := j.todo.getD (s.changedIn r)

/-- Step 2 of a join: the child stops being live, the owner's hold ends, and the stitch is to follow. -/
def State.beginJoin (s : State) (c : Nat) (op : Nat) (p : Party) (ctx : Nat) : State :=
  match tget s.revs c with
  | none => s
  | some r =>
    let r : Rev := { r with live := false, hold := false, joining := some ⟨op, op, p, ctx, none, 0⟩ }
    { s with revs := tset s.revs c r }

def effJoin (d a : Reg) (s : State) : Eff := do
  s.checkPoison [a]
  let (x, s) ← s.readG a
  if bits x.toNat 63 12 != 0 then operandTrap x
  let c := x.toNat
  if c != 0 && (tget s.revs c).any (fun r => r.hold && r.owner == s.src.ctx) then
    if s.uses c != 0 then .error (.park (.joinUses c))
    s.checkRelease
    s.checkAsync d
    let s' : State := s.beginJoin c s.nextOp s.cur s.src.ctx
    pure ((s'.emptyG d).launchFlight (.status (.join c) d.val) [] .rlx .pkg)
  else
    s.checkRelease
    s.checkAsync d
    pure (s.writeG d 0xFFFFFFFFFFFFFFFF)

def execJoin (d a : Reg) (s : State) : Host.Outcome State Fault Refusal := run (effJoin d a) s

/-- The shape of a floating-point element (21 Table 21.2). -/
def stitchShape (bytes : Nat) : FpShape := if bytes = 2 then .bf16 else if bytes = 4 then .fp32 else .fp64

/-- The result of Table 21.2 for an element that the child changed, and what it counts. -/
def stitchOf (stitch bytes a p c : Nat) : Nat × Counts :=
  let n := 8 * bytes
  let f := stitchShape bytes
  match stitch with
  | 1 => (c, [])
  | 2 => (if p != a then p else c, [])
  | 3 => ((p + c + 2 ^ n - a) % 2 ^ n, [])
  | 4 =>
    let d := f.sub .rne 0 (f.read c) (f.read a)
    let r := f.add .rne 0 (f.read p) (f.read d.1)
    (r.1, d.2 ++ r.2)
  | 5 => (if signedOf n p < signedOf n c then c else p, [])
  | 6 => (if signedOf n c < signedOf n p then c else p, [])
  | 7 => (Nat.max p c, [])
  | 8 =>
    let m := Nat.xor a c
    (Nat.lor (Nat.land p (2 ^ n - 1 - m)) (Nat.land c m), [])
  | _ => f.minMax true p c

/-- Whether the stitch counts a conflict (21 R296). -/
def stitchConflict (stitch a p c : Nat) : Bool := (stitch == 1 || stitch == 2) && p != a && p != c

/-- An element of a line. -/
def VLine.elem (l : VLine) (pa n : Nat) : Nat := l.data / 2 ^ (8 * (pa % 64)) % 2 ^ (8 * n)

/-- The value that the stitch of an element would store. -/
def State.stitchValue (s : State) (c : Nat) (r : Rev) (e : Nat × Nat × Nat × Nat) : Nat :=
  let (_, pa, n, stitch) := e
  let p := s.lineIn r.parent (pa / 64)
  let a := (tget r.anc (pa / 64)).getD p
  (stitchOf stitch n (a.elem pa n) (p.elem pa n) ((s.lineIn c (pa / 64)).elem pa n)).1

/-- The stitch of one element into the parent's view (21 R296, R308): the state, and whether it counted a conflict. -/
def State.stitchElem (s : State) (c : Nat) (r : Rev) (core : Nat) (e : Nat × Nat × Nat × Nat) : State × Bool :=
  let (va, pa, n, stitch) := e
  let pl := pa / 64
  let i := pa % 64 / 16
  let p := s.lineIn r.parent pl
  let a := (tget r.anc pl).getD p
  let x := s.lineIn c pl
  if bit p.poison i || bit a.poison i || bit x.poison i then
    ((s.poisonView r.parent pl [i] (va / 64)).postMemError r.dom 0x14 none (some (pa / 16 * 16)), false)
  else
    let v := stitchOf stitch n (a.elem pa n) (p.elem pa n) (x.elem pa n)
    let clash := stitchConflict stitch (a.elem pa n) (p.elem pa n) (x.elem pa n)
    let s : State := s.countAt core (v.2 ++ (if clash then [evStconf] else []))
    if v.1 == p.elem pa n then (s, clash)
    else ((s.invalidateOthers none pl r.parent true).writeView r.parent pa n v.1 va, clash)

/-- Whether a thread holds a failed store of a stitch. -/
def Thread.stitchHeld (t : Thread) (c : Nat) : Bool :=
  t.held.any (fun h =>
    match h.what with
    | .stitch r _ _ => r == c
    | _ => false)

/-- Whether a join may go on: its thread's earlier accesses are over, the earlier joins into its parent are stitched,
and none of its stores is held (21 R301, R308). -/
def State.joinRuns (s : State) (r : Rev) (c : Nat) (j : Joining) : Bool :=
  (s.flight? j.op).any (fun f => s.mayPerform f 0) &&
    s.revs.all (fun e => !(e.2.parent == r.parent && e.2.joining.any (fun k => decide (k.order < j.order) && k.todo != some []))) &&
    !((s.ctxThread j.ctx).any (fun t => t.stitchHeld c))

/-- A stitched store that fails translation: a held store of its slot, or nothing once its thread has ended. -/
def State.holdStitch (s : State) (c : Nat) (j : Joining) (f : Flight) (va k : Nat) : Option State :=
  match s.ctxThread j.ctx with
  | none => none
  | some t =>
    if t.quitting then none
    else
      let h : Held := ⟨.stitch c f.iaddr va, k, f.id, 16⟩
      let rels := s.releasesBehind f
      some ((s.mapCtx j.ctx (fun (t : Thread) => { t with held := t.held ++ h :: rels.map (Flight.heldBehind k 16) }.oweHeld)).dropFlights
        (rels.map (·.id)))

/-- Where a thread that joins now is. -/
def State.joiner (s : State) (j : Joining) : Party := ((s.findCtx j.ctx).map (·.1)).getD j.party

/-- JOIN_STITCH: one element of a join is stitched. -/
def State.joinStitch (s : State) (c va : Nat) : State :=
  match tget s.revs c with
  | none => s
  | some r =>
    match r.joining with
    | none => s
    | some j =>
      match (s.joinTodo r j).find? (fun e => e.1 == va), s.flight? j.op with
      | some e, some f =>
        if !s.joinRuns r c j then s
        else
          let rest := (s.joinTodo r j).filter (fun x => x.1 != va)
          let p := s.joiner j
          let put (s : State) (clash : Bool) : State :=
            match tget s.revs c with
            | none => s
            | some r =>
              let j : Joining := { j with todo := some rest, conflicts := j.conflicts + b2n clash }
              { s with revs := tset s.revs c { r with joining := some j } }
          match s.translate (Party.clusterKey p) va r.parent true (s.launchOf p) with
          | (.error k, s) =>
            match s.holdStitch c j f va k with
            | some s => s
            | none => put s false
          | (.ok _, s) =>
            let (s, clash) := s.stitchElem c r (Party.coreKey p) e
            put s clash
      | _, _ => s

def execJoinStitch (rev addr : Nat) (s : State) : Host.Outcome State Fault Refusal :=
  event (fun s => s.joinStitch rev addr) s

/-- JOIN_COMPLETE: gd receives the conflicts, and the number and its reservation are free. -/
def State.joinComplete (s : State) (c : Nat) : State :=
  match tget s.revs c with
  | none => s
  | some r =>
    match r.joining with
    | none => s
    | some j =>
      match s.flight? j.op with
      | none => s
      | some f =>
        if !(s.joinTodo r j).isEmpty || !s.joinRuns r c j then s
        else
          let d := match f.kind with
            | .status (.join _) d => d
            | _ => 0
          { s with revs := terase s.revs c }.statusArrive { f with party := s.joiner j } d (.val (w64 j.conflicts))

def execJoinComplete (rev : Nat) (s : State) : Host.Outcome State Fault Refusal :=
  event (fun s => s.joinComplete rev) s

/-- REVISION_DISCARD: an abandoned revision that nothing uses any longer is discarded unstitched (21 R302). -/
def State.revDiscard (s : State) (c : Nat) : State :=
  match tget s.revs c with
  | none => s
  | some r => if r.abandoned && s.uses c == 0 then { s with revs := terase s.revs c } else s

def execRevisionDiscard (rev : Nat) (s : State) : Host.Outcome State Fault Refusal :=
  event (fun s => s.revDiscard rev) s

/-! ### REVQ (21 R303) -/

def effRevq (d a : Reg) (s : State) : Eff := do
  s.checkPoison [a]
  let (x, s) ← s.readG a
  if bits x.toNat 63 13 != 0 then operandTrap x
  s.checkAsync d
  pure ((s.emptyG d).launchFlight (.status (.revq x.toNat) d.val) [] .rlx .pkg)

def execRevq (d a : Reg) (s : State) : Host.Outcome State Fault Refusal := run (effRevq d a) s

/-- Unjoined children of a revision. -/
def State.kids (s : State) (c : Nat) (mine : Option Nat) : Nat :=
  (s.revs.filter (fun e => e.2.parent == c && e.2.hold && mine.all (fun o => e.2.owner == o))).length

/-- A revision record (21 Table 21.4). -/
def State.revWord (s : State) (f : Flight) (c : Nat) : Nat :=
  if c = 0 then 2 ^ 63 + 2 ^ 62 + f.dom % 128 * 2 ^ 32 + s.kids 0 (some f.ctx)
  else
    match tget s.revs c with
    | none => 0
    | some r =>
      if !f.sup && r.dom != f.dom then 0
      else
        b2n r.live * 2 ^ 63 + 2 ^ 62 + b2n (r.owner == f.ctx) * 2 ^ 61 + b2n r.abandoned * 2 ^ 60 + r.depth % 16 * 2 ^ 56 +
          r.parent % 4096 * 2 ^ 44 + r.dom % 128 * 2 ^ 32 + Nat.min (s.uses c + b2n r.hold) 65535 * 2 ^ 16 + s.kids c none

def State.revqDone (s : State) (f : Flight) (a d : Nat) : State :=
  s.statusArrive f d (.val (w64 (if bit a 12 then s.linesLeft else s.revWord f (a % 4096))))

/-! ### The end of a thread (09 R123; 21 R302) -/

/-- The unjoined children of a context, in fork order. -/
def State.childrenOf (s : State) (ctx : Nat) : List (Nat × Rev) :=
  (s.revs.filter (fun e => e.2.owner == ctx && e.2.hold)).foldl (fun l e =>
    (l.takeWhile (fun x => decide (x.2.seq < e.2.seq))) ++ [e] ++ l.dropWhile (fun x => decide (x.2.seq < e.2.seq))) []

/-- The child that an ending thread joins next: one from which it forked no other, in fork order. -/
def State.nextChild (s : State) (ctx : Nat) : Option Nat :=
  let l := s.childrenOf ctx
  ((l.find? (fun e => !l.any (fun x => x.2.parent == e.1))).map (·.1))

/-- Step 3 of QUIT: the children that nothing uses are joined, each in its turn. -/
def State.joinChildren (s : State) (p : Party) (t : Thread) : Nat → State
  | 0 => s
  | fuel + 1 =>
    match s.nextChild t.ctx with
    | none => s
    | some c =>
      if s.uses c != 0 then s
      else
        let s : State := s.beginJoin c s.nextOp p t.ctx
        let f : Flight := ⟨s.nextOp, p, t.ctx, .status (.join c) 0, [], .rlx, .pkg, t.dom, t.revNo, t.sup, t.pc.toNat, false⟩
        { s with flights := s.flights ++ [f], nextOp := s.nextOp + 1 }.joinChildren p t fuel

/-- Whether an ending thread owes nothing any longer: its forks have returned and its children are joined, its matrix
commands over and its stores acknowledged. -/
def State.owesNothing (s : State) (p : Party) (t : Thread) : Bool :=
  let forks (f : Flight) : Bool := f.ctx == t.ctx &&
    (match f.kind with
      | .status .fork _ => true
      | _ => false)
  !s.flights.any forks && (s.childrenOf t.ctx).isEmpty && (s.core p).mq.all (fun m => m.ctx != t.ctx) && s.acked t.ctx

/-- A slot that has executed QUIT, or whose unit has been killed, gives up its context once it owes nothing. -/
def State.settleQuit (s : State) (p : Party) : State :=
  match s.thread? p with
  | none => s
  | some t =>
    if !t.quitting then s
    else
      let s : State := (s.discardQuit p t).joinChildren p t s.revs.length
      if s.owesNothing p t then s.vacate p else s

/-- Settles every slot that is ending. -/
def State.quitSweep (s : State) : State :=
  (s.contexts.filter (fun e => e.2.quitting)).foldl (fun s e => s.settleQuit e.1) s

end Sys2Proof.Machine
end

