-- ==== Sys2Proof/Machine/Sched.lean ====
section
/-! DEFINITION. Launch queues, the launch scheduler and the loader, gangs, codelets and ready rings (03 R25 to R37,
R43 to R47; 09 R124 to R129). -/

namespace Sys2Proof.Machine

/-! ### Accesses of a scheduler (03 R29, R32; 21 R305): translated by a walk, in the base revision -/

def State.schedPlace (s : State) (va : Nat) : Except Nat Nat :=
  match s.walk va with
  | .error k => .error k
  | .ok l => .ok (l.base + (va - l.vpage))

def State.schedRead (s : State) (va n : Nat) : Except Nat Nat :=
  match s.schedPlace va with
  | .error k => .error k
  | .ok pa => if poisonIn s.memPoison pa n then .error 8 else .ok (s.readPa pa n)

def State.schedWrite (s : State) (va n v : Nat) : Option State :=
  match s.schedPlace va with
  | .error _ => none
  | .ok pa => some ((s.invalidateOthers none (pa / 64) 0 false).writeView 0 pa n v va)

/-- The twelve words of a launch record, or none. -/
def State.readRecord (s : State) (va : Nat) : Option (List Nat) :=
  match s.schedRead va 32, s.schedRead (va + 32) 32, s.schedRead (va + 64) 32 with
  | .ok a, .ok b, .ok c => some (wordsOf a 4 ++ wordsOf b 4 ++ wordsOf c 4)
  | _, _, _ => none

/-- Whether a domain has rights to [addr, stop), by its region list (15 R192, R194). -/
def State.regionRights (s : State) (dom : Nat) (sup : Bool) (need : Nat) : Nat → Nat → Nat → Bool
  | 0, _, _ => false
  | fuel + 1, addr, stop =>
    if stop ≤ addr then true
    else if 2 ^ 56 ≤ addr then false
    else
      match s.searchRegion dom addr with
      | .error _ => false
      | .ok e =>
        !(e.s && !sup) && !((bit need 0 && !e.r) || (bit need 1 && !e.w) || (bit need 2 && !e.x)) &&
          s.regionRights dom sup need fuel ((e.last + 1) * 65536) stop

/-! ### Fields of a queue table entry and of a launch record (23 Table 23.9; 03 Table 3.4) -/

def LQueue.qcb (q : LQueue) : Nat := bits (nth q.entry 0 0) 55 0
def LQueue.tvec (q : LQueue) : Word := maskTo (CReg.mask .tvec) (w64 (nth q.entry 4 0))
def LQueue.permits (q : LQueue) (dom : Nat) : Bool := bit (nth q.entry 2 0 + nth q.entry 3 0 * 2 ^ 64) dom

def recDom (w : List Nat) : Nat := bits (nth w 3 0) 62 56
def recRev (w : List Nat) : Nat := bits (nth w 5 0) 55 44
def recFeat (w : List Nat) : Nat := bits (nth w 4 0) 51 36
def recCount (w : List Nat) : Nat := bits (nth w 5 0) 31 0
def recCores (w : List Nat) : Nat := 2 ^ bits (nth w 5 0) 33 32
def recSlots (w : List Nat) : Nat := bits (nth w 5 0) 37 34 + 1
def recPolders (w : List Nat) : Nat := bits (nth w 5 0) 43 38
def recWait (w : List Nat) (i : Nat) : Nat := bits (nth w (6 + i) 0) 55 0
def recVal (w : List Nat) (i : Nat) : Nat := nth w (10 + i / 2) 0 / 2 ^ (32 * (i % 2)) % 2 ^ 32

/-- b(j): the sum of the widths below field j (03 R27). -/
def recBits (w : List Nat) (j : Nat) : Nat :=
  (List.range j).foldl (fun a i => a + bits (nth w 4 0) (6 * i + 5) (6 * i)) 0

/-- Gangs of a level-COLEV block (03 R34). -/
def blockSize (w : List Nat) : Nat := 2 ^ recBits w (bits (nth w 4 0) 54 52)

/-! ### Placement (03 R35) -/

/-- Shape of a gang. -/
structure Shape where
  cores : Nat
  slots : Nat
  polders : Nat
  need : Nat
  deriving DecidableEq, Repr

def recShape (w : List Nat) : Shape := ⟨recCores w, recSlots w, recPolders w, recFeat w⟩

/-- Place of a cluster in the loader's order: the 128, 64, 32 and 16-node indices, then its number. -/
def clusterRank (c : Nat) : Nat :=
  let k := Config.coreAt c 0
  (((nodeIndexOf 1 k * 4 + nodeIndexOf 2 k) * 8 + nodeIndexOf 3 k) * 16 + nodeIndexOf 4 k) * 32 + c

/-- The clusters of a die in the loader's order. -/
def clusterOrder : List Nat :=
  (List.range 32).foldl (fun l c =>
    l.takeWhile (fun x => decide (clusterRank x < clusterRank c)) ++ [c] ++
      l.dropWhile (fun x => decide (clusterRank x < clusterRank c))) []

/-- The dies in the order of a die-class preference. -/
def dieOrder (dclass : Nat) : List Nat :=
  let all := List.range 12
  match dclass with
  | 1 => all.filter (fun d => !Config.isSDie d) ++ all.filter Config.isSDie
  | 2 => all.filter Config.isSDie ++ all.filter (fun d => !Config.isSDie d)
  | _ => all

/-- The slots of a core that hold no context. -/
def State.freeSlots (s : State) (die core : Nat) : List Nat :=
  (List.range 16).filter (fun i => (s.thread? ⟨die, core, i⟩).isNone)

/-- Pool polders of a cluster that are detached, by number over the package. -/
def State.freePolders (s : State) (ck : Nat) : List Nat :=
  ((List.range 56).map (fun j => polderNo ck (j + 8))).filter (fun n => (s.attachOf n).st == .detached)

/-- Whether a cluster of a partition may take gangs that need features. -/
def State.clusterTakes (s : State) (q : LQueue) (need die c : Nat) : Bool :=
  let k := Config.coreAt c 0
  s.corePresent die k && q.holds die k && !(s.clusterAt (die * 32 + c)).quarantined &&
    Nat.land need (Config.feat die) == need

/-- The cores of an aligned group of a cluster. -/
def groupCores (c cores g : Nat) : List Nat := (List.range cores).map (fun i => Config.coreAt c (g * cores + i))

/-- The lowest group of a cluster that a test accepts. -/
def pickGroup (cores : Nat) (ok : Nat → Bool) : Option Nat := (List.range (8 / cores)).find? ok

/-- Whether a group of a cluster has the free slots and window numbers that a shape needs. -/
def State.groupFits (s : State) (h : Shape) (die c g : Nat) : Bool :=
  let cs := groupCores c h.cores g
  cs.all (fun k => decide (h.slots ≤ (s.freeSlots die k).length)) &&
    (List.range h.polders).all (fun w => (s.window? ⟨die, nth cs 0 0, 0⟩ (w + 1)).isNone)

/-- The first place on some dies that 03 R35 and a further test of the group accept: die, cluster and group. -/
def State.placeOn (s : State) (q : LQueue) (h : Shape) (more : Nat → Nat → Nat → Bool) (dies : List Nat) :
    Option (Nat × Nat × Nat) :=
  dies.findSome? (fun d =>
    clusterOrder.findSome? (fun c =>
      if s.clusterTakes q h.need d c && decide (h.polders ≤ (s.freePolders (d * 32 + c)).length) then
        (pickGroup h.cores (fun g => s.groupFits h d c g && more d c g)).map (fun g => (d, c, g))
      else none))

/-- The first place for a gang. -/
def State.findPlace (s : State) (q : LQueue) (h : Shape) (dclass : Nat) : Option (Nat × Nat × Nat) :=
  s.placeOn q h (fun _ _ _ => true) (dieOrder dclass)

/-- Gangs of a shape that an empty cluster holds. -/
def gangsOfCluster (h : Shape) : Nat :=
  if h.polders = 0 then 8 / h.cores * (16 / h.slots) else Nat.min (8 / h.cores) (56 / h.polders)

/-- Gangs of a shape that the empty partition holds. -/
def State.gangsOfPartition (s : State) (q : LQueue) (h : Shape) : Nat :=
  (List.range 12).foldl (fun n d =>
    (List.range 32).foldl (fun n c => if s.clusterTakes q h.need d c then n + gangsOfCluster h else n) n) 0

/-! ### Starting contexts (03 R36) -/

/-- Loads a context into a slot; what was raised while the slot held none is delivered to it (23 R319). -/
def State.loadContext (s : State) (p : Party) (t : Thread) : State :=
  let c : CoreSt := s.core p
  match tget c.slotEvents p.slot with
  | none => s.setThread p t
  | some e =>
    let s : State := s.setCore p { c with slotEvents := terase c.slotEvents p.slot }
    let t : Thread := if e.timer then t.setStatus stTpend true else t
    match e.mem with
    | none => s.setThread p t
    | some m => s.setThread p { t.setStatus stEpend true with memEvent := m }

/-- g2 of a slot at its start. -/
def stackTop (slot : Nat) : Word := w64 (2 ^ 63 + 0x4000 + (slot + 1) * 0x0C00)

/-- SEED of a value at the start of a context (07 R84). -/
def startSeed (n : Nat) : Word :=
  let v := (n + 1) * 0x9E3779B1 % 2 ^ 32
  w64 (if v = 0 then 1 else v)

/-- A context as the loader sets it up. -/
def startThread (p : Party) (ctx u : Nat) (tvec : Word) : Thread :=
  { Thread.blank with
    ctx := ctx
    unit := u
    g := vset Thread.blank.g 2 (.val (stackTop p.slot))
    tvec := tvec
    readyAt := 0 }

/-- SCLA or SCLB of a record: ARG and an offset, or 0 without a scale code (03 R30). -/
def recScale (w : List Nat) (code off : Nat) : Word :=
  if code = 0 then 0
  else maskTo (CReg.mask .scla) (BitVec.ofInt 64 ((bits (nth w 1 0) 55 0 : Nat) + signedOf 32 off))

/-- One thread of a gang. -/
def recThread (w : List Nat) (q : LQueue) (u ctx gang gcore gslot : Nat) (p : Party) : Thread :=
  let wid := gang * 128 + gcore * 16 + gslot
  let t := startThread p ctx u q.tvec
  { t with
    pc := w64 (bits (nth w 0 0) 55 0)
    wid := w64 wid
    wfmt := w64 (bits (nth w 4 0) 35 0)
    fmta := w64 (bits (nth w 0 0) 61 56)
    fmtb := w64 (bits (nth w 1 0) 61 56)
    scla := recScale w (bits (nth w 0 0) 61 60) (bits (nth w 2 0) 31 0)
    sclb := recScale w (bits (nth w 1 0) 61 60) (bits (nth w 2 0) 63 32)
    arg := w64 (bits (nth w 1 0) 55 0)
    domain := w64 (recDom w)
    rev := w64 (recRev w)
    seed := startSeed (wid % 2 ^ 32) }

/-- Step 1 of a start: the lowest detached polders are zeroed and attached to a core as windows 1, 2, and so on. -/
def State.giveWindows (s : State) (p : Party) (u dom n : Nat) : State :=
  let pos := Config.posOf p.core
  ((s.freePolders (Party.clusterKey p)).take n).zip (List.range n) |>.foldl (fun s e =>
    let s : State := s.zeroSram (polderBase e.1) 65536
    let a := s.attachOf e.1
    let s : State := s.setAttach e.1 ⟨.attached, e.2 + 1, pos, 0, false, 0, pos, 0, dom, a.count⟩
    s.setWindow p (e.2 + 1) (some ⟨.opened, e.1, dom, u, none⟩)) s

/-- Starts one gang of a launch at a place. -/
def State.startGang (s : State) (qn : Nat) (q : LQueue) (l : Nat) (w : List Nat) (gang : Nat) (die c g : Nat) : State :=
  let cs := groupCores c (recCores w) g
  let places := cs.flatMap (fun k => ((s.freeSlots die k).take (recSlots w)).map (fun i => (⟨die, k, i⟩ : Party)))
  let u := s.nextUnit
  let work : Work := ⟨some qn, some l, none, gang, recDom w, places, recSlots w, recPolders w, recFeat w, 0, .running,
    none, none, false, none⟩
  let s : State := { s.setWork u work with nextUnit := u + 1 }
  let s : State := s.giveWindows ⟨die, nth cs 0 0, 0⟩ u (recDom w) (recPolders w)
  (places.zip (List.range places.length)).foldl (fun s e =>
    let t := recThread w q u s.nextCtx gang (e.2 / recSlots w) (e.2 % recSlots w) e.1
    { s with nextCtx := s.nextCtx + 1 }.loadContext e.1 { t with readyAt := s.clock die + 1 }) s

/-! ### Rejections (03 R31) -/

/-- Reports a rejection: into the QCB, and by a record of KIND 5. -/
def State.reportReject (s : State) (qn : Nat) (q : LQueue) (r : Reject) : State :=
  let v := r.reason % 256 + r.prio % 4 * 2 ^ 8 + r.index % 2 ^ 32 * 2 ^ 10
  let s : State := (s.schedWrite (q.qcb + 0x40) 8 v).getD s
  let (cause, s) := s.fresh
  let (dom, s) := match r.accepted.bind (fun l => tget s.launches l) with
    | some l => (recDom l.words, s)
    | none => s.orFresh none
  s.postHost (cause.toNat % 256) 5 dom (some qn) none (some q.qcb) (some v)

/-- A ring rejects a record: it reports it, or holds it while another rejection is reported. -/
def State.reject (s : State) (qn prio reason index : Nat) (accepted : Option Nat) : State :=
  match s.queue qn with
  | none => s
  | some q =>
    let busy := q.rejects.any (fun r => r.reported)
    let r : Reject := ⟨prio, reason, index, accepted, !busy⟩
    let q : LQueue := { q with rejects := q.rejects ++ [r] }
    let s : State := s.setQueue qn q
    let s : State := match accepted.bind (fun l => (tget s.launches l).map (fun x => (l, x))) with
      | some (l, x) => { s with launches := tset s.launches l { x with dead := true } }
      | none => { s with pendingRevs := s.pendingRevs.filter (fun e => !(e.1 == q.qcb && e.2.1 == prio && e.2.2.1 == index)) }
    if busy then s else s.reportReject qn q r

/-- The held rejection of the lowest-numbered ring is reported next; whether there was one. -/
def State.reportNext (s : State) (qn : Nat) : Bool × State :=
  match s.queue qn with
  | none => (false, s)
  | some q =>
    match (List.range 4).findSome? (fun p => q.rejects.find? (fun r => r.prio == p && !r.reported)) with
    | none => (false, s)
    | some r =>
      let q : LQueue := { q with rejects := q.rejects.map (fun x => if x == r then { x with reported := true } else x) }
      (true, (s.setQueue qn q).reportReject qn q r)

/-- Checks of Table 3.5 on an accepted record: the lowest-numbered reason that applies, but for reads. What the empty
partition holds is counted on the dies that have the features, and where none has them, as if every die had them
(DEDUCED: log 98). -/
def State.recordReason (s : State) (q : LQueue) (w : List Nat) : Option Nat :=
  let w0 := nth w 0 0
  let w1 := nth w 1 0
  let w4 := nth w 4 0
  let total := recBits w 6
  let block := Nat.min (blockSize w) (recCount w)
  let rev := recRev w
  let able := (List.range 12).any (fun d =>
    (s.dieAt d).started && (List.range 256).any (fun k => q.holds d k) && Nat.land (recFeat w) (Config.feat d) == recFeat w)
  let shape : Shape := if able then recShape w else { recShape w with need := 0 }
  let checks : List (Nat × Bool) := [
    (1, bit (nth w 3 0) 63 || bits w4 63 55 != 0 || bits w4 51 40 != 0 || bits (nth w 5 0) 63 56 != 0 ||
      (List.range 4).any (fun i => bits (nth w (6 + i) 0) 63 56 != 0)),
    (2, decide (57 < total) || recCount w == 0 || decide (2 ^ total < recCount w)),
    (3, decide (56 < recPolders w)),
    (4, bits w4 54 52 == 7 || decide (s.gangsOfPartition q shape < block)),
    (5, !able),
    (6, !q.permits (recDom w)),
    (7, w0 % 4 != 0 || bits (nth w 3 0) 55 0 % 4 != 0 || (List.range 4).any (fun i => recWait w i % 4 != 0)),
    (8, decide (10 < bits w0 59 56) || decide (10 < bits w1 59 56) || bits w0 61 60 == 3 || bits w1 61 60 == 3 ||
      bits w0 63 62 == 3),
    (9, rev != 0 && !(tget s.revs rev).any (fun r => r.live && r.dom == recDom w))]
  (checks.find? (fun c => c.2)).map (·.1)

/-! ### Wait words (03 R32) -/

/-- Reads a wait word with the rights of the record's domain: whether it matches, or none where it cannot be read. -/
def State.waitMatches (s : State) (w : List Nat) (i : Nat) : Option Bool :=
  let a := recWait w i
  if !s.regionRights (recDom w) false needR 2 a (a + 4) then none
  else
    match s.schedRead a 4 with
    | .error _ => none
    | .ok v => some (decide ((v + 2 ^ 32 - recVal w i) % 2 ^ 32 < 2 ^ 31))

def usedWaits (w : List Nat) : List Nat := (List.range 4).filter (fun i => recWait w i != 0)

/-- Whether a launch is eligible. -/
def Launch.eligible (l : Launch) : Bool := (usedWaits l.words).all (fun i => l.matched.contains i)

/-- Whether the scheduler of a die may not see yet what stands at an address: a release at die scope on its way there is performed
before stores that it follows. Its reads of wait words and of TAIL are acquires (03 R29, R32; 17 R238). -/
def State.schedVeiled (s : State) (die a n : Nat) : Bool :=
  match s.walk a with
  | .ok l => s.veils.any (fun v =>
      v.scope == .die && v.party.die == die && v.rev == 0 && (locOverlap v.loc v.size (.pa (l.base + (a - l.vpage))) n).isSome &&
        s.veilHolds v)
  | .error _ => false

/-- One read of a wait word of an accepted launch: the entry matches, or no longer does. A launch that has become eligible
stays so (03 R32). -/
def State.readWait (s : State) (id i : Nat) : State :=
  match tget s.launches id with
  | none => s
  | some l =>
    if l.dead || l.eligible || !(usedWaits l.words).contains i ||
        (s.queue l.queue).any (fun q => s.schedVeiled q.die (recWait l.words i) 4) then s
    else
      match s.waitMatches l.words i with
      | none => s.reject l.queue l.prio 0x0A l.index (some id)
      | some true => if l.matched.contains i then s else { s with launches := tset s.launches id { l with matched := l.matched ++ [i] } }
      | some false => if l.matched.contains i then { s with launches := tset s.launches id { l with matched := l.matched.erase i } } else s

def execWaitWordRead (launch entry : Nat) (s : State) : Host.Outcome State Fault Refusal :=
  event (fun s => s.readWait launch entry) s

/-- The checks of an accepted record, and the first read of its wait words. -/
def State.examine (s : State) (id : Nat) : State :=
  match tget s.launches id with
  | none => s
  | some l =>
    match s.queue l.queue with
    | none => s
    | some q =>
      match s.recordReason q l.words with
      | some r => s.reject l.queue l.prio r l.index (some id)
      | none => (usedWaits l.words).foldl (fun s i => s.readWait id i) s

/-! ### Acceptance (03 R29, R31) -/

/-- Launches that the scheduler of a die holds. -/
def State.acceptedOn (s : State) (die : Nat) : Nat :=
  (s.launches.filter (fun e => (s.queue e.2.queue).any (fun q => q.die == die))).length

/-- The scheduler keeps HEAD of a ring as it last read or stored it. -/
def State.keepHead (s : State) (qn prio head : Nat) : State :=
  match s.queue qn with
  | none => s
  | some q => s.setQueue qn { q with heads := tset q.heads prio head }

/-- Rejects the record at HEAD before it is accepted. -/
def State.rejectAt (s : State) (qn prio reason head : Nat) : State :=
  (s.keepHead qn prio head).reject qn prio reason head none

/-- SCHEDULER_ACCEPT: the scheduler examines a ring at its HEAD. Where the QCB cannot be read, INDEX is HEAD as the scheduler
last read or stored it, and a free value where it never has (03 R31; DESIGN CHOICE: log 21). -/
def State.schedAccept (s : State) (qn prio : Nat) : State :=
  match s.queue qn with
  | none => s
  | some q =>
    if 4 ≤ prio || q.rejects.any (fun r => r.prio == prio) || decide (64 ≤ s.acceptedOn q.die) ||
        s.schedVeiled q.die (q.qcb + 0x10 * prio) 16 then s
    else
      match s.schedRead (q.qcb + 0x10 * prio) 16 with
      | .error _ =>
        match tget q.heads prio with
        | some h => s.reject qn prio 0x0A h none
        | none =>
          let (v, s) := s.fresh
          s.reject qn prio 0x0A (v.toNat % 2 ^ 32) none
      | .ok e =>
        let log := bits e 59 56
        let tail := bits e 95 64
        let head := bits e 127 96
        let due := (tail + 2 ^ 32 - head) % 2 ^ 32
        if due = 0 then s
        else if decide (12 < log) || bits e 63 60 != 0 then s.rejectAt qn prio 0x01 head
        else
          match s.readRecord (bits e 55 0 + 96 * (head % 2 ^ log)) with
          | none => s.rejectAt qn prio 0x0A head
          | some w =>
            if 2 ^ log < due then s.rejectAt qn prio 0x0B head
            else
              match s.schedWrite (q.qcb + 0x10 * prio + 0x0C) 4 ((head + 1) % 2 ^ 32) with
              | none => s.rejectAt qn prio 0x0A head
              | some s =>
                let id := s.nextLaunch
                let l : Launch := ⟨qn, prio, head, w, [], 0, 0, false⟩
                let q : LQueue := { q with launches := q.launches ++ [id], heads := tset q.heads prio ((head + 1) % 2 ^ 32) }
                let s : State := { s.setQueue qn q with
                  launches := tset s.launches id l
                  nextLaunch := id + 1
                  pendingRevs := s.pendingRevs.filter (fun e => !(e.1 == q.qcb && e.2.1 == prio && e.2.2.1 == head)) }
                s.examine id

def execSchedulerAccept (queue prio : Nat) (s : State) : Host.Outcome State Fault Refusal :=
  event (fun s => s.schedAccept queue prio) s

/-- A launch leaves its queue's list. -/
def State.unlistLaunch (s : State) (id : Nat) : State :=
  { s with queues := s.queues.map (fun e => (e.1, { e.2 with launches := e.2.launches.filter (fun i => i != id) })) }

/-- The record at the index of a rejection made after acceptance is read and checked again. -/
def State.recheck (s : State) (qn : Nat) (q : LQueue) (r : Reject) (id : Nat) : State :=
  let w : Option (List Nat) :=
    match s.schedRead (q.qcb + 0x10 * r.prio) 16 with
    | .error _ => none
    | .ok e => s.readRecord (bits e 55 0 + 96 * (r.index % 2 ^ bits e 59 56))
  match w, tget s.launches id with
  | some w, some l =>
    { s with launches := tset s.launches id { l with words := w, matched := [], dead := false } }.examine id
  | _, _ => s.reject qn r.prio 0x0A r.index (some id)

/-- HEAD + 1 is stored, so that a ring resumes at the next record (03 R31). -/
def State.skipRecord (s : State) (qn : Nat) (q : LQueue) (r : Reject) : State :=
  let at_ := q.qcb + 0x10 * r.prio + 0x0C
  let h := match s.schedRead at_ 4 with
    | .ok h => h
    | .error _ => r.index
  ((s.keepHead qn r.prio ((h + 1) % 2 ^ 32)).schedWrite at_ 4 ((h + 1) % 2 ^ 32)).getD s

/-- HOST_REASON_WRITE: the scheduler acts on a host write of REASON. -/
def State.reasonWritten (s : State) (qn value : Nat) : State :=
  match s.queue qn with
  | none => s
  | some q =>
    let s : State := (s.schedWrite (q.qcb + 0x40) 1 (value % 256)).getD s
    match q.rejects.find? (fun r => r.reported) with
    | none => s
    | some r =>
      let q' : LQueue := { q with rejects := q.rejects.filter (fun x => x != r) }
      if value % 256 = 0 then
        -- a second rejection of the record waits its turn among the held ones
        let s : State := match r.accepted with
          | none => s.setQueue qn q'
          | some id =>
            let s : State := (s.setQueue qn { q' with rejects := [{ r with reason := 0 }] }).recheck qn q r id
            match s.queue qn with
            | none => s
            | some x => s.setQueue qn { x with rejects := q'.rejects ++ x.rejects.drop 1 }
        (s.reportNext qn).2
      else if value % 256 = 0xFF then
        let s : State := s.setQueue qn q'
        let s : State := match r.accepted with
          | none => s.skipRecord qn q r
          | some id => { s.unlistLaunch id with launches := terase s.launches id }
        match s.reportNext qn with
        | (true, s) => s
        | (false, s) => (s.schedWrite (q.qcb + 0x40) 1 0).getD s
      else s

def execHostReasonWrite (queue value : Nat) (s : State) : Host.Outcome State Fault Refusal :=
  event (fun s => s.reasonWritten queue value) s

/-! ### Dispatch (03 R33, R34) -/

/-- Select of 03 R33 over candidates. -/
def select (c : List Nat) (cand : Nat → Bool) : Option Nat :=
  match (List.range 4).find? cand with
  | none => none
  | some h => if h < 3 && nth c h 0 == 64 && cand (h + 1) then some (h + 1) else some h

/-- Dispatched of 03 R33. -/
def dispatched (c : List Nat) (j : Nat) : List Nat :=
  let c := if j < 3 && decide (nth c j 0 < 64) then setNth c j (nth c j 0 + 1) else c
  if 0 < j then setNth c (j - 1) 0 else c

/-- The launch at the head of a priority, if it may be dispatched. -/
def State.headOf (s : State) (q : LQueue) (prio : Nat) : Option (Nat × Launch) :=
  if q.rejects.any (fun r => r.prio == prio) then none
  else
    (q.launches.findSome? (fun id => (tget s.launches id).bind (fun l => if l.prio == prio then some (id, l) else none))).bind
      (fun e => if e.2.eligible && !e.2.dead then some e else none)

/-- Starts the gangs of a block, all of them or none. -/
def State.startBlock (s : State) (qn : Nat) (q : LQueue) (id : Nat) (l : Launch) : Nat → Nat → Option State
  | 0, _ => some s
  | n + 1, gang =>
    match s.findPlace q (recShape l.words) (bits (nth l.words 0 0) 63 62) with
    | none => none
    | some (d, c, g) => (s.startGang qn q id l.words gang d c g).startBlock qn q id l n (gang + 1)

/-- Gangs of the next block of a launch. -/
def Launch.blockLeft (l : Launch) : Nat :=
  let n := blockSize l.words
  Nat.min (n - l.started % n) (recCount l.words - l.started)

/-- Whether two queues name one partition. -/
def LQueue.sharesWith (q r : LQueue) : Bool := bits (nth q.entry 1 0) 23 0 == bits (nth r.entry 1 0) 23 0

/-- The launch of a queue whose next block has failed to fit 64 times in a row (03 R34). -/
def State.stuck (s : State) (q : LQueue) : Option Nat :=
  (q.fails.find? (fun e => decide (64 ≤ e.2) && q.launches.contains e.1 && (tget s.launches e.1).any (fun l => !l.dead))).map (·.1)

/-- Whether a block of another queue of the partition keeps every other from starting (03 R34). A stopped queue starts no
block, and keeps none from starting (DEDUCED: log 101). -/
def State.barred (s : State) (qn : Nat) (q : LQueue) : Bool :=
  s.queues.any (fun e => e.1 != qn && !e.2.stopped && e.2.sharesWith q && (s.stuck e.2).isSome)

/-- Tries the heads in Select order, each once; a block that did not fit 64 times in a row keeps every other from
starting. -/
def State.tryHeads (s : State) (qn : Nat) (q : LQueue) : Nat → List Nat → State
  | 0, _ => s
  | fuel + 1, levels =>
    let stuck := s.stuck q
    let head (j : Nat) : Option (Nat × Launch) :=
      if levels.contains j then
        (s.headOf q j).bind (fun e => if stuck.all (fun x => x == e.1) then some e else none)
      else none
    match select q.selC (fun j => (head j).isSome) with
    | none => s
    | some j =>
      match head j with
      | none => s
      | some (id, l) =>
        match s.startBlock qn q id l l.blockLeft l.started with
        | some s' =>
          let l' : Launch := { l with started := l.started + l.blockLeft }
          let q' : LQueue := { q with
            selC := dispatched q.selC j
            fails := q.fails.filter (fun e => e.1 != id)
            launches := if recCount l.words ≤ l'.started then q.launches.filter (fun i => i != id) else q.launches }
          { s'.setQueue qn q' with launches := tset s'.launches id l' }
        | none =>
          let n := ((q.fails.find? (fun e => e.1 == id)).map (·.2)).getD 0
          let q' : LQueue := { q with fails := q.fails.filter (fun e => e.1 != id) ++ [(id, n + 1)] }
          (s.setQueue qn q').tryHeads qn q' fuel (levels.filter (fun i => i != j))

/-- BLOCK_DISPATCH: one co-residency block of a queue starts, or none fits. -/
def State.blockDispatch (s : State) (qn : Nat) : State :=
  match s.queue qn with
  | none => s
  | some q => if q.stopped || !q.current || s.barred qn q then s else s.tryHeads qn q 4 [0, 1, 2, 3]

def execBlockDispatch (queue : Nat) (s : State) : Host.Outcome State Fault Refusal :=
  event (fun s => s.blockDispatch queue) s

/-! ### Retirement (03 R37; 13 R189) -/

/-- The windows that a unit holds become unmapped, and their polders detached with contents and DOMAIN kept. -/
def State.dropWindows (s : State) (u : Nat) : State :=
  let held := s.cores.flatMap (fun e =>
    (e.2.windows.filter (fun w => w.2.holder == u && w.2.st == .opened)).map (fun w => (e.1, w.1, w.2.polder)))
  held.foldl (fun s e =>
    let p : Party := ⟨e.1 / 256, e.1 % 256, 0⟩
    (s.setWindow p e.2.1 none).setAttach e.2.2 { s.attachOf e.2.2 with st := .detached, window := 0, pinv := false }) s

/-- The addition to CFLAG: in the launch's revision, checked as a user-mode store of its domain. -/
def State.addCflag (s : State) (l : Launch) : State :=
  let a := bits (nth l.words 3 0) 55 0
  let dom := recDom l.words
  let rev := recRev l.words
  if a = 0 then s
  else
    let fail (s : State) (cause : Nat) : State :=
      let s : State := s.postFault dom cause 1 dom (some l.queue) none (some a) (some 0)
      s.postHost cause 1 dom (some l.queue) none (some a) (some 0)
    if !s.regionRights dom false needW 2 a (a + 4) then fail s 0x06
    else
      match s.walk a with
      | .error _ => fail s 0x07
      | .ok x =>
        let pa := x.base + (a - x.vpage)
        if x.attr == 3 then fail s 0x07
        else
          match s.readVirt dom rev a ⟨pa, x.attr, x.revd⟩ 4 with
          | none => fail s 0x0A
          | some v =>
            let s : State := s.invalidateOthers none (pa / 64) rev (s.revisioned dom a x.revd x.attr)
            s.writeVirt dom rev a ⟨pa, x.attr, x.revd⟩ 4 ((v + 1) % 2 ^ 32)

/-- The gathered state of a launch's pages is written out at its retirement (15 R204). -/
def State.harvestLaunch (s : State) (id : Nat) : State :=
  s.clusters.foldl (fun s e =>
    let c := s.clusterAt e.1
    let mine := c.tlb.filter (fun x => x.users.contains id)
    if mine.isEmpty then s
    else
      let s : State := mine.foldl (fun s x => s.writeAD x) s
      s.setClusterAt e.1
        { c with tlb := c.tlb.map (fun x =>
            if x.users.contains id then { x.clean with users := x.users.filter (fun i => i != id) } else x) }) s

/-- A launch whose last gang has ended retires. -/
def State.retireLaunch (s : State) (id : Nat) : State :=
  match tget s.launches id with
  | none => s
  | some l =>
    let l : Launch := { l with retired := l.retired + 1 }
    if l.retired < (if l.dead then l.started else recCount l.words) then { s with launches := tset s.launches id l }
    else
      let s : State := s.harvestLaunch id
      let s : State := if l.dead then s else s.addCflag l
      let (_, s) := s.nextSeq
      { s with launches := terase s.launches id }

/-- Whether nothing of a unit is left: no context, and no request of its polders. A HAND or a DETACH that it has issued and that has
not flipped has a window that is closed, and the unit's retirement waits for it (DESIGN CHOICE: log 119). -/
def State.unitDone (s : State) (u : Nat) : Bool :=
  s.threads.all (fun e => e.2.unit != u) && s.saved.all (fun x => x.thread.unit != u) &&
    s.cores.all (fun c => c.2.windows.all (fun w => w.2.holder != u || w.2.st == .opened)) &&
    s.flights.all (fun f =>
      match f.kind with
      | .status (.attach _ _ _ v) _ => v != u
      | .pzero w n => !((s.window? f.party w).any (fun x => x.holder == u && x.polder == n))
      | _ => true)

/-- GANG_RETIRE: a unit whose threads have ended; its windows go, and its launch counts it. -/
def State.gangRetire (s : State) (u : Nat) : State :=
  match s.work u with
  | none => s
  | some w =>
    if !s.unitDone u then s
    else
      let s : State := { s.dropWindows u with units := terase s.units u }
      match w.launch with
      | some l => s.retireLaunch l
      | none => s

def execGangRetire (gang : Nat) (s : State) : Host.Outcome State Fault Refusal := event (fun s => s.gangRetire gang) s

/-! ### Ready rings (03 R43, R44; 09 R127 to R129) -/

def State.setRing (s : State) (ck i : Nat) (r : Nat × Nat) : State :=
  let c := s.coreAt ck
  s.setCoreAt ck { c with rings := vset c.rings i r }

/-- Whether a ring holds an entry. -/
def State.ringHas (s : State) (ck i : Nat) : Bool :=
  let r := vget (s.coreAt ck).rings i (0, 0)
  r.1 != r.2

/-- The access by which a core's rings are read: it sees every store of the core before it. -/
def State.portFlight (s : State) (p : Party) : Flight := { s.issueFlight with party := p }

/-- A ring operation of a kind is noted as the last that the core has served in this cycle. -/
def State.ringMark (s : State) (p : Party) (step : Nat) : State :=
  s.setCore p { s.core p with ringCycle := s.clock p.die, ringStep := step }

/-- Whether a ring operation of the cycle comes too late, in the order of 09 R129: the pop for an idle slot (2) once, then pushes
by CDEC (3), then the push of RPUSH (4). -/
def State.ringLate (s : State) (p : Party) (step : Nat) : Bool :=
  (s.core p).ringCycle == s.clock p.die && decide (step + b2n (step != 2) ≤ (s.core p).ringStep)

/-- Serves the pop for an idle slot or a push by CDEC after the issue of the cycle, and ends it: none where a later operation of
the cycle has been served, or the core has yet to issue, whose RPOP comes first. -/
def State.ringServe (s : State) (p : Party) (step : Nat) : Option State :=
  if s.ringLate p step || s.owesOffer p.die p.core then none
  else
    let s : State := s.ringMark p step
    some (s.setCore p { s.core p with lastCycle := some (s.clock p.die) })

/-- Pushes a descriptor's offset onto the ring that it names, at the core of the ring; none where the ring is full. -/
def State.ringPush (s : State) (p : Party) (off : Nat) : Option State :=
  let ck := Party.coreKey p
  let i := bits (s.readSram (homeByte p off) 8) 57 56
  let r := vget (s.coreAt ck).rings i (0, 0)
  if 64 ≤ r.2 - r.1 then none
  else some ((s.writeSram (homeByte p (0x200 * i + 8 * (r.2 % 64))) 8 off).setRing ck i (r.1, r.2 + 1))

/-- The place of the entry at the head of ring i. -/
def State.ringEntry (s : State) (p : Party) (i : Nat) : Loc :=
  .sram (homeByte p (0x200 * i + 8 * ((vget (s.core p).rings i (0, 0)).1 % 64)))

/-- Pops ring i: the offset. -/
def State.ringPop (s : State) (p : Party) (i : Nat) : Nat × State :=
  let ck := Party.coreKey p
  let r := vget (s.coreAt ck).rings i (0, 0)
  let (v, s) := s.readPort (s.portFlight p) (s.ringEntry p i) 2
  let s : State := s.setRing ck i (r.1 + 1, r.2)
  let c := s.coreAt ck
  (v, s.setCoreAt ck { c with ringC := dispatched c.ringC i })

/-- OVF of a descriptor is set. -/
def State.setOvf (s : State) (p : Party) (off : Nat) : State :=
  let a := homeByte p off + 7
  s.writeSram a 1 (putBits (s.readSram a 1) 2 2 1)

/-- The accesses of an RPUSH to its home polder, in the core's issue order (17 R242): the entry is stored, and OVF is cleared
by an atomic AND of its byte. -/
def State.pushAccesses (s : State) (i at_ off : Nat) : State :=
  let e := 0x200 * i + 8 * (at_ % 64)
  (s.launchFlight .store [mkPart (2 ^ 63 + e) (.sram (homeByte s.cur e)) 8 off] .rlx .core).launchFlight
    (.atomic .and 0xFB 0 0) [mkPart (2 ^ 63 + off + 7) (.sram (homeByte s.cur (off + 7))) 1 0] .rlx .core

/-! ### Codelets (03 R45) -/

/-- Whether a descriptor starts its codelet without a trap. -/
def State.codeletOk (s : State) (q : LQueue) (w : List Nat) : Bool :=
  let w0 := nth w 0 0
  let w2 := nth w 2 0
  let dom := bits w2 38 32
  let rev := bits w2 50 39
  bits w0 63 59 == 0 && bits w2 63 51 == 0 && nth w 3 0 == 0 && w0 % 4 == 0 && q.permits dom &&
    (rev == 0 || (tget s.revs rev).any (fun r => r.live && r.dom == dom))

/-- The context of a codelet. -/
def codeletThread (p : Party) (ctx u : Nat) (q : LQueue) (off : Nat) (w : List Nat) (ok : Bool) : Thread :=
  let t := startThread p ctx u q.tvec
  let slotid := Party.slotid p % 2 ^ 16
  { t with
    pc := w64 (bits (nth w 0 0) 55 0)
    g := vset (vset t.g 3 (.val (w64 (nth w 1 0)))) 4 (.val (w64 (2 ^ 63 + off)))
    domain := w64 (bits (nth w 2 0) 38 32)
    rev := w64 (bits (nth w 2 0) 50 39)
    seed := startSeed (slotid * 2 ^ 16 + off)
    firstTrap := if ok then none else some ⟨0x06, w64 (2 ^ 63 + off), 4⟩ }

/-- The slot of a core that pops for codelets: the lowest-numbered one that holds no context and is not part of a tenant
change. A core whose slots change is changing whole, with its empty slots and those that have changed (03 R45, R48). -/
def State.idleSlot (s : State) (die core : Nat) : Option Nat :=
  if s.queues.any (fun e => !e.2.stopped && e.2.changing.any (fun p => p.die == die && p.core == core)) then none
  else (s.freeSlots die core).find? (fun i => s.queues.all (fun e => !e.2.changing.contains ⟨die, core, i⟩))

/-- Starts the codelet of a descriptor in a slot. -/
def State.loadCodelet (s : State) (p : Party) (qn : Nat) (q : LQueue) (off : Nat) : State :=
  let (v, s) := s.readPort (s.portFlight p) (.sram (homeByte p off)) 32
  let w := wordsOf v 4
  let u := s.nextUnit
  let t := codeletThread p s.nextCtx u q off w (s.codeletOk q w)
  let work : Work := ⟨some qn, none, some off, 0, bits (nth w 2 0) 38 32, [p], 1, 0, 0, 0, .running, none, none, false, none⟩
  let s : State := { s.setWork u work with nextUnit := u + 1, nextCtx := s.nextCtx + 1 }
  s.loadContext p { t with readyAt := s.clock p.die + 1 }

/-- The pop that an idle slot of a core may make: the slot, its queue, the offset and the state after the pop. A pop is a
dispatch (03 R33), and a stopped queue dispatches nothing (DEDUCED: log 101); it waits for accesses of the core to the bytes
that it reads (DEDUCED: log 124). -/
def State.popPlan (s : State) (die core : Nat) : Option (Party × Nat × LQueue × Nat × State) :=
  let p : Party := ⟨die, core, 0⟩
  if !s.corePresent die core || (s.dieAt die).halted then none
  else
    match s.idleSlot die core, s.queueOf die core, select (s.core p).ringC (s.ringHas (Party.coreKey p)) with
    | some k, some qn, some i =>
      match s.queue qn with
      | none => none
      | some q =>
        if q.stopped || s.portBusy p (s.ringEntry p i) 2 false s.nextOp then none
        else
          let (off, s1) := s.ringPop p i
          if s.portBusy p (.sram (homeByte p off)) 32 false s.nextOp then none else some (⟨die, core, k⟩, qn, q, off, s1)
    | _, _, _ => none

/-- Whether a core has yet to make the pop of this cycle for an idle slot (03 R45). -/
def State.owesPop (s : State) (die core : Nat) : Bool :=
  (s.popPlan die core).isSome && (s.ringServe ⟨die, core, 0⟩ 2).isSome

/-- CODELET_START: an idle slot pops a ready ring and starts the codelet, once in a cycle and in its place among the ring
operations of the cycle (09 R129). -/
def State.codeletStart (s : State) (p : Party) : State :=
  match s.ringServe p 2 with
  | none => s
  | some s1 =>
    match s1.popPlan p.die p.core with
    | some (q, qn, x, off, s2) => if q = p then s2.loadCodelet p qn x off else s
    | none => s

def execCodeletStart (p : Party) (s : State) : Host.Outcome State Fault Refusal := event (fun s => s.codeletStart p) s

/-- The pop of the cycle for an idle slot of the core of an RPUSH comes before the push (09 R129). -/
def State.popFirst (s : State) : State :=
  if s.ringLate s.cur 2 then s
  else
    match s.popPlan s.cur.die s.cur.core with
    | some (p, qn, x, off, s1) => (s1.ringMark p 2).loadCodelet p qn x off
    | none => s

/-! ### RPUSH and RPOP (09 R127, R128) -/

/-- RPUSH. A ring that it finds full is not counted in RINGOVF, which counts what 03 R44 counts (DEDUCED: log 104). -/
def effRpush (d a : Reg) (s : State) : Eff := do
  s.checkPoison [a]
  let (x, s) ← s.readG a
  let off := x.toNat
  if bits off 63 16 != 0 || off % 32 != 0 || decide (off < 0x4000) then operandTrap x
  s.checkDest d
  s.checkPort (.sram (homeByte s.cur off)) 8 false
  let (w, s) := s.readNow (.sram (homeByte s.cur off)) 8
  let s : State := s.popFirst
  let i := bits w 57 56
  let ck := Party.coreKey s.cur
  let r := vget (s.coreAt ck).rings i (0, 0)
  if 64 ≤ r.2 - r.1 then pure (s.writeG d 0)
  else
    let s : State := s.ringMark s.cur 4
    pure (((s.setRing ck i (r.1, r.2 + 1)).pushAccesses i r.2 off).writeG d 1)

def execRpush (d a : Reg) (s : State) : Host.Outcome State Fault Refusal := run (effRpush d a) s

/-- RPOP. -/
def effRpop (d a : Reg) (s : State) : Eff := do
  s.checkPoison [a]
  let (x, s) ← s.readG a
  s.checkDest d
  let ck := Party.coreKey s.cur
  let ring := if bit x.toNat 2 then select (s.coreAt ck).ringC (s.ringHas ck)
    else if s.ringHas ck (x.toNat % 4) then some (x.toNat % 4) else none
  match ring with
  | none => pure (s.writeG d 0)
  | some i =>
    s.checkPort (s.ringEntry s.cur i) 2 false
    let (v, s) := s.ringPop s.cur i
    pure (s.writeG d (w64 v))

def execRpop (d a : Reg) (s : State) : Host.Outcome State Fault Refusal := run (effRpop d a) s

/-! ### CDEC (09 R126) -/

def effCdec (a : Reg) (s : State) : Eff := do
  s.checkRelease
  let (x, s) ← s.readG a
  let v := x.toNat
  let off := bits v 15 0
  let core := bits v 23 16
  let die := bits v 27 24
  if bits v 63 28 != 0 || decide (11 < die) || off % 32 != 0 || decide (off < 0x4000) || !s.corePresent die core ||
      !s.inPartition s.cur s.src die core then operandTrap x
  let l : Loc := .sram (homeByte ⟨die, core, 0⟩ (off + 0x10))
  pure (s.launchFlight (.cdec die core off) [mkPart (2 ^ 63 + off + 0x10) l 4 0] .rlx .pkg)

def execCdec (a : Reg) (s : State) : Host.Outcome State Fault Refusal := run (effCdec a) s

/-- Whether an RPUSH of a core has yet to clear OVF of a descriptor: a CDEC is atomic against it (09 R126). -/
def State.clearing (s : State) (p : Party) (off : Nat) : Bool :=
  s.flights.any (fun f => f.party.die == p.die && f.party.core == p.core &&
    (match f.kind with
      | .atomic .and 0xFB _ 0 => f.parts.any (fun q => q.open_ && q.loc == .sram (homeByte p (off + 7)))
      | _ => false))

/-- COUNT of a descriptor as the target core holds it; one with an uncorrectable error has no value that the manual states
(DESIGN CHOICE: log 21). -/
def State.countOf (s : State) (p : Party) (off : Nat) : Nat × State :=
  let a := homeByte p (off + 0x10)
  if poisonIn s.sramPoison a 4 then
    let (v, s) := s.fresh
    (v.toNat % 2 ^ 32, s)
  else (s.readSram a 4, s)

/-- CDEC_PERFORM: the decrement at the target core, and the push where it completes the count, in its place in the cycle. -/
def State.cdecPerform (s : State) (op : Nat) : State :=
  match s.flight? op with
  | none => s
  | some f =>
    match f.kind with
    | .cdec die core off =>
      let p : Party := ⟨die, core, 15⟩
      if f.moved || !s.mayPerform f 0 || s.clearing p off then s
      else
        let (c, s1) := s.countOf p off
        let s1 : State := (s1.dropFlight op).writeSram (homeByte p (off + 0x10)) 4 ((c + 2 ^ 32 - 1) % 2 ^ 32)
        if c != 1 then s1
        else
          match s1.ringServe p 3 with
          | none => s
          | some s1 =>
            match s1.ringPush p off with
            | some s1 => s1
            | none => ((s1.setOvf p off).addEv (die * 256 + core) evRingovf 1).message p 1 (w64 off)
    | _ => s

def execCdecPerform (op : Nat) (s : State) : Host.Outcome State Fault Refusal := event (fun s => s.cdecPerform op) s

/-! ### LAUNCH (09 R124, R125) -/

def effLaunch (d a b : Reg) (s : State) : Eff := do
  s.checkRelease
  let (ga, gb, s) ← s.read2 a b
  if isLocal ga.toNat then operandTrap ga
  let q := ga.toNat / 128 * 128
  let s ← s.checkGlobal (q + 0x10 * (ga.toNat % 4)) 16 (needR + needW)
  let (l, s) ← s.checkAccess gb.toNat 96 1 needR
  s.checkAsync d
  pure ((s.emptyG d).launchFlight (.status (.launch ga.toNat gb.toNat) d.val) [mkPart gb.toNat l 96 0] .rlx .sys)

def execLaunch (d a b : Reg) (s : State) : Host.Outcome State Fault Refusal := run (effLaunch d a b) s

/-- The check of an access that a unit makes for an operation issued before, with the PLB fills that it needs. -/
def State.unitCheck (s : State) (ck dom : Nat) (sup : Bool) (need addr n : Nat) : Nat → Bool × State
  | 0 => (false, s)
  | fuel + 1 =>
    match s.rights ck dom sup need 260 addr (addr + n) [] with
    | .ok used => (true, s.usePlb ck used)
    | .fail .. => (false, s)
    | .miss a =>
      match s.searchRegion dom a with
      | .ok e => (s.setCoreAt ck ((s.coreAt ck).plbUse e)).unitCheck ck dom sup need addr n fuel
      | .error _ => (false, s)

/-- A write of an operation at its home, in the revision of the flight: none, or the kind of its failure. -/
def State.homeWrite (s : State) (f : Flight) (a n v : Nat) : Option Nat × State :=
  match s.translate (Party.clusterKey f.party) a f.rev true (s.launchOf f.party) with
  | (.error k, s) => (some k, s)
  | (.ok x, s) =>
    let s : State := s.l2Touch f.party.die f.dom a x.pa x.attr true
    let s : State := s.invalidateOthers none (x.pa / 64) f.rev (s.revisioned f.dom a x.revd x.attr)
    (none, s.writeVirt f.dom f.rev a x n v)

/-- Reads pieces of 32 bytes: their value, or the kind of the first failure. -/
def State.readPieces (s : State) (f : Flight) (a : Nat) (l : Loc) : List Nat → Except Nat Nat × State
  | [] => (.ok 0, s)
  | i :: r =>
    match s.readPart f (mkPart (a + 32 * i) (l.plus (32 * i)) 32 0) with
    | (.error k, s) => (.error k, s)
    | (.ok v, s) =>
      match s.readPieces f a l r with
      | (.ok x, s) => (.ok (v + 2 ^ 256 * x), s)
      | e => e

/-- Writes pieces of 32 bytes. -/
def State.writePieces (s : State) (f : Flight) (a v : Nat) : List Nat → Option Nat × State
  | [] => (none, s)
  | i :: r =>
    match s.homeWrite f (a + 32 * i) 32 (v / 2 ^ (256 * i) % 2 ^ 256) with
    | (some k, s) => (some k, s)
    | (none, s) => s.writePieces f a v r

/-- The append of LAUNCH: its status, or the kind of a failure that poisons gd and the address of the access that failed. -/
def State.append (s : State) (f : Flight) (ga gb : Nat) : Except (Nat × Nat) Nat × State :=
  let q := ga / 128 * 128
  let p := ga % 4
  let e := q + 0x10 * p
  let own : Flight := { f with kind := .load (.tile 0) }
  let base : Flight := { own with rev := 0 }
  let l : Option Loc := match f.parts with
    | x :: _ => some x.loc
    | [] => s.locOf f.party gb
  if bits ga 6 2 != 0 || gb % 32 != 0 then (.ok 0xFFFFFFFFFFFFFFFD, s)
  else
    match s.readPart base (mkPart e (.va e) 16 0), l with
    | (.error k, s), _ => (.error (k, e), s)
    -- sent again by ERET after its window has been closed: the record cannot be read
    | (.ok _, s), none => (.error (8, gb), s)
    | (.ok v, s), some l =>
      let size := 2 ^ bits v 59 56
      let t := bits v 95 64
      let h := bits v 127 96
      if 12 < bits v 59 56 then (.ok 0xFFFFFFFFFFFFFFFE, s)
      else if size ≤ (t + 2 ^ 32 - h) % 2 ^ 32 then (.ok 0xFFFFFFFFFFFFFFFF, s)
      else
        match s.readPieces own gb l [0, 1, 2] with
        | (.error k, s) => (.error (k, gb), s)
        | (.ok w, s) =>
          let to_ := bits v 55 0 + 96 * (t % size)
          match s.unitCheck (Party.coreKey f.party) f.dom f.sup needW to_ 96 4 with
          | (false, s) => (.ok 0xFFFFFFFFFFFFFFFC, s)
          | (true, s) =>
            match s.writePieces base to_ w [0, 1, 2] with
            | (some k, s) => (.error (k, to_), s)
            | (none, s) =>
              match s.homeWrite base (e + 8) 4 ((t + 1) % 2 ^ 32) with
              | (some k, s) => (.error (k, e + 8), s)
              | (none, s) =>
                let r := recRev (wordsOf w 12)
                (.ok t, if r = 0 then s else { s with pendingRevs := s.pendingRevs ++ [(q, p, t, r)] })

/-- LAUNCH is performed, and its status returns. -/
def State.launchDone (s : State) (f : Flight) (ga gb d : Nat) : State :=
  match s.append f ga gb with
  | (.ok v, s) => s.statusArrive f d (.val (w64 v))
  | (.error (k, a), s) =>
    let r : Replay := { f.replay (.launch gb a) false true k with addr := ga, log2 := 3 }
    s.statusArrive f d (.poison r)

end Sys2Proof.Machine
end

