-- ==== Sys2Proof/Machine/Image.lean ====
section
/-! DEFINITION. The context image and its extension record as they stand in memory (23 R314, R315, Tables 23.2 and
23.3; DESIGN CHOICE: log 29). -/

namespace Sys2Proof.Machine

/-! ### The image (23 Table 23.2) -/

/-- Register gn of an image; an empty or a poisoned one has no value that the manual states (DESIGN CHOICE: log 21). -/
def Thread.imageG (t : Thread) (free n : Nat) : Nat :=
  match vget t.g n (.val 0) with
  | .val w => w.toNat
  | _ => (Config.freeValue (free + n)).toNat

/-- The word of the counts of q1 to q7. -/
def Thread.imageQ (t : Thread) (free : Nat) : Nat :=
  (List.range 7).foldl (fun a i =>
    a + 2 ^ (8 * i) * (match vget t.q (i + 1) (.val 0) with
      | .val n => n % 256
      | .empty _ => (Config.freeValue (free + 32 + i)).toNat % 256)) 0

/-- The word at 0x158. -/
def Thread.imageModes (t : Thread) : Nat :=
  let tile := match t.tile with
    | some k => k.val + 8
    | none => 0
  t.fmta.toNat % 64 + t.fmtb.toNat % 64 * 2 ^ 8 + t.dom * 2 ^ 16 + t.revNo * 2 ^ 24 + tile * 2 ^ 36

/-- TCMP − TIMER, or 0. -/
def State.tleft (s : State) (p : Party) (t : Thread) : Word := if t.tcmp = 0 then 0 else t.tcmp - w64 (s.clock p.die)

/-- The 48 words of an image; `last` holds XADDR and HW. -/
def State.imageWords (s : State) (t : Thread) (status pc tleft : Word) (last : Nat) : List Nat :=
  (List.range 31).map (fun i => t.imageG s.freeCount (i + 1)) ++
    [pc.toNat, status.toNat, t.epc.toNat, t.ecause.toNat, t.eaddr.toNat, t.einfo.toNat, t.tvec.toNat, tleft.toNat,
      t.seed.toNat, t.arg.toNat, t.scla.toNat, t.sclb.toNat, t.imageModes, t.imageQ s.freeCount,
      t.btoDie % 2 ^ 32 + t.btoPkg % 2 ^ 32 * 2 ^ 32, t.mfault.toNat, last]

/-- Words as one number, the first lowest. -/
def joinWords (ws : List Nat) : Nat := ws.foldr (fun w a => w % 2 ^ 64 + 2 ^ 64 * a) 0

/-! ### Items of the extension record (23 Table 23.3) -/

/-- An item: a tag, then contents, filled with zeros to whole units of 32 bytes. -/
def item (type tag : Nat) (ws : List Nat) : List Nat :=
  let units := (ws.length + 1 + 3) / 4
  (type + units % 256 * 2 ^ 8 + tag) :: (ws ++ List.replicate (units * 4 - ws.length - 1) 0)

/-- A field of the tag that lies below bit 16, where the type and the length stand (DESIGN CHOICE: log 29). -/
def tagField (v lo : Nat) : Nat := v * 2 ^ (lo + 16)

/-- The word at 0x10 of item 1. -/
def accessWord (log2 : Nat) (signed : Bool) (o : Ordering) (sc : Scope) (dom rev kind : Nat) : Nat :=
  log2 % 4 + b2n signed * 2 ^ 2 + o.code % 4 * 2 ^ 3 + sc.code % 8 * 2 ^ 5 + dom % 128 * 2 ^ 8 + rev % 4096 * 2 ^ 15 +
    kind % 16 * 2 ^ 27

/-- Items 1 and 10. -/
def Replay.item (r : Replay) (reg : Nat) : List Nat :=
  match r.op with
  | .launch gb _ =>
    Machine.item 10 (reg * 2 ^ 16) [r.addr, r.dom % 128 * 2 ^ 8 + r.rev % 4096 * 2 ^ 15 + r.kind % 16 * 2 ^ 27, r.iaddr, gb, 0, 0, 0]
  | _ => Machine.item 1 (reg * 2 ^ 16) [r.addr, accessWord r.log2 r.signed r.ord r.scope r.dom r.rev r.kind, r.iaddr]

/-- Parts of a store in runs of bytes that follow each other, of at most 128 bytes: one for each item 2 that holds it. -/
def partRuns : List Part → List (List Part)
  | [] => []
  | p :: rest =>
    match partRuns rest with
    | (q :: qs) :: runs =>
      if p.addr + p.size = q.addr ∧ p.size + ((q :: qs).map (·.size)).sum ≤ 128 then (p :: q :: qs) :: runs
      else [p] :: (q :: qs) :: runs
    | runs => [p] :: runs

/-- The items of a held store: of type 2, one for each run of its bytes, or of type 9 for a scatter. -/
def State.heldItems (s : State) (h : Held) : List (List Nat) :=
  match h.what with
  | .flight f =>
    let n := (f.parts.head?.map (·.size)).getD 1
    let meta_ := accessWord (Nat.log2 n) false f.ord f.scope f.dom f.rev h.kind
    match f.kind with
    | .scatter ga idx data =>
      let mask := (List.range 128).foldl (fun m i =>
        if f.parts.any (fun q => q.addr == laneAddr (w64 ga) idx (8 * n) i) then m + 2 ^ i else m) 0
      [item 9 0 ([ga, meta_, f.iaddr, mask % 2 ^ 64, mask / 2 ^ 64, 0, 0] ++ wordsOf idx.toNat 16 ++ wordsOf data.toNat 16)]
    | _ =>
      match partRuns f.parts with
      | [] => [item 2 0 [0, meta_, f.iaddr]]
      | runs => runs.map (fun ps =>
          item 2 0 ([(ps.head?.map (·.addr)).getD 0, meta_, f.iaddr] ++ wordsOf (joinParts ps) (((ps.map (·.size)).sum + 7) / 8)))
  | .copy op off i a =>
    let c := s.dies.findSome? (fun e => e.2.engines.findSome? (fun g => g.2.queue.find? (fun c => c.op == op)))
    match c with
    | some c => [item 2 0 [a, accessWord 0 false .rlx c.scope c.dom c.rev h.kind, i, c.dstA + off, c.srcA + off, c.len - off,
        c.flag.getD 0]]
    | none => [item 2 0 [a, 0, i]]
  | .stitch c i a =>
    match tget s.revs c with
    | none => [item 2 0 [a, accessWord 0 false .rlx .pkg 0 0 h.kind, i]]
    | some r =>
      let e := (r.joining.map (s.joinTodo r)).bind (fun l => l.find? (fun x => x.1 == a))
      match e with
      | none => [item 2 0 [a, accessWord 0 false .rlx .pkg r.dom r.parent h.kind, i]]
      | some e => [item 2 0 [a, accessWord (Nat.log2 e.2.2.1) false .rlx .pkg r.dom r.parent h.kind, i, s.stitchValue c r e]]

/-- Rows before the position at which a stream is recorded: of an inbound one those popped, but for rows that a matrix command
has claimed and has yet to receive; of an outbound one those pushed (19 R263). -/
def Stream.base (x : Stream) : Nat := if x.outbound then x.moved else Nat.min x.moved x.filled

/-- Item 3. -/
def Stream.item (x : Stream) (k : Nat) : List Nat :=
  Machine.item 3 (tagField k 0) ([x.qcw.toNat, x.pos + x.base * (128 / x.esize), 0] ++ (List.range 8).map x.word)

/-- Words of an inbound endpoint's buffer, oldest first. -/
def State.chanWords (s : State) (p : Party) (c : Chan) : List Nat :=
  if c.out then []
  else (List.range c.b).map (fun i => s.readSram (homeByte p (0x0800 + 0x100 * c.rbuf + 8 * ((c.head + i) % 32))) 8)

/-- Item 4. -/
def Chan.item (c : Chan) (k : Nat) (ws : List Nat) : List Nat :=
  Machine.item 4 (tagField k 0 + tagField (b2n c.out) 3 + tagField (b2n c.auto) 4)
    ([c.ep + c.peer.slot * 2 ^ 8 + c.peer.core * 2 ^ 12 + c.peer.die * 2 ^ 20, c.b + c.g * 2 ^ 8 + c.a * 2 ^ 16, 0] ++ ws)

/-- Item 5. -/
def Tile.item (t : Tile) (k : Nat) : List Nat :=
  let mask := (List.range 32).foldl (fun m i =>
    match (vget t.rows i ⟨0, .full⟩).fill with
    | .poison _ => m + 2 ^ i
    | _ => m) 0
  Machine.item 5 (tagField k 0 + tagField (Fmt.code t.typ) 4 + mask * 2 ^ 32)
    ([0, 0, 0] ++ t.rows.toList.flatMap (fun r => wordsOf r.data.toNat 16))

/-- Item 6. -/
def WSlot.item (w : WSlot) (k : Nat) : List Nat :=
  Machine.item 6 (tagField k 0 + tagField w.recs.length 4 + tagField w.code 7)
    ([0, 0, 0] ++ w.recs.flatMap (fun r => [r.ga.toNat, r.gb.toNat]))

/-- Item 7. -/
def MatCmd.item (m : MatCmd) : List Nat :=
  Machine.item 7 0 [m.word % 2 ^ 32 + m.fmta % 64 * 2 ^ 32 + m.fmtb % 64 * 2 ^ 40, m.ga, m.gb]

/-- Item 8. -/
def windowItem (w : Nat) (x : Window) (e : Attach) : List Nat :=
  item 8 (tagField w 0 + tagField (b2n x.pin.isSome) 6 + tagField (x.pin.getD 0) 7) [e.word]

/-! ### A context's record -/

/-- What a record holds beside the context itself. -/
structure Baggage where
  cause : Nat
  tiles : List (Nat × Tile)
  weights : List (Nat × WSlot)
  cmds : List MatCmd
  windows : List (Nat × Window × Attach)

/-- The extension record. -/
def State.extension (s : State) (p : Party) (t : Thread) (b : Baggage) : List Nat :=
  let items :=
    t.poisonedRegs.map (fun e => e.2.item e.1) ++ t.held.flatMap s.heldItems ++
      (List.range 8).filterMap (fun k => (t.stream? k).map (fun x => x.item k)) ++
      (List.range 8).filterMap (fun k => (t.chan? k).map (fun c => c.item k (s.chanWords p c))) ++
      b.tiles.map (fun e => e.2.item e.1) ++ b.weights.map (fun e => e.2.item e.1) ++ b.cmds.map MatCmd.item ++
      b.windows.map (fun e => windowItem e.1 e.2.1 e.2.2)
  let body := items.flatMap id
  let units := 1 + body.length / 4
  let pmask := t.poisonedRegs.foldl (fun m e => m + 2 ^ e.1) 0
  [t.wid.toNat, t.wfmt.toNat, b.cause % 256 + items.length % 256 * 2 ^ 8 + units % 65536 * 2 ^ 16, pmask] ++ body

/-- The image and the extension that the device writes at a physical address. -/
def State.recordWords (s : State) (p : Party) (t : Thread) (b : Baggage) (addr : Nat) : List Nat :=
  s.imageWords t (s.statusOf p) t.pc (s.tleft p t) ((addr + 384) % 2 ^ 56 + 2 ^ 56) ++ s.extension p t b

/-- Writes 64-bit words at a physical address. -/
def State.writeWords (s : State) (addr : Nat) (ws : List Nat) : State :=
  s.putHome addr (8 * ws.length) (joinWords ws)

/-! ### A record read again (23 R320) -/

/-- The items of a record: tags and contents. -/
def parseItems : Nat → List Nat → List (Nat × List Nat)
  | 0, _ => []
  | n + 1, ws =>
    match ws with
    | [] => []
    | tag :: r =>
      let len := 4 * bits tag 15 8
      (tag, r.take (len - 1)) :: parseItems n (ws.drop len)

/-- A stream with the descriptor, the control word and the position of its item. -/
def Stream.reread (x : Stream) (ws : List Nat) : Stream :=
  let x : Stream := { x with qcw := w64 (nth ws 0 0) }
  let d := (List.range 8).map (fun i => nth ws (3 + i) 0)
  let put := if x.isToken then d else setNth d 4 (putBits (nth d 4 0) 47 0 (nth ws 1 0 - x.base * (128 / x.esize)))
  { x with words := x.words.map (fun _ => put) }

/-- An endpoint with the counts of its item. -/
def Chan.reread (c : Chan) (ws : List Nat) : Chan :=
  let w := nth ws 1 0
  { c with b := bits w 5 0, g := bits w 13 8, a := bits w 21 16 }

/-- A tile with the rows of its item. -/
def Tile.reread (t : Tile) (ws : List Nat) : Tile :=
  { t with rows := Vector.ofFn (fun (i : Fin 32) =>
      { t.rows[i] with data := BitVec.ofNat 1024 (joinWords ((ws.drop (3 + 16 * i.val)).take 16)) }) }

/-- A weight slot with the records of its item. -/
def WSlot.reread (w : WSlot) (ws : List Nat) : WSlot :=
  { w with recs := (w.recs.zip (List.range w.recs.length)).map (fun r =>
      { r.1 with ga := w64 (nth ws (3 + 2 * r.2) 0), gb := w64 (nth ws (4 + 2 * r.2) 0) }) }

/-- A saved context with an item of its record. The operations of items 1, 2, 7, 9 and 10 and the windows of item 8 are
restored as they were saved (DESIGN CHOICE: log 29). -/
def Saved.withItem (x : Saved) (tag : Nat) (ws : List Nat) : Saved :=
  let k := bits tag 18 16
  match tag % 256 with
  | 3 => { x with thread := x.thread.setStream k ((x.thread.stream? k).map (fun y => y.reread ws)) }
  | 4 =>
    { x with
      thread := x.thread.setChan k ((x.thread.chan? k).map (fun c => c.reread ws))
      words := x.words.map (fun e => if e.1 == k then (k, (ws.drop 3).take e.2.length) else e) }
  | 5 => { x with tiles := x.tiles.map (fun e => if e.1 == k then (k, e.2.reread ws) else e) }
  | 6 =>
    let w := bits tag 19 16
    { x with weights := x.weights.map (fun e => if e.1 == w then (w, e.2.reread ws) else e) }
  | _ => x

/-- Items are added to a record that stands in memory: its words. -/
def State.extendedWords (s : State) (x : Saved) (addr : Nat) (items : List (List Nat)) : List Nat :=
  let ws := wordsOf (s.readPa x.addr x.len) (x.len / 8)
  let body := items.flatMap id
  let h := nth ws 50 0
  let h := putBits (putBits h 15 8 (bits h 15 8 + items.length)) 31 16 (bits h 31 16 + body.length / 4)
  setNth (setNth ws 50 h) 47 ((addr + 384) % 2 ^ 56 + 2 ^ 56) ++ body

end Sys2Proof.Machine
end

