-- ==== Sys2Proof/Machine/Routing.lean ====
section
/-! DEFINITION. Token routing: replica tables, ROUTE, RTSWAP, SPTAKE and token queues (19 R282 to R286). -/

namespace Sys2Proof.Machine

/-! ### Replica tables (19 R282, Table 19.11) -/

def replicaOk (w : Nat) : Bool := bits w 62 14 == 0 && decide (bits w 11 8 ≤ 11)

/-- Replica words of an entry; its count is the number of valid ones, which form a prefix. -/
def entryWords (bank : List Nat) (e : Nat) : List Nat := (List.range 4).map (fun k => nth bank (4 * e + k) 0)

def entryCount (bank : List Nat) (e : Nat) : Nat := ((entryWords bank e).takeWhile (fun w => bit w 63)).length

/-- Whether an image breaks Table 19.11. -/
def bankOk (bank : List Nat) : Bool :=
  (List.range 256).all (fun e =>
    let ws := entryWords bank e
    ws.all replicaOk && ((ws.dropWhile (fun w => bit w 63)).all (fun w => !bit w 63)))

/-! ### ROUTE (19 R284) -/

def effRoute (d a b : Reg) (s : State) : Eff := do
  if (s.aliasStream b).isNone then
    let _ ← s.boundTile
  s.checkPoisonGV [a] [b]
  let (x, s) ← s.readG a
  let (row, s) ← s.readV b
  s.checkAsync d
  let v := x.toNat
  let bank := (s.dieAt s.cur.die).bank
  let c := entryCount bank (v % 256)
  if bits v 63 40 != 0 then pure (s.writeG d 4)
  else if c == 0 then pure (s.writeG d 3)
  else
    let k := bits v 39 8 % c
    let w := nth bank (4 * (v % 256) + k) 0
    pure ((s.emptyG d).launchFlight (.token row w k d.val s.swaps) [] .rlx .pkg)

def execRoute (d a b : Reg) (s : State) : Host.Outcome State Fault Refusal := run (effRoute d a b) s

/-- Rows of a token queue's spillway ring, and the address of a row in it (19 R283). -/
def Stream.spRows (x : Stream) : Nat := 2 ^ (bits (x.word 5) 59 56 + 4)
def Stream.spAddr (x : Stream) (n : Nat) : Nat := bits (x.word 5) 55 0 + 128 * (n % x.spRows)

/-- The access by which the ingress unit works on a spillway ring, in the base revision (21 R305). -/
def Stream.ingress (x : Stream) (p : Party) (ctx id : Nat) (kind : FlightKind) : Flight :=
  { x.flight p ctx with kind := kind, id := id, rev := 0 }

/-- A store of a row to a spillway ring. -/
def State.spill (s : State) (p : Party) (ctx : Nat) (x : Stream) (row : Row) : Bool × State :=
  let f : Flight := x.ingress p ctx s.nextOp .store
  (List.range 8).foldl (fun o i =>
    if !o.1 then o
    else
      let a := x.spAddr x.spTail + 16 * i
      match o.2.writePart f (mkPart a (.va a) 16 (row.toNat / 2 ^ (128 * i) % 2 ^ 128)) with
      | (none, s) => (true, s)
      | (some _, s) => (false, s)) (true, { s with nextOp := s.nextOp + 1 })

/-- Places a token: its status. A spillway store that fails is a token refused (DEDUCED: log 27). -/
def State.placeToken (s : State) (p : Party) (k : Nat) (x : Stream) (row : Row) : Nat × State :=
  let ctx := (s.thread p).ctx
  if x.filled - x.moved < x.depth && x.spHead == x.spTail && x.bad.isEmpty then (0, s.rowArrives p k x row none)
  else if x.spTail - x.spHead < x.spRows then
    match s.spill p ctx x row with
    | (true, s) =>
      let s : State := s.addEv (Party.coreKey p) evSpill 1
      (1, s.mapThread p (fun t => t.putStreamAt k { x with spTail := x.spTail + 1 }))
    | (false, s) => (2, s)
  else (2, s)

/-- The token queues that entries of a replica word's core forward a token to, which was resolved under a bank (19 R286). -/
def State.queuesBeyond (s : State) (w gen : Nat) : List Nat :=
  (s.coreAt (bits w 11 8 * 256 + w % 256)).fwd.filterMap (fun z =>
    match z with
    | .queue op g => if gen ≤ g then some op else none
    | _ => none)

/-- Whether an entry of a replica word's core forwards to a queue that is on its way to a new core (23 R323). -/
def State.queueMoving (s : State) (w gen : Nat) : Bool :=
  s.saved.any (fun x => x.cause == 0x09 && (List.range 8).any (fun k => (x.thread.stream? k).any (fun y =>
    y.qid == some (bits w 13 12) && (s.queuesBeyond w gen).contains y.op)))

/-- The queue that a replica word reaches, for a token resolved under a bank: one that has migrated from its core, which the
core's entry forwards to until the next swap, whatever is bound there since; or the one bound there (19 R286). -/
def State.tokenTarget (s : State) (w gen : Nat) : Option (Party × Nat × Stream) :=
  let beyond := (s.queuesBeyond w gen).findSome? (fun op => s.contexts.findSome? (fun (e : Party × Thread) =>
      (List.range 8).findSome? (fun k => (e.2.stream? k).bind (fun x =>
        if x.op == op && x.qid == some (bits w 13 12) then some (e.1, k, x) else none))))
  if s.queueMoving w gen then none else beyond.orElse (fun _ => s.tokenQueue (bits w 11 8) (w % 256) (bits w 13 12))

/-- Whether an earlier token of a thread is on its way to the same queue: its replica word names the same core and number, or
reaches the same queue. -/
def State.earlierToken (s : State) (f : Flight) (w gen : Nat) : Bool :=
  let queue (v g : Nat) : Option Nat := (s.tokenTarget v g).map (fun r => r.2.2.op)
  s.flights.any (fun e => e.ctx == f.ctx && decide (e.id < f.id) &&
    (match e.kind with
      | .token _ v _ _ g => v % 2 ^ 14 == w % 2 ^ 14 || ((queue v g).isSome && queue v g == queue w gen)
      | _ => false))

/-- The queue of a domain that a token reaches. -/
def State.queueAt (s : State) (w dom gen : Nat) : Option (Party × Nat × Stream) :=
  (s.tokenTarget w gen).bind (fun r => if r.2.2.dom == dom then some r else none)

/-- Whether the queue that a token goes to is on its way to a new core: the token waits for it (23 R323). While its context
is pre-empted, the queue is not bound and there is no such queue (DEDUCED: log 73). -/
def State.queueSaved (s : State) (w dom gen : Nat) : Bool :=
  s.saved.any (fun x => x.cause == 0x09 && (List.range 8).any (fun k => (x.thread.stream? k).any (fun y =>
    y.qid == some (bits w 13 12) && y.dom == dom &&
      ((x.party.die == bits w 11 8 && x.party.core == w % 256) || (s.queuesBeyond w gen).contains y.op))))

/-- TOKEN_ARRIVAL: a token reaches the ingress unit of its replica's die, and its status returns. -/
def State.tokenArrive (s : State) (op : Nat) : State :=
  match s.flight? op with
  | none => s
  | some f =>
    match f.kind with
    | .token row w k d gen =>
      if f.moved || !s.mayPerform f 0 || s.earlierToken f w gen then s
      else
        match s.queueAt w f.dom gen with
        | none =>
          if s.queueSaved w f.dom gen then s else (s.statusArrive f d (.val (w64 (5 + k * 2 ^ 8)))).pruneQueues
        | some (p, j, x) =>
          match s.placeToken p j x row with
          | (v, s) => (s.statusArrive f d (.val (w64 (v + k * 2 ^ 8)))).pruneQueues
    | _ => s

def execTokenArrival (op : Nat) (s : State) : Host.Outcome State Fault Refusal := event (fun s => s.tokenArrive op) s

/-- TOKEN_DRAINED: no token resolved under an earlier bank is on its way to the queue, whichever core it names. -/
def State.tokenDrain (s : State) (die core qid : Nat) : State :=
  match s.tokenQueue die core qid with
  | none => s
  | some (p, k, x) =>
    let old := s.flights.any (fun f =>
      match f.kind with
      | .token _ w _ _ gen => decide (gen < s.swaps) && (s.tokenTarget w gen).any (fun r => r.1 == p && r.2.1 == k)
      | _ => false)
    if old then s else s.mapThread p (fun t => t.putStreamAt k { x with drained := true })

def execTokenDrained (die core qid : Nat) (s : State) : Host.Outcome State Fault Refusal :=
  event (fun s => s.tokenDrain die core qid) s

/-! ### RTSWAP (19 R286) -/

def effRtswap (d a : Reg) (s : State) : Eff := do
  s.needSup
  s.checkPoison [a]
  let (x, s) ← s.readG a
  s.checkAsync d
  if isLocal x.toNat || x.toNat % 256 != 0 || bits x.toNat 62 56 != 0 then pure (s.writeG d 3)
  else
    let s ← s.checkGlobal x.toNat 8192 needR
    pure ((s.emptyG d).launchFlight (.status (.rtswap x.toNat) d.val) [] .rlx .pkg)

def execRtswap (d a : Reg) (s : State) : Host.Outcome State Fault Refusal := run (effRtswap d a) s

/-- Reads 128-byte rows of global memory for a status operation: the rows, or the address and kind of a failure. -/
def State.readRows (s : State) (f : Flight) (a : Nat) : List Nat → Except (Nat × Nat) (List Nat) × State
  | [] => (.ok [], s)
  | i :: r =>
    match s.readPart { f with kind := .load (.tile 0) } (mkPart (a + 128 * i) (.va (a + 128 * i)) 128 0) with
    | (.error k, s) => (.error (a + 128 * i, k), s)
    | (.ok v, s) =>
      match s.readRows f a r with
      | (.ok vs, s) => (.ok (v :: vs), s)
      | e => e

/-- RTSWAP at the ingress units: the image is loaded into the next bank of every present die. Where the image cannot be read,
no status is stated and poison reaches no register (15 R199): nothing is loaded, and the status is a free value
(DESIGN CHOICE: log 46). -/
def State.loadBanks (s : State) (f : Flight) (a d : Nat) : State :=
  if s.swapPending then s.statusArrive f d (.val 1)
  else
    match s.readRows f a (List.range 64) with
    | (.error _, s) =>
      let (v, s) := s.fresh
      s.statusArrive f d (.val v)
    | (.ok rows, s) =>
      let bank := rows.flatMap (fun v => wordsOf v 16)
      if !bankOk bank then s.statusArrive f d (.val 2)
      else
        let s : State := { s with
          swapPending := true
          dies := s.dies.map (fun e => (e.1, if e.2.started then { e.2 with bankNext := some bank } else e.2)) }
        s.statusArrive f d (.val 0)

/-! ### SPTAKE (19 R285) -/

def effSptake (d : Reg) (k : Reg8) (s : State) : Eff := do
  match s.me.stream? k.val with
  | none => streamTrap k.val 2
  | some x =>
    if x.outbound then streamTrap k.val 4
    x.needWords k.val
    if x.qid.isNone then streamTrap k.val 4
    s.checkAsync d
    pure ((s.emptyG d).launchFlight (.status (.sptake k.val) d.val) [] .rlx .pkg)

def execSptake (d : Reg) (k : Reg8) (s : State) : Host.Outcome State Fault Refusal := run (effSptake d k) s

/-- Moves tokens from the spillway to the buffer, one for each unit of fuel: how many, or a failure. -/
def State.takeSpilled (s : State) (f : Flight) (k : Nat) : Nat → Nat → Except (Nat × Nat) Nat × State
  | 0, n => (.ok n, s)
  | fuel + 1, n =>
    match (s.thread f.party).stream? k with
    | none => (.ok n, s)
    | some x =>
      let a := x.spAddr x.spHead
      match s.readPart (x.ingress f.party f.ctx f.id (.load (.tile 0))) (mkPart a (.va a) 128 0) with
      | (.error kind, s) => (.error (a, kind), s)
      | (.ok v, s) =>
        let s : State := s.rowArrives f.party k { x with spHead := x.spHead + 1 } (BitVec.ofNat 1024 v) none
        s.takeSpilled f k fuel (n + 1)

/-- SPTAKE at its queue: gd receives m. Where a token cannot be read, the manual states no m and poison reaches no register
(15 R199): the move stops before that token, and gd is a free value (DESIGN CHOICE: log 46). -/
def State.sptakeDone (s : State) (f : Flight) (k d : Nat) : State :=
  match (s.thread f.party).stream? k with
  | none => s.statusArrive f d (.val 0)
  | some x =>
    let m := Nat.min (x.depth - (x.filled - x.moved)) (x.spTail - x.spHead)
    match s.takeSpilled f k m 0 with
    | (.ok n, s) => s.statusArrive f d (.val (w64 n))
    | (.error _, s) =>
      let (v, s) := s.fresh
      s.statusArrive f d (.val v)

end Sys2Proof.Machine
end

