-- ==== Sys2Proof/Machine/Contexts.lean ====
section
/-! DEFINITION. Contexts that leave their slot and return: SWAPOUT and SWAPIN, pre-emption, the watchdog, tenants,
migration and forwarding (03 R48; 13 R189; 23 R316 to R326). -/

namespace Sys2Proof.Machine

/-! ### SWAPOUT (23 R316, R317) -/

/-- The address of an image: in the thread-context cache, or in a register. -/
def State.imageAddr (s : State) : ImageRef → Except Stop (Word × State)
  | .cache i => .ok (w64 (2 ^ 63 + 0x1000 + 384 * i.val), s)
  | .at ga => s.readG ga

/-- A register that an image reads while it is empty parks; so does a count. -/
def State.checkFilled (s : State) : Except Stop Unit :=
  let t := s.src
  match (List.range 32).find? (fun r => match vget t.g r (.val 0) with
    | .empty _ => true
    | _ => false) with
  | some r => .error (.park (.reg r))
  | none => if t.q.all (fun c => match c with
      | .val _ => true
      | .empty _ => false) then .ok () else .error (.park .pred)

/-- STATUS of the context that the handler interrupted. -/
def swapStatus (w : Word) : Word :=
  let w1 := wset (wset w stMode (wbit w stPmode)) stIe (wbit w stPie)
  wset (wset (wset (wset w1 stPmode false) stPie false) stMpend false) stEpend false

def effSwapout (i : ImageRef) (s : State) : Eff := do
  s.needSup
  s.checkRelease
  let (a, s) ← s.imageAddr i
  if a.toNat % 128 != 0 then operandTrap a
  let (l, s) ← s.checkAccess a.toNat 384 128 needW
  s.checkWeir a.toNat l 384 true
  let t := s.src
  if !s.earlierDone t.ctx s.nextOp true true then .error (.park (.drained s.nextOp))
  let c : CoreSt := s.core s.cur
  match c.mq.find? (fun m => m.ctx == t.ctx && m.held) with
  | some m => trap 0x0B (w64 m.heldAt) (w64 m.iaddr)
  | none => if c.mq.any (fun m => m.ctx == t.ctx) then .error (.park (.drained s.nextOp))
  s.checkFilled
  let ws := s.imageWords t (swapStatus (s.statusOf s.cur)) t.epc (s.tleft s.cur t) 0
  let v := joinWords ws
  let parts := (List.range 24).map (fun k => mkPart (a.toNat + 16 * k) (l.plus (16 * k)) 16 (v / 2 ^ (128 * k) % 2 ^ 128))
  .error (.parkAfter (.stored s.nextOp) (s.launchFlight .store parts .rlx .pkg))

def execSwapout (i : ImageRef) (s : State) : Host.Outcome State Fault Refusal := run (effSwapout i) s

/-- The wait of SWAPOUT ends when its stores are performed; one that failed owes the slot a trap. -/
def State.endStored (s : State) (p : Party) : State :=
  match s.thread? p with
  | none => s
  | some t =>
    match t.park with
    | some ⟨.stored op, true, _, _⟩ =>
      if (s.flight? op).isSome then s
      else
        let t : Thread := if t.held.any (fun h => h.seq == op) then t.oweHeld else t
        (s.setThread p t).endWait p
    | _ => s

/-! ### SWAPIN (23 R318) -/

/-- Whether an image has no reserved bit set and no value outside Table 23.2. -/
def imageOk (ws : List Nat) : Bool :=
  let w (i : Nat) : Nat := nth ws i 0
  let clear (c : CReg) (i : Nat) : Bool := Nat.land (w i) (2 ^ 64 - 1 - CReg.mask c) == 0
  w 31 % 4 == 0 && clear .status 32 && clear .ecause 34 && w 37 % 4 == 0 && clear .seed 39 && clear .scla 41 &&
    clear .sclb 42 && bits (w 43) 7 6 == 0 && bits (w 43) 15 14 == 0 && !bit (w 43) 23 && bits (w 43) 63 40 == 0 &&
    bits (w 44) 63 56 == 0 && (List.range 7).all (fun k => decide (bits (w 44) (8 * k + 7) (8 * k) ≤ 128)) &&
    clear .mfault 46 && bits (w 47) 63 57 == 0 && w 47 % 64 == 0

/-- What an image gives a context beside its place, its pc and its modes. A reserved field of a register stays 0 (00 R5). -/
def Thread.withImage (t : Thread) (ws : List Nat) : Thread :=
  let w (i : Nat) : Word := w64 (nth ws i 0)
  let reg (c : CReg) (i : Nat) : Word := maskTo (CReg.mask c) (w i)
  let x := nth ws 43 0
  { t with
    g := Vector.ofFn (fun (i : Fin 32) => if i.val = 0 then t.g[i] else .val (w (i.val - 1)))
    q := Vector.ofFn (fun (i : Fin 8) => if i.val = 0 then t.q[i]
      else .val (bits (nth ws 44 0) (8 * i.val - 1) (8 * i.val - 8)))
    ecause := reg .ecause 34
    eaddr := w 35
    einfo := w 36
    tvec := reg .tvec 37
    seed := seedOf (nth ws 39 0)
    arg := w 40
    scla := reg .scla 41
    sclb := reg .sclb 42
    fmta := w64 (bits x 5 0)
    fmtb := w64 (bits x 13 8)
    domain := w64 (bits x 22 16)
    btoDie := bits (nth ws 45 0) 31 0
    btoPkg := bits (nth ws 45 0) 63 32
    mfault := reg .mfault 46 }

/-- What an image gives that depends on the place: REV by its write rule, TCMP, and the tile binding. -/
def State.placeImage (s : State) (p : Party) (t : Thread) (ws : List Nat) : Thread :=
  let x := nth ws 43 0
  let r := bits x 35 24
  let live := r == 0 || (tget s.revs r).any (fun y => y.live && y.dom == t.dom)
  let tile : Option (Fin 8) :=
    if bit x 39 then
      let k : Fin 8 := ⟨bits x 38 36 % 8, Nat.mod_lt _ (by decide)⟩
      let tag := ((s.core p).tiles[k]).tag
      if tag.isNone || tag == some t.dom then some k else none
    else none
  { t with
    rev := if live then w64 r else t.rev
    tcmp := if nth ws 38 0 = 0 then 0 else w64 (s.clock p.die + nth ws 38 0)
    tile := tile }

/-- STATUS after SWAPIN: MODE, IE, MPEND and EPEND stay. -/
def swapinStatus (old img : Word) : Word :=
  let w1 := wset (wset old stPmode (wbit img stMode)) stPie (wbit img stIe)
  [stDbg, stEtim, stEmsg, stEmem, stTpend].foldl (fun w n => wset w n (wbit img n)) w1

def effSwapin (i : ImageRef) (s : State) : Eff := do
  s.needSup
  let (a, s) ← (match i with
    | .cache _ => s.imageAddr i
    | .at ga => do
      s.checkPoison [ga]
      s.imageAddr i)
  if a.toNat % 128 != 0 then operandTrap a
  if !s.earlierDone s.src.ctx s.nextOp true true then .error (.park (.earlier true true s.nextOp))
  if !s.src.held.isEmpty then s.checkRelease
  let (l, s) ← s.checkAccess a.toNat 384 128 needR
  s.checkWeir a.toNat l 384 false
  match s.readPieces { s.issueFlight with kind := .load (.tile 0) } a.toNat l (List.range 12) with
  | (.error k, _) =>
    let p : Poison := ⟨s.nextOp, k, false, 0, a.toNat, s.issue.pc.toNat⟩
    trap p.cause (w64 p.addr) p.einfo
  | (.ok v, s) =>
    let ws := wordsOf v 48
    if !imageOk ws || bit (nth ws 47 0) 56 || bit (nth ws 46 0) 63 then operandTrap a
    let old := s.me
    let t : Thread := s.placeImage s.cur (old.withImage ws) ws
    let t : Thread := { t with
      epc := w64 (nth ws 31 0)
      status := swapinStatus old.status (w64 (nth ws 32 0)) }
    pure ((s.setMe t).departed s.cur old.dom)

def execSwapin (i : ImageRef) (s : State) : Host.Outcome State Fault Refusal := run (effSwapin i) s

/-! ### Saving a context (23 R319, R322) -/

/-- Whether a part lies in a polder. -/
def Part.inPolder (p : Part) : Bool :=
  match p.loc with
  | .sram _ => true
  | _ => false

/-- What a slot waits for before it is saved: every access and status of its own (17 R247), or, to migrate, all of them but
loads of global memory in flight (17 R248): one of a polder returns what it holds before the gang's polders move. An atomic counts among the stores that it waits for (DEDUCED: log 100). -/
def Flight.keepsSlot (f : Flight) (migrates : Bool) : Bool :=
  match f.kind with
  | .load _ => !migrates || f.parts.any (fun p => p.open_ && p.inPolder)
  | .word .. | .grant .. | .connect .. | .hand .. | .detach .. | .kill .. | .wload .. => false
  | .pzero .. => migrates
  | _ => true

/-- Whether a flight is a JOIN of which a thread holds a stitched store: the rest of it travels as held (21 R308; 15 R201). -/
def Flight.stitchHeldIn (f : Flight) (t : Thread) : Bool :=
  match f.kind with
  | .status (.join c) _ => t.stitchHeld c
  | _ => false

/-- Whether a slot may be saved: its accesses are over, its matrix commands too, but for a held one and those behind it
(11 R169), and its streams are known. -/
def State.canSave (s : State) (p : Party) (t : Thread) (migrates : Bool) : Bool :=
  s.flights.all (fun f => f.ctx != t.ctx || !f.keepsSlot migrates || f.stitchHeldIn t) &&
    ((s.core p).mq.find? (fun m => m.ctx == t.ctx)).all (fun m => m.held) &&
    t.streams.all (fun o => o.all (fun x => x.words.isSome || x.fault.isSome || !x.bad.isEmpty))

/-- Tiles of a core tagged with a domain. -/
def CoreSt.tilesOf (c : CoreSt) (dom : Nat) : List (Nat × Tile) :=
  (List.range 8).filterMap (fun k =>
    let t := vget c.tiles k Tile.reset
    if t.tag == some dom then some (k, t) else none)

/-- Weight slots of a cluster that hold data of a domain. -/
def ClusterSt.slotsOf (c : ClusterSt) (dom : Nat) : List (Nat × WSlot) :=
  (List.range 16).filterMap (fun k =>
    let w := vget c.wslots k WSlot.reset
    if w.st != .free && w.dom == dom then some (k, w) else none)

/-- The members of a unit on the core of a place. -/
def Work.onCore (w : Work) (p : Party) : List Party := w.members.filter (fun m => m.die == p.die && m.core == p.core)

/-- The members of a unit that have not ended, in their slots or saved, in the order of GCORE and GSLOT. -/
def State.liveMembers (s : State) (u : Nat) : List Party :=
  ((s.work u).map (·.members)).getD [] |>.filter (fun m =>
    (s.thread? m).any (fun t => t.unit == u && !t.quitting) || s.saved.any (fun x => x.party == m && x.thread.unit == u))

/-- The lowest GSLOT of a unit on the core of a place (23 R315). -/
def State.lowestMember (s : State) (u : Nat) (p : Party) : Option Party :=
  (s.liveMembers u).find? (fun m => m.die == p.die && m.core == p.core)

/-- Whether a context is the last one in the places named: of its gang at a migration, of its domain at a pre-emption. -/
def State.lastOf (s : State) (p : Party) (t : Thread) (migrates : Bool) (at_ : Party → Bool) : Bool :=
  !(s.contexts.any (fun e => at_ e.1 && e.1 != p &&
    if migrates then e.2.unit == t.unit && !e.2.quitting else e.2.dom == t.dom))

/-- Whether the save of a slot exports what stands in the places named, which travels in the record of another or of its own: at a
pre-emption only once no other context of the domain remains there; at a migration with the record's own slot, or with the last
slot where that one has been saved before (23 R315, R319, R322). -/
def State.exports (s : State) (p : Party) (t : Thread) (migrates : Bool) (dest : Option Party) (at_ : Party → Bool) : Bool :=
  (migrates && dest == some p) ||
    (s.lastOf p t migrates at_ &&
      (!migrates || dest.any (fun m => s.saved.any (fun x => x.party == m && x.thread.unit == t.unit && x.cause != 0x09))))

/-- Tiles of the core that a save exports. -/
def State.tilesOut (s : State) (p : Party) (t : Thread) (migrates : Bool) : List (Nat × Tile) :=
  if s.exports p t migrates (s.lowestMember t.unit p) (fun x => Party.coreKey x == Party.coreKey p) then (s.core p).tilesOf t.dom else []

/-- The thread of a gang whose record takes its weight slots: the lowest GCORE and GSLOT. -/
def State.leadMember (s : State) (u : Nat) : Option Party := (s.liveMembers u).head?

/-- Weight slots of the cluster that a save exports. -/
def State.weightsOut (s : State) (p : Party) (t : Thread) (migrates : Bool) : List (Nat × WSlot) :=
  if s.exports p t migrates (s.leadMember t.unit) (fun x => Party.clusterKey x == Party.clusterKey p) then (s.cluster p).slotsOf t.dom else []

/-- What the record of a slot carries: tiles and windows of the core in that of its lowest GSLOT, weight slots in that of the
gang's first thread (23 R315). -/
def State.baggage (s : State) (p : Party) (t : Thread) (cause : Nat) (migrates : Bool) : Baggage :=
  let c : CoreSt := s.core p
  let lowest := s.lowestMember t.unit p == some p
  { cause := cause
    tiles := if lowest then s.tilesOut p t migrates else []
    weights := if s.leadMember t.unit == some p then s.weightsOut p t migrates else []
    cmds := c.mq.filter (fun m => m.ctx == t.ctx)
    windows := if lowest then
        (c.windows.filter (fun x => x.2.holder == t.unit && x.2.st == .opened)).map (fun x => (x.1, x.2, s.attachOf x.2.polder))
      else [] }

/-- The lowest place in a queue's save area for a record of n bytes (DESIGN CHOICE: log 29). -/
def State.saveRoom (s : State) (qn : Nat) (q : LQueue) (n : Nat) : Option Nat :=
  let base := bits (nth q.entry 6 0) 51 6 * 64
  let stop := base + bits (nth q.entry 7 0) 15 0 * 1048576
  let used := (s.saved.filter (fun x => x.queue == qn)).map (fun x => (x.addr, x.len))
  let ends := (base + 0x60000) :: used.map (fun u => (u.1 + u.2 + 127) / 128 * 128)
  let ok := ends.filter (fun a => decide (a + n ≤ stop) && used.all (fun u => !overlap a n u.1 u.2))
  ok.foldl (fun m a =>
    match m with
    | none => some a
    | some b => some (Nat.min a b)) none

/-- The save area's directory entry of a slot. -/
def LQueue.dirEntry (q : LQueue) (p : Party) : Nat := bits (nth q.entry 6 0) 51 6 * 64 + 8 * Party.key p

/-- Tiles and weight slots that leave with a context whose record does not take them travel in that of the slot named, which was
saved before: the record is written anew; none where it has no room (23 R315). -/
def State.intoRecord (s : State) (qn : Nat) (q : LQueue) (m : Party) (u : Nat) (tiles : List (Nat × Tile))
    (weights : List (Nat × WSlot)) : Option State :=
  match s.saved.find? (fun x => x.party == m && x.thread.unit == u) with
  | none => none
  | some x =>
    let others := s.saved.filter (fun y => y.thread.ctx != x.thread.ctx)
    let items := tiles.map (fun e => e.2.item e.1) ++ weights.map (fun e => e.2.item e.1)
    let n := x.len + 8 * (items.flatMap id).length
    match { s with saved := others }.saveRoom qn q n with
    | none => none
    | some a =>
      let s : State := (s.writeWords a (s.extendedWords x a items)).putHome (q.dirEntry m) 8 a
      some { s with saved := s.saved.map (fun y =>
          if y.thread.ctx == x.thread.ctx then
            { y with tiles := y.tiles ++ tiles, weights := y.weights ++ weights, addr := a, len := n }
          else y) }

/-- The same, where they go to another record than that of the slot that is saved, and there are some. -/
def State.intoOther (s : State) (qn : Nat) (q : LQueue) (p : Party) (dest : Option Party) (u : Nat) (tiles : List (Nat × Tile))
    (weights : List (Nat × WSlot)) : Option State :=
  match dest with
  | some m => if m == p || (tiles.isEmpty && weights.isEmpty) then some s else s.intoRecord qn q m u tiles weights
  | none => some s

/-- The weir entries of the streams whose rows a context has yet to drain go with it (19 R263). -/
def State.dropRanges (s : State) (p : Party) (t : Thread) : State :=
  let bound := t.streams.toList.filterMap (fun o => o.bind (fun y => if y.outbound then some y.op else none))
  let held := t.held.filterMap (fun h => h.flight?.bind Flight.rowOp)
  (bound ++ held).foldl (fun s op => s.weirRemove (Party.clusterKey p) op) s

/-- Saves a context; none where its record has no room. -/
def State.saveContext (s : State) (p : Party) (t : Thread) (cause : Nat) (migrates : Bool) : Option State :=
  match s.queueOfThread p t with
  | none => none
  | some qn =>
    match s.queue qn with
    | none => none
    | some q =>
      let b := s.baggage p t cause migrates
      let n := 8 * (s.recordWords p t b 0).length
      match s.saveRoom qn q n with
      | none => none
      | some a =>
        let c : CoreSt := s.core p
        let rest := tget s.rest (Party.key p)
        let park := t.park.bind (fun k => if k.after then some k else none)
        let words := (List.range 8).filterMap (fun k => (t.chan? k).map (fun e => (k, s.chanWords p e)))
        let x : Saved := ⟨qn, p, { t with park := park, yield := none }, rest, cause, b.tiles, b.weights, b.cmds, words,
          s.tleft p t, a, n, none⟩
        let tiles := s.tilesOut p t migrates
        let weights := s.weightsOut p t migrates
        let lowest := s.lowestMember t.unit p
        let lead := s.leadMember t.unit
        let s : State := (s.writeWords a (s.recordWords p t b a)).putHome (q.dirEntry p) 8 a
        let s : State := { s with freeCount := s.freeCount + 40 }
        let s : State := s.setCore p { c with mq := c.mq.filter (fun m => m.ctx != t.ctx) }
        let s : State := s.dropRanges p t
        let s : State := { s.dropThread p with rest := terase s.rest (Party.key p), saved := s.saved ++ [x] }
        let s : Option State := (s.intoOther qn q p lowest t.unit tiles []).bind (fun s => s.intoOther qn q p lead t.unit [] weights)
        s.map (fun s => s.departed p t.dom)

/-- A record of KIND 4: a slot could not be saved. -/
def State.saveFull (s : State) (p : Party) (t : Thread) (cause : Nat) : State :=
  s.postHost cause 4 t.dom (s.queueOfThread p t) (some (Party.code p)) (some t.pc.toNat) none

/-- A slot has changed or cannot. -/
def State.changed (s : State) (qn : Nat) (p : Party) (failed : Bool) : State :=
  match s.queue qn with
  | none => s
  | some q =>
    s.setQueue qn { q with
      changing := q.changing.filter (fun x => x != p)
      reached := q.reached.filter (fun x => x != p)
      saveFailed := q.saveFailed || failed }

/-- The cause that a queue's pre-emption records: the watchdog's, or a host's or tenant's. -/
def LQueue.saveCause (q : LQueue) : Nat := if q.stage1.isSome then 0x13 else 0

/-- Saves the context of a slot that is to be pre-empted, once it may; a record without room leaves it running. -/
def State.preempt (s : State) (qn : Nat) (q : LQueue) (p : Party) : State :=
  match s.thread? p with
  | none => s.changed qn p false
  | some t =>
    if t.quitting || s.queueOfThread p t != some qn then s.changed qn p false
    else if !s.canSave p t false then s
    else
      match s.saveContext p t q.saveCause false with
      | some s => s.changed qn p false
      | none => (s.saveFull p t q.saveCause).changed qn p true

/-- PREEMPT_SAVE. -/
def State.preemptSave (s : State) (p : Party) : State :=
  match s.queues.find? (fun e => e.2.stopped && e.2.changing.contains p) with
  | none => s
  | some (qn, q) => s.preempt qn q p

def execPreemptSave (p : Party) (s : State) : Host.Outcome State Fault Refusal := event (fun s => s.preemptSave p) s

/-! ### Restoring a context (23 R320, R322, R324) -/

/-- A byte of the polders after a move: polders that were copied, and the slot's own region of the home polder. -/
def movedByte (moves : List (Nat × Nat)) (b : Nat) : Nat :=
  match moves.find? (fun m => m.1 == b / 65536) with
  | some m => m.2 * 65536 + b % 65536
  | none => b

/-- A tile as it is imported: its poison stays, and ERET does not send it again (23 Table 23.3). -/
def Tile.imported (t : Tile) : Tile :=
  { t with rows := t.rows.map (fun r =>
      match r.fill with
      | .poison x => { r with fill := .poison { x with again := false } }
      | _ => r) }

/-- Weight slots are reloaded from their records. -/
def State.reloadWeights (s : State) (p : Party) (t : Thread) (ws : List (Nat × WSlot)) : State :=
  ws.foldl (fun s e =>
    if (s.wslot p e.1).st != .free then s
    else
      let n := s.nextOp
      let recs := (e.2.recs.zip (List.range e.2.recs.length)).map (fun r => { r.1 with op := n + r.2 })
      let s : State := s.setWslot p e.1 ⟨if recs.isEmpty then .loaded else .loading, e.2.dom, e.2.code, recs, e.2.freeAt⟩
      recs.foldl (fun s r =>
        let a := r.ga.toNat
        let l := (s.locOf p a).getD (.va a)
        { s with
          flights := s.flights ++ [⟨r.op, p, t.ctx, .wload e.1 a r.gb.toNat true, [mkPart a l (wlen r.gb.toNat) 0], .rlx, .clu,
            t.dom, t.revNo, t.sup, 0, false⟩]
          nextOp := s.nextOp + 1 }) s) s

/-- Endpoints keep their counts; buffered words go to a free receive buffer of the core. -/
def State.placeChans (s : State) (p : Party) (t : Thread) (words : List (Nat × List Nat)) : State × Thread :=
  words.foldl (fun (o : State × Thread) e =>
    match o.2.chan? e.1 with
    | none => o
    | some c =>
      if c.out then o
      else
        let used := o.1.rbufs p ++ (List.range 8).filterMap (fun k =>
          if k < e.1 then (o.2.chan? k).bind (fun x => if x.out then none else some x.rbuf) else none)
        let b := ((List.range 8).find? (fun i => !used.contains i)).getD 0
        let s : State := (e.2.zip (List.range e.2.length)).foldl (fun s w =>
          s.writeSram (homeByte p (0x0800 + 0x100 * b + 8 * w.2)) 8 w.1) o.1
        (s, o.2.setChan e.1 (some { c with rbuf := b, head := 0 }))) (s, t)

/-- A stream bound again at its position (19 R263). The rows of an inbound one are read again from there; an outbound one goes
on with the rows that are still to be pushed, and those of its rows that are held keep their numbers. -/
def Stream.rebind (x : Stream) (after buf : Nat) (desc : Loc) : Stream :=
  let x : Stream := { x with desc := desc, buf := buf, after := after }
  if x.outbound then x
  else
    let n := x.base
    let put (ws : List Nat) : List Nat := setNth ws 4 (putBits (nth ws 4 0) 47 0 (x.pos + n * (128 / x.esize)))
    { x with
      words := if x.isToken then x.words else x.words.map put
      before := x.before + n
      moved := x.moved - n
      filled := 0
      bad := [] }

/-- The range of an outbound stream from its first row that has not drained; none where every row has. -/
def Stream.rangeLeft (x : Stream) : Option (Nat × Nat) :=
  if x.rows ≤ x.filled then none
  else
    let put (ws : List Nat) : List Nat := setNth ws 4 (putBits (nth ws 4 0) 47 0 (x.pos + x.filled * (128 / x.esize)))
    some ({ x with words := x.words.map put } : Stream).range

/-- Registers a range for a stream where its context now is. -/
def State.rangeAgain (s : State) (p : Party) (op lo n : Nat) : Option State :=
  match (s.cluster p).weirRange op (s.weirRuns p lo n) with
  | .error _ => none
  | .ok c => some (s.setCluster p c)

/-- Streams are bound again: their buffers where their windows now are, outbound ranges registered anew; none where a
range cannot be registered yet. -/
def State.rebindStreams (s : State) (p : Party) (t : Thread) (moves : List (Nat × Nat)) : Option (State × Thread) :=
  (List.range 8).foldl (fun (o : Option (State × Thread)) k =>
    o.bind (fun r =>
      match r.2.stream? k with
      | none => some r
      | some x =>
        let x : Stream := if !x.outbound && x.bad.any (fun e => decide (e.1 < x.moved)) then x.refill else x
        let desc : Loc := match x.desc with
          | .sram b => .sram (movedByte moves b)
          | l => l
        let y := x.rebind r.1.nextOp (movedByte moves x.buf) desc
        let put (s : State) : State × Thread := (s, r.2.setStream k (some y))
        match (if y.outbound then y.rangeLeft else none) with
        | none => some (put r.1)
        | some (lo, n) => (r.1.rangeAgain p y.op lo n).map put)) (some (s, t))

/-- Held rows of a stream that its context has freed: the stream and the range that they cover. -/
def Thread.looseRows (t : Thread) : List (Nat × Nat × Nat) :=
  let bound := t.streams.toList.filterMap (fun o => o.map (·.op))
  let rows := t.held.filterMap (fun h => h.flight?.bind (fun f => f.rowOp.map (fun op => (op, f.parts))))
  ((rows.map (·.1)).eraseDups.filter (fun op => !bound.contains op)).map (fun op =>
    let ps := (rows.filter (fun r => r.1 == op)).flatMap (·.2)
    let lo := ps.foldl (fun m q => Nat.min m q.addr) (2 ^ 64)
    (op, lo, ps.foldl (fun m q => Nat.max m (q.addr + q.size)) 0 - lo))

/-- A place that has moved with its polder. -/
def Loc.movedTo (moves : List (Nat × Nat)) : Loc → Loc
  | .sram b => .sram (movedByte moves b)
  | l => l

/-- A held store whose places have moved with their polders. -/
def Held.movedTo (moves : List (Nat × Nat)) (h : Held) : Held :=
  match h.what with
  | .flight f => { h with what := .flight { f with parts := f.parts.map (fun q => { q with loc := q.loc.movedTo moves }) } }
  | _ => h

/-- Barriers know a member by its new place. -/
def State.moveMember (s : State) (ctx : Nat) (p : Party) : State :=
  let fix (m : Member) : Member := if m.ctx == ctx then { m with party := p } else m
  let fixB (b : Barrier) : Barrier :=
    { b with
      members := b.members.map fix
      arrived := b.arrived.map (fun e => (fix e.1, e.2))
      changes := b.changes.map (fun e => (fix e.1, e.2))
      csums := b.csums.map (fun r => { r with member := fix r.member }) }
  { s with
    bars := s.bars.map (fun e => (e.1, fixB e.2))
    dies := s.dies.map (fun e => (e.1, { e.2 with bars := e.2.bars.map (fun b => (b.1, fixB b.2)) })) }

/-- Whether the tiles of a record may be imported into a core. -/
def CoreSt.tilesFit (c : CoreSt) (x : Saved) : Bool :=
  x.tiles.all (fun e =>
    let tag := (vget c.tiles e.1 Tile.reset).tag
    tag.isNone || tag == some x.thread.dom)

/-- Whether weight slots of a record may be reloaded into a cluster: each slot is free or holds data of the domain; after a migration it
is free or was loaded by the same records, as it is by the loader for the gang's other threads (11 R169). -/
def ClusterSt.weightsFit (c : ClusterSt) (x : Saved) : Bool :=
  x.weights.all (fun e =>
    let w := vget c.wslots e.1 WSlot.reset
    let loads (v : WSlot) : List (Word × Word) := v.recs.map (fun r => (r.ga, r.gb))
    w.st == .free || (w.dom == x.thread.dom && (x.cause != 0x09 || (w.code == e.2.code && loads w == loads e.2))))

/-- A register, a count or what an image gives otherwise: what is still to arrive, or is poisoned, stays so. -/
def Thread.reread (t : Thread) (ws : List Nat) : Thread :=
  let u := t.withImage ws
  { u with
    g := Vector.ofFn (fun i => match t.g[i] with
      | .val _ => u.g[i]
      | c => c)
    q := Vector.ofFn (fun i => match t.q[i] with
      | .val _ => u.q[i]
      | c => c)
    pc := w64 (nth ws 31 0)
    status := wset (maskTo (CReg.mask .status) (w64 (nth ws 32 0))) stMpend false
    epc := w64 (nth ws 33 0) }

/-- A saved context whose barrier wait has ended receives the status and goes on behind the word; the A-word of its pair,
where it has one, is still to come (03 R40; 19 R278). -/
def Saved.wake (x : Saved) : Saved :=
  match x.woken with
  | none => x
  | some (d, v) =>
    { x with
      thread := { x.thread.putG d v with pc := if x.rest.isSome then x.thread.pc else x.thread.pc + 4 }
      woken := none }

/-- A saved context as its record in the save area gives it; none where the record cannot be read: it is then not restored
(23 R320; DESIGN CHOICE: log 114). -/
def State.rereadSaved (s : State) (x : Saved) : Option Saved :=
  if poisonIn s.memPoison x.addr x.len then none
  else
    let ws := wordsOf (s.readPa x.addr x.len) (x.len / 8)
    let ext := ws.drop 48
    let modes := nth ws 43 0
    let t := x.thread.reread (ws.take 48)
    let r := bits modes 35 24
    let live := r == 0 || (tget s.revs r).any (fun y => y.live && y.dom == t.dom)
    let x : Saved := { x with
      thread := { t with
        wid := w64 (nth ext 0 0)
        wfmt := maskTo (CReg.mask .wfmt) (w64 (nth ext 1 0))
        rev := if live then w64 r else t.rev
        tile := if bit modes 39 then some (Fin.ofNat 8 (bits modes 38 36)) else none }
      tleft := w64 (nth ws 38 0) }
    some ((parseItems (bits (nth ext 2 0) 15 8) (ext.drop 4)).foldl (fun x e => x.withItem e.1 e.2) x).wake

/-- Restores a context, as its record gives it, into a slot; none where it cannot be restored yet. A core keeps at most 16
streams in service (19 R254), eight receive buffers, and tiles and weight slots of one domain each. A SLEEP that has not
ended waits on for the same count of the TIMER of the die where it now is (DESIGN CHOICE: log 108). -/
def State.restoreRead (s : State) (x : Saved) (p : Party) (moves : List (Nat × Nat)) : Option State :=
  let c : CoreSt := s.core p
  let inbound := (List.range 8).filter (fun k => (x.thread.chan? k).any (fun e => !e.out))
  let loose := x.thread.looseRows
  let streams := (x.thread.streams.toList.filterMap id).length + loose.length
  if (s.thread? p).isSome || !c.tilesFit x || !(s.cluster p).weightsFit x || decide (8 < (s.rbufs p).length + inbound.length) ||
      decide (16 < s.inService p.die p.core + streams)
  then none
  else
    let s : State := s.reloadWeights p x.thread x.weights
    let cmds := x.cmds.map (fun m => { m with a := m.a.map (·.movedTo moves) })
    let c : CoreSt := { c with
      tiles := x.tiles.foldl (fun v e => vset v e.1 e.2.imported) c.tiles
      mq := cmds ++ c.mq }
    let s : State := s.setCore p c
    let held := x.thread.held.map (·.movedTo moves)
    let ranges := loose.foldl (fun (o : Option State) e => o.bind (fun s => s.rangeAgain p e.1 e.2.1 e.2.2)) (some s)
    match ranges.bind (fun s => s.rebindStreams p { x.thread with held := held } moves) with
    | none => none
    | some (s, t) =>
      let (s, t) := s.placeChans p t x.words
      let tag := t.tile.map (fun k => (vget c.tiles k.val Tile.reset).tag)
      let t : Thread := { t with
        tile := if tag == some none || tag == some (some t.dom) then t.tile else none
        tcmp := if x.tleft = 0 then 0 else w64 (s.clock p.die) + x.tleft
        readyAt := s.clock p.die + 1 }
      let s : State := match x.rest with
        | some r => { s with rest := tset s.rest (Party.key p) r }
        | none => s
      let s : State := match s.queue x.queue with
        | some q => s.putHome (q.dirEntry x.party) 8 0
        | none => s
      let s : State := { s with saved := s.saved.filter (fun y => y.thread.ctx != x.thread.ctx) }
      some ((s.loadContext p t).moveMember t.ctx p)

/-- Restores a context from its record into a slot. -/
def State.restore (s : State) (x : Saved) (p : Party) (moves : List (Nat × Nat)) : Option State :=
  (s.rereadSaved x).bind (fun x => s.restoreRead x p moves)

/-- Whether a record holds weight slots of the gang of another, or tiles of its core: it is restored before it (11 R133, R169; 23 R320). -/
def Saved.carriesFor (y x : Saved) : Bool :=
  y.thread.ctx != x.thread.ctx && y.thread.unit == x.thread.unit &&
    (!y.weights.isEmpty || (!y.tiles.isEmpty && Party.coreKey y.party == Party.coreKey x.party))

/-- CONTEXT_RESUME: a pre-empted context returns to its slot, when its queue is dispatched there, once the tiles and weight slots of its
gang that another record holds have returned. -/
def State.contextResume (s : State) (p : Party) : State :=
  let due (x : Saved) : Bool :=
    x.party == p && x.cause != 0x09 && s.unitRuns x.thread.unit && (s.queue x.queue).any (fun q => !q.stopped && q.current)
  match s.saved.find? due with
  | none => s
  | some x =>
    if (s.cluster p).quarantined || (s.dieAt p.die).halted || s.saved.any (fun y => y.carriesFor x) then s
    else (s.restore x p []).getD s

def execContextResume (p : Party) (s : State) : Host.Outcome State Fault Refusal := event (fun s => s.contextResume p) s

/-! ### The watchdog (23 R321) -/

/-- The contexts of a queue that hold a slot, but those that are ending. -/
def State.placesOfQueue (s : State) (qn : Nat) : List Party :=
  (s.contexts.filter (fun e => !e.2.quitting && s.queueOfThread e.1 e.2 == some qn)).map (·.1)

/-- Every context of a queue is to be pre-empted, and the queue dispatches nothing. -/
def State.stopQueue (s : State) (qn : Nat) (q : LQueue) (stage1 : Option Nat) : State :=
  s.setQueue qn { q with stopped := true, changing := s.placesOfQueue qn, reached := [], saveFailed := false, stage1 := stage1 }

/-- WATCHDOG_STAGE1: also for a queue that a QSTOP has left with a running context (23 R320, R321). -/
def State.wdogOne (s : State) (qn : Nat) : State :=
  match s.queue qn with
  | none => s
  | some q =>
    let now := s.clock q.die
    let limit := bits q.wdog.toNat 31 0 * 4096
    if limit == 0 || q.stage1.isSome || (s.placesOfQueue qn).isEmpty || decide (now < q.since + limit) then s
    else
      let s : State := s.stopQueue qn q (some now)
      let s : State := match s.queue qn with
        | some x => s.setQueue qn { x with saveFailed := q.stopped && q.saveFailed }
        | none => s
      s.postHost 0x13 2 0 (some qn) none none none

def execWatchdogStage1 (queue : Nat) (s : State) : Host.Outcome State Fault Refusal := event (fun s => s.wdogOne queue) s

/-- WATCHDOG_STAGE2: the gangs with a slot that is not reported saved are killed. -/
def State.wdogTwo (s : State) (qn : Nat) : State :=
  match s.queue qn with
  | none => s
  | some q =>
    let delay := bits q.wdog.toNat 63 32 * 4096
    match q.stage1 with
    | none => s
    | some t0 =>
      if delay == 0 || decide (s.clock q.die < t0 + delay) then s
      else
        (s.placesOfQueue qn).foldl (fun s p =>
          match s.thread? p with
          | some t => s.killUnit t.unit 0x13 3 p t.pc.toNat
          | none => s) s

def execWatchdogStage2 (queue : Nat) (s : State) : Host.Outcome State Fault Refusal := event (fun s => s.wdogTwo queue) s

/-! ### Tenants (03 R48) -/

/-- Length of a queue's slice in cycles; 0 where it does not share its partition. -/
def LQueue.slice (q : LQueue) : Nat := bits (nth q.entry 1 0) 39 25 * 65536

/-- Place of a slot in the order in which slots change: by core, then in rotation. -/
def State.changeRank (s : State) (p : Party) : Nat :=
  Party.coreKey p * 16 + (p.slot + 15 - (s.core p).lastSlot) % 16

/-- Parties in the order in which they change. -/
def State.changeOrder (s : State) (ps : List Party) : List Party :=
  ps.foldl (fun l p =>
    l.takeWhile (fun x => decide (s.changeRank x ≤ s.changeRank p)) ++ [p] ++
      l.dropWhile (fun x => decide (s.changeRank x ≤ s.changeRank p))) []

/-- TENANT_SLICE_END: the other tenant's slice begins, and each core changes its slots one at a time. -/
def State.sliceEnd (s : State) (qn : Nat) : State :=
  match s.queue qn with
  | none => s
  | some q =>
    match s.queues.find? (fun e => e.1 != qn && e.2.sharesWith q && e.2.slice != 0) with
    | none => s
    | some (rn, r) =>
      if !q.current || q.slice == 0 || decide (s.clock q.die < q.sliceAt + q.slice) || !q.changing.isEmpty ||
          !r.changing.isEmpty then s
      else
        let coming := (s.saved.filter (fun x => x.queue == rn && x.cause != 0x09)).map (·.party)
        let going := s.placesOfQueue qn
        let out := s.changeOrder (going ++ coming.filter (fun p => !going.contains p))
        let s : State := s.setQueue qn { q with current := false, changing := out, reached := [], saveFailed := false }
        s.setQueue rn { r with current := true, sliceAt := s.clock q.die }

def execTenantSliceEnd (queue : Nat) (s : State) : Host.Outcome State Fault Refusal := event (fun s => s.sliceEnd queue) s

/-- The change of a slot that the rotation has reached: its context is saved once it may be, and the incoming one loaded. -/
def State.changeSlot (s : State) (qn : Nat) (q : LQueue) (p : Party) : State :=
  let s : State := s.preempt qn q p
  if (s.queue qn).any (fun x => x.changing.contains p) then s else s.contextResume p

/-- The rotation reaches the slot of its core that is next to change: the slot issues no longer for the outgoing tenant, and
changes at once where its context may be saved. -/
def State.reachSlot (s : State) (p : Party) : State :=
  match s.queues.find? (fun e => !e.2.stopped && e.2.changing.contains p) with
  | none => s
  | some (qn, q) =>
    let q : LQueue := { q with reached := q.reached ++ [p] }
    (s.setQueue qn q).changeSlot qn q p

/-- Whether the rotation comes to a slot in this cycle before it comes to one that could take the turn. -/
def State.comesTo (s : State) (p : Party) : Bool :=
  (s.core p).lastCycle != some (s.clock p.die) &&
    ((List.range 16).map (fun i => (⟨p.die, p.core, ((s.core p).lastSlot + 1 + i) % 16⟩ : Party))).find? (fun x =>
      s.offerable x || s.reaches x) == some p

/-- TENANT_SLOT_CHANGE: a slot that the rotation has reached changes, or the rotation of this cycle comes to it; where it would
have had its issue turn, the change takes the turn (03 R48). -/
def State.slotChange (s : State) (p : Party) : State :=
  match s.queues.find? (fun e => !e.2.stopped && e.2.reached.contains p) with
  | some (qn, q) => s.changeSlot qn q p
  | none =>
    if s.reaches p && s.comesTo p then
      let took := s.offerable p
      let s : State := s.reachSlot p
      if took then s.setCore p { s.core p with lastCycle := some (s.clock p.die), lastSlot := p.slot } else s
    else s

def execTenantSlotChange (p : Party) (s : State) : Host.Outcome State Fault Refusal := event (fun s => s.slotChange p) s

/-! ### MIGRATE (23 R325) -/

def effMigrate (a : Reg) (s : State) : Eff := do
  s.checkRelease
  let (x, s) ← s.readG a
  let d := x.toNat
  let w := s.work s.src.unit
  let need := match w with
    | some w => Nat.lor w.featNeed w.need
    | none => 0
  let inside := (List.range 256).any (fun k => s.inPartition s.cur s.src d k)
  if bits d 63 4 != 0 || decide (11 < d) || !(s.dieAt d).started || !inside || Nat.land need (Config.feat d) != need then
    operandTrap x
  pure (if d = s.cur.die then s else s.startMigration s.src.unit 0 (some d))

def execMigrate (a : Reg) (s : State) : Host.Outcome State Fault Refusal := run (effMigrate a) s

/-! ### Quiesce (23 R322, steps 1 and 2; R323) -/

/-- The forwarding entries that a slot needs: one for its loads in flight, and one for each bound endpoint or token queue. -/
def State.entriesFor (s : State) (t : Thread) : List Fwd :=
  let loads := if s.flights.any (fun f => f.ctx == t.ctx && f.loads && !f.moved) then [Fwd.loads t.ctx] else []
  let chans := (List.range 8).filterMap (fun k => (t.chan? k).map (fun c =>
    match c.conn with
    | some n => Fwd.chan n c.out
    | none => Fwd.waiting t.ctx k))
  let queues := (List.range 8).filterMap (fun k =>
    (t.stream? k).bind (fun x => if x.qid.isSome then some (Fwd.queue x.op s.swaps) else none))
  loads ++ chans ++ queues

/-- A slot of a gang that quiesces: its entries are taken, and its loads in flight are to be passed on. -/
def State.takeEntries (s : State) (p : Party) (t : Thread) : State :=
  let es := s.entriesFor t
  let c : CoreSt := s.core p
  { s.setCore p { c with fwd := c.fwd ++ es } with
    flights := s.flights.map (fun f => if f.ctx == t.ctx && f.loads then { f with moved := true } else f) }

/-- Whether the cores of slots have the entries free that they need. -/
def State.entriesFree (s : State) (es : List (Party × Thread)) : Bool :=
  es.all (fun e =>
    let here := es.filter (fun x => x.1.die == e.1.die && x.1.core == e.1.core)
    let n := here.foldl (fun n x => n + (s.entriesFor x.2).length) 0
    decide ((s.core e.1).fwd.length + n ≤ 32))

/-- MIGRATION_QUIESCE: once each slot may be saved, the gang's contexts are saved with cause 0x09. -/
def State.quiesce (s : State) (u : Nat) : State :=
  match s.work u with
  | none => s
  | some w =>
    let es := s.contexts.filter (fun e => e.2.unit == u && !e.2.quitting)
    if w.st != .moving || !(es.all (fun e => s.canSave e.1 e.2 true)) || !s.entriesFree es then s
    else
      let saved := es.foldl (fun (o : Option State) e =>
        o.bind (fun s => (s.takeEntries e.1 e.2).saveContext e.1 e.2 0x09 true)) (some s)
      match saved, es with
      | some s, _ => s.setWork u { w with st := .saved 0x09 }
      | none, e :: _ => (s.saveFull e.1 e.2 0x09).setWork u { w with st := .running, target := none, byFollow := false }
      | none, [] => s

def execMigrationQuiesce (gang : Nat) (s : State) : Host.Outcome State Fault Refusal := event (fun s => s.quiesce gang) s

/-! ### Choose, move and resume (23 R322, steps 3 to 5; R324; 13 R189) -/

/-- The old cores of a unit, in GCORE order. -/
def Work.oldCores (w : Work) : List Party :=
  w.members.foldl (fun l p => if l.any (fun x => x.die == p.die && x.core == p.core) then l else l ++ [p]) []

/-- Windows that a unit holds on a core. -/
def State.heldWindows (s : State) (u : Nat) (p : Party) : List (Nat × Window) :=
  (s.core p).windows.filter (fun x => x.2.holder == u && x.2.st == .opened)

/-- The shape by which 03 R35 places a gang anew: its record's, with the features that it has needed (23 R322). -/
def Work.shape (w : Work) : Shape := ⟨w.oldCores.length, w.gslots, w.polders, Nat.lor w.featNeed w.need⟩

/-- Whether a group suits a saved gang beyond 03 R35: on each of its cores the slots of its threads on the matching old core
are free, the windows that it holds there are unmapped, and what its records hold may be imported; and the cluster's pool
holds the copies of its polders (23 R320, R322; 13 R189). -/
def State.takesGang (s : State) (u : Nat) (w : Work) (d c g : Nat) : Bool :=
  let olds := w.oldCores
  let copies := olds.foldl (fun n p => n + (s.heldWindows u p).length) 0
  decide (copies ≤ (s.freePolders (d * 32 + c)).length) &&
    (olds.zip (groupCores c olds.length g)).all (fun e =>
      let at_ (i : Nat) : Party := ⟨d, e.2, i⟩
      (s.heldWindows u e.1).all (fun x => (s.window? (at_ 0) x.1).isNone) &&
        s.saved.all (fun x => x.thread.unit != u || x.party.core != e.1.core || x.party.die != e.1.die ||
          ((s.thread? (at_ x.party.slot)).isNone && (s.core (at_ 0)).tilesFit x && (s.cluster (at_ 0)).weightsFit x)))

/-- The cluster that a moving gang takes: die, cluster and group. -/
def State.findMove (s : State) (q : LQueue) (u : Nat) (w : Work) (dies : List Nat) : Option (Nat × Nat × Nat) :=
  s.placeOn q w.shape (s.takesGang u w) dies

/-- Copies n bytes of polders. -/
def State.copySram (s : State) (src dst n : Nat) : State :=
  let bytes := s.sram.filter (fun e => decide (src ≤ e.1) && decide (e.1 < src + n))
  let bad := s.sramPoison.filter (fun g => decide (src ≤ g * 16) && decide (g * 16 < src + n))
  let s : State := s.zeroSram dst n
  { s with
    sram := bytes.foldl (fun m e => Memory.write m (e.1 - src + dst) e.2) s.sram
    sramPoison := s.sramPoison ++ bad.map (fun g => g - src / 16 + dst / 16) }

/-- One held polder is copied into a detached one of the new cluster, and the old one becomes detached. -/
def State.moveWindow (s : State) (u : Nat) (old new : Party) (w : Nat) (x : Window) : Option (State × Nat) :=
  match s.freePolders (Party.clusterKey new) with
  | [] => none
  | n :: _ =>
    let e := s.attachOf x.polder
    let was := s.keeperOf x.polder e
    let pos := Config.posOf new.core
    let wasOwner := e.keeper == e.owner && e.koff == e.ooff
    let reach : Option (Nat × Nat) := was.bind (fun k =>
      if k.die == new.die then (s.directionTo (n / 64) (Party.clusterKey k)).map (fun d => (Config.posOf k.core, d)) else none)
    let keep : Nat × Nat := if wasOwner then (pos, 0) else reach.getD (pos, 0)
    let s : State := s.copySram (polderBase x.polder) (polderBase n) 65536
    let s : State := s.setAttach n ⟨.attached, w, pos, 0, e.pinv, e.pslot, keep.1, keep.2, e.dom, e.count⟩
    let s : State := s.setAttach x.polder { e with st := .detached, window := 0, pinv := false }
    let s : State := (s.setWindow old w none).setWindow new w (some ⟨.opened, n, x.dom, u, x.pin⟩)
    some (s, n)

/-- The stack region of a slot moves between home polders (23 R324). -/
def State.moveStack (s : State) (old new : Party) : State :=
  let o := 0x4000 + old.slot * 0x0C00
  s.copySram (homeByte old o) (homeByte new o) 0x0C00

/-- Moves a saved gang to a place, with the stack regions of the threads that migrate (23 R324); none where a context cannot be restored there yet. -/
def State.moveUnit (s : State) (u : Nat) (w : Work) (die c g : Nat) : Option State :=
  let olds := w.oldCores
  let pairs := olds.zip ((groupCores c olds.length g).map (fun k => (⟨die, k, 0⟩ : Party)))
  let place (p : Party) : Party :=
    match pairs.find? (fun e => e.1.die == p.die && e.1.core == p.core) with
    | some e => ⟨die, e.2.core, p.slot⟩
    | none => p
  let copied := pairs.foldl (fun (o : Option (State × List (Nat × Nat))) e =>
    (s.heldWindows u e.1).foldl (fun o x =>
      o.bind (fun r => (r.1.moveWindow u e.1 e.2 x.1 x.2).map (fun m => (m.1, r.2 ++ [(x.2.polder, m.2)])))) o) (some (s, []))
  copied.bind (fun r =>
    let s : State := (s.saved.filter (fun x => x.thread.unit == u)).foldl (fun s x => s.moveStack x.party (place x.party)) r.1
    let moves := r.2 ++ pairs.map (fun e => (homePolder e.1, homePolder e.2))
    (s.saved.filter (fun x => x.thread.unit == u)).foldl (fun (o : Option State) x =>
      o.bind (fun s =>
        let s : State := if x.party.die != die then s.leaveBarriers x.party.die x.thread.ctx (List.range 12) else s
        s.restore x (place x.party) moves)) (some s) |>.map (fun s =>
      s.setWork u { w with
        members := w.members.map place
        st := .running
        target := none
        byFollow := false
        followed := if w.byFollow then some (die, s.clock die) else w.followed }))

/-- Whether some die of a partition has the features that a gang needs. -/
def State.dieCanTake (s : State) (q : LQueue) (w : Work) : Bool :=
  let need := Nat.lor w.featNeed w.need
  (List.range 12).any (fun d =>
    (s.dieAt d).started && (List.range 256).any (fun k => q.holds d k) && Nat.land need (Config.feat d) == need)

/-- MIGRATION_RESUME: the loader places a saved gang anew, or tries again later; with no die that could take it, it is
killed. -/
def State.migrationResume (s : State) (u : Nat) : State :=
  match s.work u with
  | none => s
  | some w =>
    match w.queue.bind (fun n => (s.queue n).map (fun q => (n, q))) with
    | none => s
    | some (_, q) =>
      if w.st != .saved 0x09 || q.stopped || !q.current then s
      else if !s.dieCanTake q w then
        s.killUnit u 0x09 8 (w.members.head?.getD ⟨0, 0, 0⟩)
          (((s.saved.find? (fun x => x.thread.unit == u)).map (fun x => x.thread.pc.toNat)).getD 0)
      else
        let dclass := match w.launch.bind (fun l => tget s.launches l) with
          | some l => bits (nth l.words 0 0) 63 62
          | none => 0
        let dies := match w.target with
          | some d => [d]
          | none => dieOrder dclass
        match s.findMove q u w dies with
        | none => s
        | some (d, c, g) => (s.moveUnit u w d c g).getD s

def execMigrationResume (gang : Nat) (s : State) : Host.Outcome State Fault Refusal :=
  event (fun s => s.migrationResume gang) s

/-- Whether a FOLLOW access migrates its gang: a cluster of the home die qualifies by 03 R35 (23 R326). -/
def State.followOk (s : State) (p : Party) (t : Thread) (home : Nat) : Bool :=
  match s.work t.unit with
  | none => false
  | some w =>
    match w.queue.bind s.queue with
    | none => false
    | some q =>
      (s.placeOn q w.shape (fun _ _ _ => true) [home]).isSome &&
        w.followed.all (fun e => e.1 != p.die || decide (e.2 + 65536 ≤ s.clock p.die))

/-- Every FOLLOW access of the last move is judged. -/
def State.followSweep (s : State) : State :=
  (s.contexts.filter (fun e => e.2.follow.any (fun x => !x.2))).foldl (fun s e =>
    let ok := e.2.follow.bind (fun x => if s.followOk e.1 e.2 x.1 then some (x.1, true) else none)
    s.setThread e.1 { e.2 with follow := ok }) s

/-- At a bundle boundary a gang that follows its access is to migrate (15 R197). -/
def State.startFollow (s : State) (p : Party) (t : Thread) (home : Nat) : State :=
  let s : State := (s.setThread p { t with follow := none }).startMigration t.unit 0 (some home)
  match s.work t.unit with
  | some w => if w.st == .moving then s.setWork t.unit { w with byFollow := true } else s
  | none => s

/-! ### Forwarding (23 R323) -/

/-- The reply entry of a context on a core that it has left is free when its last reply from there has passed. -/
def State.freeReply (s : State) (f : Flight) : State :=
  if s.flights.any (fun e => e.ctx == f.ctx && e.moved && e.sameCore f) then s
  else
    let c : CoreSt := s.core f.party
    s.setCore f.party { c with fwd := c.fwd.filter (· != .loads f.ctx) }

/-- Performs every open part of a load where its thread was. -/
def State.performMoved (s : State) (f : Flight) : Flight × State :=
  (List.range f.parts.length).foldl (fun (o : Flight × State) i =>
    match o.1.parts[i]? with
    | none => o
    | some p =>
      if p.done then o
      else
        match o.2.takePart o.1 p with
        | (.ok v, s) => (o.1.setPart i { p with done := true, data := v }, s)
        | (.error k, s) => (o.1.setPart i { p with done := true, fail := some k }, s)) (f, s)

/-- FORWARD_DELIVERY: a reply, a word, a grant or a token reaches the new place of a thread that has moved. -/
def State.forwardDelivery (s : State) (op : Nat) : State :=
  match s.flight? op with
  | none => s
  | some f =>
    match f.kind with
    | .word .. => s.wordArrival op
    | .grant .. => s.grantArrival op
    | .token .. => s.tokenArrive op
    | .load goal =>
      let g : Flight := { f with moved := false }
      let open_ := (List.range f.parts.length).filter (fun i => (f.parts[i]?).any Part.open_)
      match f.moved, s.findCtx f.ctx with
      | true, some (p, _) =>
        if !open_.all (fun i => s.mayPerform g i) then s
        else
          match s.performMoved g with
          | (g, s) =>
            let g : Flight := { g with party := p }
            let s : State := match goal with
              | .tile k => (List.range 32).foldl (fun s r => s.deliverTileRow g k r) s
              | _ => s.deliver g goal
            (s.dropFlight op).freeReply f
      | true, none => if s.saved.any (fun x => x.thread.ctx == f.ctx) then s else (s.dropFlight op).freeReply f
      | false, _ => s
    | _ => s

def execForwardDelivery (op : Nat) (s : State) : Host.Outcome State Fault Refusal :=
  event (fun s => s.forwardDelivery op) s

end Sys2Proof.Machine
end

