-- ==== Sys2Proof/Machine/Device.lean ====
section
/-! DEFINITION. Events of the device that belong to no other unit: boot, power, quarantine, culverts, asynchronous
events of a slot, and bundles that do not form (01 R18 to R24; 09 R110, R115, R117, R121; 15 R203; 19 R287, R288;
23 R333). -/

namespace Sys2Proof.Machine

/-! ### Boot (01 R24) -/

/-- The boot: the ROM verifies the package firmware, which verifies and starts the other dies in order. `badDies` are
those whose image does not verify; `hashes` holds the hash of the package firmware and then that of each die's image. A
die without a started image stays in reset, and the configuration record reports it absent. -/
def State.boot (s : State) (badPackage : Bool) (badDies hashes : List Nat) : State :=
  if s.booted || s.failed then s
  else if badPackage then { s with failed := true }
  else
    let started := (List.range 12).filter (fun d => d == 8 || !badDies.contains d)
    let log := nth hashes 0 0 :: (started.filter (fun d => d != 8)).map (fun d => nth hashes (d + 1) 0)
    -- the manual states no address of the configuration record (DESIGN CHOICE: log 21)
    let (rec, s) := s.fresh
    let s : State := started.foldl (fun s d => s.setDie d { s.dieAt d with started := true }) s
    let absent := (List.range 12).filter (fun d => !started.contains d)
    { s with booted := true, attest := s.attest ++ log, port := { s.port with cfgrec := rec, record := some ⟨absent, [], []⟩ } }

def execBoot (badPackage : Bool) (badDies hashes : List Nat) (s : State) : Host.Outcome State Fault Refusal :=
  event (fun s => s.boot badPackage badDies hashes) s

/-! ### Power and clocks (01 R18, R19) -/

/-- POWER_THROTTLE: the clocks of the dies concerned are lowered; no context stops. -/
def State.throttle (s : State) (dies : List Nat) : State :=
  dies.foldl (fun s d => if d < 12 then s.setDie d { s.dieAt d with lowered := true } else s) s

def execPowerThrottle (dies : List Nat) (s : State) : Host.Outcome State Fault Refusal :=
  event (fun s => s.throttle dies) s

/-- VOLTAGE_DROOP: cycles of a die stretch; what is counted in cycles does not change (00 R4; 01 R18). -/
def execVoltageDroop (_ : Nat) (s : State) : Host.Outcome State Fault Refusal := event id s

/-! ### Quarantine of a cluster (01 R21) -/

/-- CLUSTER_QUARANTINE: no gang starts on the cluster, and each gang on it is to migrate. -/
def State.clusterOut (s : State) (die cluster : Nat) : State :=
  if !Config.clusterPresent die cluster then s
  else
    let ck := die * 32 + cluster
    let s : State := s.setClusterAt ck { s.clusterAt ck with quarantined := true }
    let us := (s.units.filter (fun e => e.2.members.any (fun p => Party.clusterKey p == ck))).map (·.1)
    us.foldl (fun s u => s.startMigration u 0 none) s

def execClusterQuarantine (die cluster : Nat) (s : State) : Host.Outcome State Fault Refusal :=
  event (fun s => s.clusterOut die cluster) s

/-! ### Culverts (01 R22; 19 R287, R288): 17 of them, 4 virtual channels each -/

def State.mapCulvert (s : State) (c : Nat) (f : Culvert → Culvert) : State :=
  if c < 17 then { s with culverts := tset s.culverts c (f (tgetD s.culverts c Culvert.reset)) } else s

/-- LANE_SPARE_SWAP: a spare replaces the lane, or the culvert falls to half width. -/
def Culvert.swapLane (c : Culvert) : Culvert :=
  if 0 < c.spares then { c with spares := c.spares - 1 } else { c with half := true }

def execLaneSpareSwap (culvert : Nat) (s : State) : Host.Outcome State Fault Refusal :=
  event (fun s => s.mapCulvert culvert Culvert.swapLane) s

/-- FLIT_REPLAY: a flit and those after it in its virtual channel are sent again under the key they had; each is
delivered once and in order, so that no operation changes. -/
def execFlitReplay (culvert channel : Nat) (s : State) : Host.Outcome State Fault Refusal :=
  event (fun s => if channel < 4 then s.mapCulvert culvert (fun c => { c with resent := c.resent + 1 }) else s) s

/-- KEY_LOAD: a new key at the unused index; new flits use it. While both keys are live there is no unused index. -/
def Culvert.loadKey (c : Culvert) (key : Nat) : Culvert :=
  match c.keys with
  | [] => { c with keys := [(c.keyIndex, key)] }
  | [_] => { c with keyIndex := 1 - c.keyIndex, keys := c.keys ++ [(1 - c.keyIndex, key)] }
  | _ => c

def execKeyLoad (culvert key : Nat) (s : State) : Host.Outcome State Fault Refusal :=
  event (fun s => s.mapCulvert culvert (fun c => c.loadKey key)) s

/-- KEY_RETIRE: the old key goes, once no flit under it is in the replay buffer. -/
def Culvert.retireKey (c : Culvert) : Culvert := { c with keys := c.keys.filter (fun k => k.1 == c.keyIndex) }

def execKeyRetire (culvert : Nat) (s : State) : Host.Outcome State Fault Refusal :=
  event (fun s => s.mapCulvert culvert Culvert.retireKey) s

/-! ### HBM4E channels (23 R333) -/

/-- The first physical address of the top 1.5 GiB of a stack's present range. -/
def State.topRange (s : State) (stack : Nat) : Nat := stack * 2 ^ 36 + (32 - (s.retired stack + 1)) * channelBytes

/-- HBM_CHANNEL_FAILURE: step 1 of a retirement. The manual states neither CAUSE nor DOMAIN of the record (DESIGN CHOICE:
log 21). Where the port or its queue takes no record, the channel fails unreported. -/
def State.channelFails (s : State) (stack channel : Nat) : State :=
  let k := stack * 32 + channel
  if decide (16 ≤ stack) || decide (32 ≤ channel) || (tget s.channels k).isSome then s
  else
    let (cause, s) := s.fresh
    let (dom, s) := s.fresh
    let s1 := s.postHost (cause.toNat % 256) 9 (dom.toNat % 128) none none (some (s.topRange stack)) (some (stack + channel * 16))
    { s1 with channels := tset s.channels k (if s1.eventSeq == s.eventSeq then 3 else 1) }

/-- A failing channel that can no longer be read before RETIRE: its lines are poisoned with KIND 8 (23 R333). -/
def State.unreadable (s : State) (stack channel : Nat) : State :=
  if (tget s.channels (stack * 32 + channel)).any (fun v => v != 2) then
    let mine := ((List.range 0xC0000000).map (stack * 2 ^ 32 + ·)).filter (fun g => s.channelOf (g * 16) == channel && s.present (g * 16))
    { s with memPoison := s.memPoison ++ mine.filter (fun g => !s.memPoison.contains g) }
  else s

/-- An access of a core meets an error that ECC corrects (15 R213). -/
def State.corrected (s : State) (die core : Nat) : State :=
  if s.corePresent die core then s.addEv (die * 256 + core) evEcccor 1 else s

def execHbmChannelFailure (stack channel : Nat) (s : State) : Host.Outcome State Fault Refusal :=
  event (fun s => s.channelFails stack channel) s

/-! ### Asynchronous events of a slot (09 R115, R117, R121) -/

/-- ASYNC_EVENT_TRAP: a ready slot that owes no trap takes its first enabled event instead of its next bundle. A pair whose
C-word has issued is not over: its A-word comes first (03 R40). -/
def State.asyncTrap (s : State) (p : Party) : State :=
  match s.thread? p with
  | none => s
  | some t =>
    if !s.ready p || !t.owed.isEmpty || t.firstTrap.isSome || (tget s.rest (Party.key p)).isSome then s
    else
      match s.pendingEvent p with
      | some c => s.takeEvent p c
      | none => s

def execAsyncEventTrap (p : Party) (s : State) : Host.Outcome State Fault Refusal := event (fun s => s.asyncTrap p) s

/-- TIMER_COMPARE. -/
def execTimerCompare (p : Party) (s : State) : Host.Outcome State Fault Refusal := event (fun s => s.compareTimer p) s

/-- SLEEP_WAKE. -/
def execSleepWake (p : Party) (s : State) : Host.Outcome State Fault Refusal := event (fun s => s.wakeSleep p) s

/-! ### Bundles that do not form (05 R51, R65; 09 R110; 15 R203) -/

/-- The bundle at the slot's pc does not form for a word at an address: EINFO holds the word (05 R51). -/
def formTrap (cause : Nat) (addr : Word) (w : IWord) (second : Bool) : Eff :=
  .error (.trap cause addr (w.zeroExtend 64) (some (b2n second)))

def execIllegalEncoding (addr : Word) (w : IWord) (second : Bool) (s : State) : Host.Outcome State Fault Refusal :=
  run (fun _ => formTrap 0x01 addr w second) s

def execBundleMisplacement (addr : Word) (w : IWord) (second : Bool) (s : State) : Host.Outcome State Fault Refusal :=
  run (fun _ => formTrap 0x02 addr w second) s

/-- A fetch that fails: the word at an address outside the global space, without the right X, or whose translation
fails. -/
def effFetchFault (addr : Word) (why : FetchFail) (s : State) : Eff :=
  let word := b2n (addr != s.issue.pc)
  match why with
  | .address => .error (.trap 0x06 addr 0x46 (some word))
  | .protection r => .error (.trap 0x06 addr (w64 (needX * 16 + r)) (some word))
  | .translation k =>
    let p : Poison := ⟨0, k, false, 0, addr.toNat, addr.toNat⟩
    .error (.trap p.cause addr p.einfo (some word))

def execFetchFault (addr : Word) (why : FetchFail) (s : State) : Host.Outcome State Fault Refusal :=
  run (effFetchFault addr why) s

end Sys2Proof.Machine
end

