-- ==== Sys2Proof/Machine/HostCmd.lean ====
section
/-! DEFINITION. The host port and the host's commands (23 R327 to R333; 03 R46, R47). -/

namespace Sys2Proof.Machine

/-! ### Port registers (23 Table 23.7) -/

/-- The device reads the package control block. -/
def State.readPcb (s : State) : State :=
  { s with port := { s.port with block := wordsOf (s.readPa s.port.pcb.toNat 64) 8 } }

/-- HOST_CTRL_ENABLE: a write of 1 to CTRL.ENABLE. A package whose firmware has not started does not take it
(01 R24). -/
def State.enablePort (s : State) : State :=
  if !s.booted || s.port.enable then s else { s with port := { s.port with enable := true } }.readPcb

def execHostCtrlEnable (s : State) : Host.Outcome State Fault Refusal := event State.enablePort s

/-- HOST_REGISTER_WRITE: a write of 64 bits at an offset of BAR0. PCB is ignored while ENABLE = 1; a write of CTRL sets
ENABLE as HOST_CTRL_ENABLE does, or clears it; CMDTAIL has 32 bits; the others are read only. -/
def State.portWrite (s : State) (offset : Nat) (value : Word) : State :=
  if offset = 0x008 then if s.port.enable then s else { s with port := { s.port with pcb := value } }
  else if offset = 0x010 then
    if value.getLsbD 0 then s.enablePort else { s with port := { s.port with enable := false } }
  else if offset = 0x018 then { s with port := { s.port with cmdtail := value.toNat % 2 ^ 32 } }
  else s

def execHostRegisterWrite (offset : Nat) (value : Word) (s : State) : Host.Outcome State Fault Refusal :=
  event (fun s => s.portWrite offset value) s

/-! ### The command ring (23 R332) -/

/-- A command record. -/
structure Cmd where
  op : Nat
  queue : Nat
  arg0 : Nat
  arg1 : Nat
  deriving DecidableEq, Repr

/-- The place of the record at the head of the ring, if there is one. -/
def State.cmdPlace (s : State) : Option Nat :=
  if !s.port.enable || s.port.cmdhead == s.port.cmdtail then none
  else
    let w := portWord s 6
    some (bits w 51 6 * 64 + 64 * (s.port.cmdhead % 2 ^ bits w 59 56))

/-- The record at the head of the ring. -/
def State.cmdHead (s : State) : Option Cmd :=
  s.cmdPlace.map (fun a =>
    let w := s.readPa a 8
    ⟨bits w 7 0, bits w 23 16, s.readPa (a + 8) 8, s.readPa (a + 16) 8⟩)

/-- The command of the record at a has completed: STATUS, 1 done and 2 refused, and CMDHEAD. The package arbiter orders
it (23 R332). -/
def State.recordDone (s : State) (a status : Nat) : State :=
  let (_, s) := s.nextSeq
  let s : State := s.putHome (a + 1) 1 status
  { s with port := { s.port with cmdhead := (s.port.cmdhead + 1) % 2 ^ 32, begun := false } }

/-- The command at the head of the ring has completed. -/
def State.cmdDone (s : State) (status : Nat) : State :=
  match s.cmdPlace with
  | none => s
  | some a => s.recordDone a status

/-- Performs the command at the head if its OP is the one named: its effect, or none where it is refused. -/
def State.command (s : State) (op : Nat) (f : Cmd → Option State) : State :=
  match s.cmdHead with
  | none => s
  | some c =>
    if c.op != op then s
    else
      match f c with
      | some s' => s'.cmdDone 1
      | none => s.cmdDone 2

/-! ### Queues -/

/-- QCREATE: a queue is registered from its entry. -/
def State.qcreate (s : State) (c : Cmd) : Option State :=
  if (s.queue c.queue).isSome then none
  else
    let entry := wordsOf (s.readPa (bits (portWord s 4) 51 6 * 64 + 64 * c.queue) 64) 8
    let q : LQueue := ⟨entry, w64 (nth entry 5 0), 0, 0, none, false, [], [0, 0, 0], [], [], 0, true, [], [], false, []⟩
    let owners := s.queues.filter (fun e => e.2.sharesWith q)
    if decide (2 ≤ owners.length) || owners.any (fun e => e.2.slice == 0) || (!owners.isEmpty && q.slice == 0) then none
    else
      let now := s.clock q.die
      some (s.setQueue c.queue { q with since := now, sliceAt := now, current := owners.isEmpty })

def execQcreate (s : State) : Host.Outcome State Fault Refusal := event (fun s => s.command 1 s.qcreate) s

/-- QSTOP: dispatch stops and every context of the queue is to be pre-empted. The command completes when each has been,
with STATUS 2 where one could not be saved (23 R320). A first stage of the watchdog that has begun goes on (23 R321). -/
def State.qstop (s : State) : State :=
  match s.cmdHead with
  | none => s
  | some c =>
    if c.op != 2 then s
    else
      match s.queue c.queue with
      | none => s.cmdDone 2
      | some q =>
        if !s.port.begun then
          { s.stopQueue c.queue q q.stage1 with port := { s.port with begun := true } }
        else if q.changing.isEmpty then s.cmdDone (if q.saveFailed then 2 else 1)
        else s

def execQstop (s : State) : Host.Outcome State Fault Refusal := event State.qstop s

/-- QRESUME: dispatch goes on, and the saved contexts return. -/
def State.qresume (s : State) (c : Cmd) : Option State :=
  (s.queue c.queue).map (fun q =>
    s.setQueue c.queue { q with stopped := false, stage1 := none, changing := [], reached := [], saveFailed := false, since := s.clock q.die })

def execQresume (s : State) : Host.Outcome State Fault Refusal := event (fun s => s.command 3 s.qresume) s

/-- The first bundle that a member of a unit has not issued. -/
def State.unitPc (s : State) (u : Nat) : Nat :=
  match s.contexts.find? (fun e => e.2.unit == u) with
  | some e => e.2.pc.toNat
  | none => ((s.saved.find? (fun x => x.thread.unit == u)).map (fun x => x.thread.pc.toNat)).getD 0

/-- QKILL: every gang of the queue is killed, and its accepted launches are discarded without CFLAG. The manual states no
CAUSE for these kills (DESIGN CHOICE: log 21). -/
def State.qkill (s : State) (c : Cmd) : Option State :=
  match s.queue c.queue with
  | none => none
  | some q =>
    let (cause, s) := s.fresh
    let mine := s.units.filter (fun e => e.2.queue == some c.queue)
    let s : State := mine.foldl (fun s e =>
      s.killUnit e.1 (cause.toNat % 256) 0 (e.2.members.head?.getD ⟨0, 0, 0⟩) (s.unitPc e.1)) s
    let s : State := { s with
      launches := (s.launches.map (fun e => if e.2.queue == c.queue then (e.1, { e.2 with dead := true }) else e)).filter
        (fun e => !(e.2.queue == c.queue && e.2.retired == e.2.started)) }
    some (s.setQueue c.queue { q with
      launches := []
      fails := []
      rejects := q.rejects.filter (fun r => r.accepted.isNone)
      stopped := false
      stage1 := none
      changing := []
      reached := []
      saveFailed := false
      since := s.clock q.die })

def execQkill (s : State) : Host.Outcome State Fault Refusal := event (fun s => s.command 4 s.qkill) s

/-- QDESTROY: refused while the queue holds a context or an accepted launch. -/
def State.qdestroy (s : State) (c : Cmd) : Option State :=
  match s.queue c.queue with
  | none => none
  | some q =>
    if s.units.any (fun e => e.2.queue == some c.queue) || s.launches.any (fun e => e.2.queue == c.queue) ||
        s.saved.any (fun x => x.queue == c.queue) || s.contexts.any (fun e => s.queueOfThread e.1 e.2 == some c.queue)
    then none
    else
      let s : State := { s with queues := terase s.queues c.queue }
      some (match s.queues.find? (fun e => e.2.sharesWith q) with
        | some (r, x) => s.setQueue r { x with current := true }
        | none => s)

def execQdestroy (s : State) : Host.Outcome State Fault Refusal := event (fun s => s.command 5 s.qdestroy) s

/-- QWDOG. -/
def State.qwdog (s : State) (c : Cmd) : Option State :=
  (s.queue c.queue).map (fun q => s.setQueue c.queue { q with wdog := w64 c.arg0 })

def execQwdog (s : State) : Host.Outcome State Fault Refusal := event (fun s => s.command 13 s.qwdog) s

/-! ### Buddy nodes (03 R46, R47) -/

def nodeCode (die level index : Nat) : Nat := die + level * 16 + index * 128

/-- A core of a node, if there is such a node. -/
def nodeCore (n : Nat) : Option Nat :=
  if decide (12 ≤ nodeDie n) || decide (5 < nodeLevel n) || bits n 63 12 != 0 then none
  else (List.range 256).find? (fun k => nodeIndexOf (nodeLevel n) k == nodeIndex n)

/-- The node of a level above or equal that holds a node. -/
def nodeAbove (n core level : Nat) : Nat := nodeCode (nodeDie n) level (nodeIndexOf level core)

/-- A node is idle when no launch queue owns it and none of its descendants is owned. A partition of whole dies owns
their 256-core nodes. -/
def State.nodeIdle (s : State) (n : Nat) : Bool :=
  s.queues.all (fun e =>
    let w := nth e.2.entry 1 0
    if bits w 23 12 != 0 then !(bit (bits w 23 12) (nodeDie n) && nodeLevel n == 0)
    else
      let m := bits w 11 0
      match nodeCore m with
      | none => true
      | some k => !(nodeDie m == nodeDie n && decide (nodeLevel n ≤ nodeLevel m) && nodeAbove m k (nodeLevel n) == n))

/-- SPLIT: an idle node is split into its two children; an 8-core node has none. -/
def State.splitNode (s : State) (c : Cmd) : Option State :=
  match nodeCore c.arg0 with
  | none => none
  | some _ =>
    if nodeLevel c.arg0 == 5 || !s.nodeIdle c.arg0 then none
    else some { s with nodes := if s.nodes.contains c.arg0 then s.nodes else s.nodes ++ [c.arg0] }

def execSplit (s : State) : Host.Outcome State Fault Refusal := event (fun s => s.command 6 s.splitNode) s

/-- MERGE: the node and its sibling, both idle, become their parent again; a 256-core node has no sibling. -/
def State.mergeNode (s : State) (c : Cmd) : Option State :=
  match nodeCore c.arg0 with
  | none => none
  | some k =>
    if nodeLevel c.arg0 == 0 then none
    else
      let parent := nodeAbove c.arg0 k (nodeLevel c.arg0 - 1)
      let inside (m : Nat) : Bool :=
        match nodeCore m with
        | none => false
        | some j => nodeDie m == nodeDie parent && decide (nodeLevel parent ≤ nodeLevel m) &&
            nodeAbove m j (nodeLevel parent) == parent
      -- the parent's descendants are those of the two siblings
      if (List.range 256).all (fun j =>
          let m := nodeCode (nodeDie parent) (nodeLevel c.arg0) (nodeIndexOf (nodeLevel c.arg0) j)
          nodeAbove m j (nodeLevel parent) != parent || s.nodeIdle m) then
        some { s with nodes := s.nodes.filter (fun m => !inside m) }
      else none

def execMerge (s : State) : Host.Outcome State Fault Refusal := event (fun s => s.command 7 s.mergeNode) s

/-! ### Debugging (23 R327, R328) -/

def maskDies (m : Nat) : List Nat := (List.range 12).filter (bit m)

def State.haltDies (s : State) (m : Nat) (v : Bool) : State :=
  (maskDies m).foldl (fun s d => s.setDie d { s.dieAt d with halted := v }) s

/-- HALT, with its record of KIND 6; the manual states no DOMAIN of it (DESIGN CHOICE: log 21). -/
def State.haltCmd (s : State) (c : Cmd) : Option State :=
  let s : State := s.haltDies c.arg0 true
  let (dom, s) := s.fresh
  some (s.postHost 0x17 6 (dom.toNat % 128) none none none none)

def execHalt (s : State) : Host.Outcome State Fault Refusal := event (fun s => s.command 8 s.haltCmd) s

/-- RUN. -/
def execRun (s : State) : Host.Outcome State Fault Refusal :=
  event (fun s => s.command 9 (fun c => some (s.haltDies c.arg0 false))) s

/-- The context of a halted slot that a command names. -/
def State.haltedSlot (s : State) (c : Cmd) : Option (Party × Thread) :=
  let p := partyOf (bits c.arg0 15 0)
  match s.thread? p with
  | some t => if t.halted || (s.dieAt p.die).halted then some (p, t) else none
  | none => none

/-- SNAP: the image and the extension of a halted slot go to a physical address. -/
def State.snapCmd (s : State) (c : Cmd) : Option State :=
  (s.haltedSlot c).map (fun e =>
    let s' : State := s.writeWords c.arg1 (s.recordWords e.1 e.2 (s.baggage e.1 e.2 0 false) c.arg1)
    { s' with freeCount := s'.freeCount + 40 })

def execSnap (s : State) : Host.Outcome State Fault Refusal := event (fun s => s.command 10 s.snapCmd) s

/-- What PATCH gives a context: all that an image holds, PC included; a register that the image's extension marks as
poisoned and that still is keeps its poison. -/
def State.patched (s : State) (p : Party) (t : Thread) (ws : List Nat) : Thread :=
  let x := bits (nth ws 47 0) 55 0
  let pmask := if x = 0 then 0 else s.readPa (x + 24) 8
  let n : Thread := s.placeImage p (t.withImage ws) ws
  { n with
    g := Vector.ofFn (fun (i : Fin 32) =>
      match t.g[i] with
      | .poison r => if bit pmask i.val then .poison r else n.g[i]
      | _ => n.g[i])
    pc := w64 (nth ws 31 0)
    epc := w64 (nth ws 33 0)
    status := wset (w64 (nth ws 32 0)) stMpend false
    park := none
    halted := false }

/-- PATCH: a halted slot is loaded from an image. An image with a reserved bit set or a value outside Table 23.2 is
refused. -/
def State.patchCmd (s : State) (c : Cmd) : Option State :=
  match s.haltedSlot c with
  | none => none
  | some (p, t) =>
    let ws := wordsOf (s.readPa c.arg1 384) 48
    if !imageOk ws then none
    else
      let s : State := { s with rest := terase s.rest (Party.key p) }
      some ((s.setThread p (s.patched p t ws)).departed p t.dom)

def execPatch (s : State) : Host.Outcome State Fault Refusal := event (fun s => s.command 11 s.patchCmd) s

/-! ### The rest -/

/-- PCBLOAD: the control block is read again; STATUS goes to the record that was performed, wherever the block now has the
ring. -/
def State.pcbload (s : State) : State :=
  match s.cmdHead, s.cmdPlace with
  | some c, some a => if c.op != 12 then s else s.readPcb.recordDone a 1
  | _, _ => s

def execPcbload (s : State) : Host.Outcome State Fault Refusal := event State.pcbload s

/-- RETIRE of a channel whose failure has been reported: the top 1.5 GiB of the stack becomes absent; the rest is re-homed with
its data and its poison, which no access sees: lines of the removed range and lines whose slice changes leave the slice that held
them, and the configuration record lists the new channel function. -/
def State.retireChannel (s : State) (c : Cmd) : Option State :=
  let k := c.arg0 * 32 + c.arg1
  if decide (16 ≤ c.arg0) || decide (32 ≤ c.arg1) || tget s.channels k != some 1 then none
  else
    let s1 : State := { s with channels := tset s.channels k 2 }
    let record := s.port.record.map (fun r =>
      { r with retired := r.retired ++ [k], spread := tset r.spread c.arg0 (s1.channelsIn c.arg0) })
    let s1 : State := { s1 with port := { s1.port with record := record } }
    let d := Config.stackDie c.arg0
    let di := s1.dieAt d
    some (s1.setDie d { di with l2 := di.l2.filter (fun e => s1.present (e.1 * 256) && s1.l2SetOf e.1 == s.l2SetOf e.1) })

def execRetire (s : State) : Host.Outcome State Fault Refusal := event (fun s => s.command 14 s.retireChannel) s

/-- A record whose OP is not assigned is refused (DESIGN CHOICE: log 45). -/
def State.badCommand (s : State) : State :=
  match s.cmdHead with
  | some c => if c.op = 0 || 14 < c.op then s.cmdDone 2 else s
  | none => s

end Sys2Proof.Machine
end

