-- ==== Sys2Proof/Machine/Float.lean ====
section
/-! DEFINITION. Scalar floating point (spec/09 R102 to R107; 07 R83 to R89). -/

namespace Sys2Proof.Machine

/-- The operand of a floating-point width in a register: its low bits (09 R103). -/
def fbits (w : FWidth) (x : Word) : Nat := x.toNat % 2 ^ (FWidth.shape w).bits

def fval (w : FWidth) (x : Word) : FpVal := (FWidth.shape w).read (fbits w x)

/-- A floating-point word with two sources that rounds in mode m: the result is zero-extended (09 R103). -/
def floatOp2 (m : Rounding) (d a b : Reg) (f : Nat → Word → Word → Nat × Counts) (s : State) : Eff := do
  let (x, y, s) ← s.read2 a b
  s.checkDest d
  let (r, s) := s.drawFor m
  let v := f r x y
  pure (s.writeCounted d (w64 v.1) v.2)

def execFadd (w : FWidth) (m : Rounding) (d a b : Reg) (s : State) : Host.Outcome State Fault Refusal :=
  run (floatOp2 m d a b (fun r x y => (FWidth.shape w).add m r (fval w x) (fval w y))) s

def execFsub (w : FWidth) (m : Rounding) (d a b : Reg) (s : State) : Host.Outcome State Fault Refusal :=
  run (floatOp2 m d a b (fun r x y => (FWidth.shape w).sub m r (fval w x) (fval w y))) s

def execFmul (w : FWidth) (m : Rounding) (d a b : Reg) (s : State) : Host.Outcome State Fault Refusal :=
  run (floatOp2 m d a b (fun r x y => (FWidth.shape w).mul m r (fval w x) (fval w y))) s

def execFdiv (w : FWidth) (m : Rounding) (d a b : Reg) (s : State) : Host.Outcome State Fault Refusal :=
  run (floatOp2 m d a b (fun r x y => (FWidth.shape w).div m r (fval w x) (fval w y))) s

/-- FMA: x × y + z with z = gd (09 R103). -/
def effFma (w : FWidth) (m : Rounding) (d a b : Reg) (s : State) : Eff := do
  s.checkPoison [d, a, b]
  let (z, s) ← s.readG d
  let (x, s) ← s.readG a
  let (y, s) ← s.readG b
  s.checkDest d
  let (r, s) := s.drawFor m
  let v := (FWidth.shape w).fma m r (fval w x) (fval w y) (fval w z)
  pure (s.writeCounted d (w64 v.1) v.2)

def execFma (w : FWidth) (m : Rounding) (d a b : Reg) (s : State) : Host.Outcome State Fault Refusal :=
  run (effFma w m d a b) s

/-- A floating-point word with one source that rounds in mode m. -/
def floatOp1 (m : Rounding) (d a : Reg) (f : Nat → Word → Word × Counts) (s : State) : Eff := do
  s.checkPoison [a]
  let (x, s) ← s.readG a
  s.checkDest d
  let (r, s) := s.drawFor m
  let v := f r x
  pure (s.writeCounted d v.1 v.2)

def execFsqrt (w : FWidth) (m : Rounding) (d a : Reg) (s : State) : Host.Outcome State Fault Refusal :=
  run (floatOp1 m d a (fun r x =>
    let v := (FWidth.shape w).sqrt m r (fval w x)
    (w64 v.1, v.2))) s

/-- FMIN and FMAX round nothing (09 R103; 07 R89). -/
def floatPick (w : FWidth) (wantMax : Bool) (d a b : Reg) (s : State) : Eff := do
  let (x, y, s) ← s.read2 a b
  s.checkDest d
  let v := (FWidth.shape w).minMax wantMax (fbits w x) (fbits w y)
  pure (s.writeCounted d (w64 v.1) v.2)

def execFmin (w : FWidth) (d a b : Reg) (s : State) : Host.Outcome State Fault Refusal :=
  run (floatPick w false d a b) s

def execFmax (w : FWidth) (d a b : Reg) (s : State) : Host.Outcome State Fault Refusal :=
  run (floatPick w true d a b) s

/-- A comparison and its INVALID (09 R104). -/
def fcmpOf (c : FCond) (x y : FpVal) : Bool × Counts :=
  let signalling := x.isSignalling || y.isSignalling
  let anyNan := x.isNan || y.isNan
  match c with
  | .eq => (x.eqv y, invalidIf signalling)
  | .lt => (x.lt y, invalidIf anyNan)
  | .le => (x.lt y || x.eqv y, invalidIf anyNan)
  | .un => (anyNan, invalidIf signalling)

/-- FCMP (09 R104). -/
def effFcmp (c : FCond) (w : FWidth) (d a b : Reg) (s : State) : Eff := do
  let (x, y, s) ← s.read2 a b
  s.checkDest d
  let v := fcmpOf c (fval w x) (fval w y)
  pure (s.writeCounted d (w64 (b2n v.1)) v.2)

def execFcmp (c : FCond) (w : FWidth) (d a b : Reg) (s : State) : Host.Outcome State Fault Refusal :=
  run (effFcmp c w d a b) s

/-- The result of a conversion in a register: an integer is sign-extended, a floating-point value zero-extended
(09 R105). -/
def cvtExtend (f : Fmt) (v : Nat) : Word :=
  match f.shape with
  | some _ => w64 v
  | none => BitVec.ofInt 64 (signedOf f.bits v)

/-- FCVT between F and G (09 R105): always the column .sat. -/
def fcvtOf (src dst : Fmt) (m : Rounding) (r : Nat) (x : Word) : Word × Counts :=
  let v := convert src dst m .sat r (x.toNat % 2 ^ src.bits)
  (cvtExtend dst v.1, v.2)

def execFcvt (dir : CvtDir) (w : FWidth) (m : Rounding) (d a : Reg) (g : Fmt) (s : State) :
    Host.Outcome State Fault Refusal :=
  match dir with
  | .out => run (floatOp1 (cvtMode (FWidth.fmt w) g m) d a (fun r x => fcvtOf (FWidth.fmt w) g m r x)) s
  | .into => run (floatOp1 (cvtMode g (FWidth.fmt w) m) d a (fun r x => fcvtOf g (FWidth.fmt w) m r x)) s

/-- FCLASS (09 R106). -/
def execFclass (w : FWidth) (d a : Reg) (s : State) : Host.Outcome State Fault Refusal :=
  run (floatOp1 .rne d a (fun _ x => (w64 (2 ^ (FWidth.shape w).classBit (fbits w x)), []))) s

/-- FSGN: the magnitude of ga with a new sign (09 R107). -/
def fsgnOf (c : SgnOp) (w : FWidth) (x y : Word) : Nat :=
  let top := (FWidth.shape w).bits - 1
  let sx := bit (fbits w x) top
  let sy := bit (fbits w y) top
  let sign : Bool := match c with
    | .copy => sy
    | .neg => !sy
    | .xor => sx != sy
  fbits w x % 2 ^ top + b2n sign * 2 ^ top

def execFsgn (c : SgnOp) (w : FWidth) (d a b : Reg) (s : State) : Host.Outcome State Fault Refusal :=
  run (floatOp2 .rne d a b (fun _ x y => (fsgnOf c w x y, []))) s

end Sys2Proof.Machine
end

