-- ==== Sys2Proof/Machine/Replies.lean ====
section
/-! DEFINITION. What comes back from memory: load replies and statuses, stores and atomics as they are performed, vector
rows, and fills of an L2 slice (15 R200, R207, R208, R218 to R224; 11 R132). -/

namespace Sys2Proof.Machine

/-- The status of an operation, where its reply is all that it still needs. -/
def State.statusReply (s : State) (f : Flight) (op : StatusOp) (d : Nat) : State :=
  if !s.mayPerform f 0 then s
  else
    match op with
    | .launch ga gb => s.launchDone f ga gb d
    | .terp base len =>
      match s.terpSet f base len with
      | (v, s) => s.statusArrive f d (.val (w64 v))
    | .region ws => s.regionDone f ws d
    | .fork => s.forkDone f d
    | .revq a => s.revqDone f a d
    | .rtswap a => s.loadBanks f a d
    | .sptake k => s.sptakeDone f k d
    | .sflush op rows => if s.rowsDone f op rows then s.statusArrive f d (.val (w64 rows)) else s
    | .attach .. | .join _ => s

/-- LOAD_REPLY: a part of a load arrives, or a status. -/
def State.loadReply (s : State) (op part : Nat) : State :=
  match s.flight? op with
  | none => s
  | some f =>
    match f.kind with
    | .load (.tile _) => s
    | .load goal => s.loadArrive f goal part
    | .status x d => s.statusReply f x d
    | _ => s

def execLoadReply (op part : Nat) (s : State) : Host.Outcome State Fault Refusal := event (fun s => s.loadReply op part) s

/-- STORE_PERFORMED: a part of a store is performed, or held. -/
def State.storePerformed (s : State) (op part : Nat) : State :=
  match s.flight? op with
  | none => s
  | some f =>
    match f.kind with
    | .store | .scatter .. => s.storePerform f part
    | _ => s

def execStorePerformed (op part : Nat) (s : State) : Host.Outcome State Fault Refusal :=
  event (fun s => s.storePerformed op part) s

/-- ATOMIC_PERFORM: an atomic is performed at its home slice or polder. -/
def State.atomicPerform (s : State) (op : Nat) : State :=
  match s.flight? op with
  | none => s
  | some f =>
    match f.kind with
    | .atomic a x c d => s.atomicArrive f a x c d
    | _ => s

def execAtomicPerform (op : Nat) (s : State) : Host.Outcome State Fault Refusal := event (fun s => s.atomicPerform op) s

/-- VECTOR_ROW_FILL: the row of a vector instruction fills once the slot spacing is over. -/
def State.rowFill (s : State) (op : Nat) : State :=
  match s.flight? op with
  | none => s
  | some f =>
    match f.kind with
    | .vfill k tile r at_ =>
      if s.clock f.party.die < at_ then s
      else
        let c := s.coreAt k
        (s.setCoreAt k (c.mapRow tile r (fun x => if x.fill = .empty op then { x with fill := .full } else x))).dropFlight op
    | _ => s

def execVectorRowFill (op : Nat) (s : State) : Host.Outcome State Fault Refusal := event (fun s => s.rowFill op) s

/-- Every vector row whose time has come fills. -/
def State.fillRowsDue (s : State) : State :=
  s.flights.foldl (fun s f =>
    match f.kind with
    | .vfill .. => s.rowFill f.id
    | _ => s) s

/-- The physical address to which a part of a load goes, with the attributes of its page. -/
def State.partPlace (s : State) (f : Flight) (p : Part) : Option Xlat :=
  match p.loc, p.hit with
  | .va _, some h => some ⟨h.1, 0, h.2⟩
  | .va a, none => s.physOf (Party.clusterKey f.party) a f.rev
  | .pa a, _ => some ⟨a, 0, false⟩
  | .sram _, _ => none

/-- A sector arrives in its slice: its line has a way of its set, and no request has reached the sector yet. A line that a
request on a STRM page waits for is a STRM line (15 R197, R208). -/
def State.l2Arrive (s : State) (h pa : Nat) : State :=
  let strm := s.flights.any (fun f => f.parts.any (fun p =>
    p.open_ && (s.partPlace f p).any (fun x => x.pa / 64 == pa / 64 && x.attr == 1)))
  let d := s.l2Room h (pa / 256)
  let l := (tget d.l2 (pa / 256)).getD ⟨0, 0, false, strm, [], 0, 0⟩
  let sector := pa / 64 % 4
  if bit l.sectors sector then s
  else
    s.setDie h { d with
      l2 := tset d.l2 (pa / 256)
        { l with sectors := l.sectors + 2 ^ sector, unserved := putBits l.unserved sector sector 1, used := d.l2Uses }
      l2Uses := d.l2Uses + 1 }

/-- L2_FILL: a sector arrives from HBM4E at its home slice, and the loads that wait for it are served. -/
def State.l2Fill (s : State) (pa : Nat) : State :=
  match homeDie pa with
  | none => s
  | some h =>
    if !s.present pa then s
    else
      (s.l2Arrive h pa).flights.foldl (fun s f =>
        match f.kind with
        | .load (.tile _) => s
        | .load goal =>
          (List.range f.parts.length).foldl (fun s i =>
            match s.flight? f.id with
            | none => s
            | some g =>
              match g.parts[i]? with
              | some p => if p.open_ && (s.partPlace g p).any (fun x => x.pa / 64 == pa / 64) then s.loadArrive g goal i else s
              | none => s) s
        | _ => s) (s.l2Arrive h pa)

def execL2Fill (pa : Nat) (s : State) : Host.Outcome State Fault Refusal := event (fun s => s.l2Fill pa) s

end Sys2Proof.Machine
end

