-- ==== Sys2Proof/Machine/Scalar.lean ====
section
/-! DEFINITION. Integer A-words, address arithmetic, control transfer and prefix predicates (09 R96 to R101, R108,
R109, R111; 05 R52). -/

namespace Sys2Proof.Machine

/-! ### Integer arithmetic (09 R97, R98) -/

def Width.bits : Width → Nat
  | .d => 64
  | .w => 32
  | .h => 16
  | .b => 8

/-- A result of n bits written to a register with the extension of 09 Table 9.4. -/
def extended (signed : Bool) (n t : Nat) : Word := if signed then BitVec.ofInt 64 (signedOf n t) else w64 (t % 2 ^ n)

/-- The shift count c of an integer AR word (09 R97). -/
def shiftCount (y : Word) : Nat := y.toNat % 64

/-- Leading zero bits of x among n. -/
def clzOf (n x : Nat) : Nat := if x = 0 then n else n - 1 - Nat.log2 x

/-- Trailing zero bits of x among n. -/
def ctzOf : Nat → Nat → Nat
  | 0, _ => 0
  | k + 1, x => if x % 2 = 1 then 0 else 1 + ctzOf k (x / 2)

/-- One bits of x among n. -/
def popcOf : Nat → Nat → Nat
  | 0, _ => 0
  | k + 1, x => x % 2 + popcOf k (x / 2)

/-- Bits [n−1:0] of a register, unsigned and signed. -/
def low (n : Nat) (x : Word) : Nat := x.toNat % 2 ^ n
def lowS (n : Nat) (x : Word) : Int := signedOf n x.toNat

/-- An integer AR word with two sources: the value is formed exactly, narrowed, extended and written (09 R97). -/
def intOp (d a b : Reg) (n : Nat) (t : Sat) (signed : Bool) (f : Word → Word → Int) (evs : Word → Counts) (s : State) :
    Eff := do
  let (x, y, s) ← s.read2 a b
  s.checkDest d
  let r := intResult n t (f x y)
  pure (s.writeCounted d (extended signed n r.1) (r.2 ++ evs y))

/-- An integer AR word with one source. -/
def intOp1 (d a : Reg) (f : Word → Word) (s : State) : Eff := do
  s.checkPoison [a]
  let (x, s) ← s.readG a
  s.checkDest d
  pure (s.writeG d (f x))

def noCounts (_ : Word) : Counts := []

/-- IDIVZ for a divisor of 0 (09 R97). -/
def countDivZero (n : Nat) (y : Word) : Counts := if low n y = 0 then [evIdivz] else []

def execAdd (w : Width) (m : Sat) (d a b : Reg) (s : State) : Host.Outcome State Fault Refusal :=
  run (intOp d a b (Width.bits w) m true (fun x y => lowS (Width.bits w) x + lowS (Width.bits w) y) noCounts) s

def execSub (w : Width) (m : Sat) (d a b : Reg) (s : State) : Host.Outcome State Fault Refusal :=
  run (intOp d a b (Width.bits w) m true (fun x y => lowS (Width.bits w) x - lowS (Width.bits w) y) noCounts) s

def execMul (w : Width) (m : Sat) (d a b : Reg) (s : State) : Host.Outcome State Fault Refusal :=
  run (intOp d a b (Width.bits w) m true (fun x y => lowS (Width.bits w) x * lowS (Width.bits w) y) noCounts) s

def execMulh (w : Width) (d a b : Reg) (s : State) : Host.Outcome State Fault Refusal :=
  let n := Width.bits w
  run (intOp d a b n .wrap true (fun x y => Int.fdiv (lowS n x * lowS n y) ((2 ^ n : Nat) : Int)) noCounts) s

def execMulhu (w : Width) (d a b : Reg) (s : State) : Host.Outcome State Fault Refusal :=
  let n := Width.bits w
  run (intOp d a b n .wrap false (fun x y => ((low n x * low n y / 2 ^ n : Nat) : Int)) noCounts) s

def execDiv (w : Width) (d a b : Reg) (s : State) : Host.Outcome State Fault Refusal :=
  let n := Width.bits w
  run (intOp d a b n .wrap true (fun x y => if low n y = 0 then -1 else Int.tdiv (lowS n x) (lowS n y))
    (countDivZero n)) s

def execDivu (w : Width) (d a b : Reg) (s : State) : Host.Outcome State Fault Refusal :=
  let n := Width.bits w
  run (intOp d a b n .wrap false
    (fun x y => if low n y = 0 then ((2 ^ n - 1 : Nat) : Int) else ((low n x / low n y : Nat) : Int))
    (countDivZero n)) s

def execRem (w : Width) (d a b : Reg) (s : State) : Host.Outcome State Fault Refusal :=
  let n := Width.bits w
  run (intOp d a b n .wrap true
    (fun x y => if low n y = 0 then lowS n x else lowS n x - lowS n y * Int.tdiv (lowS n x) (lowS n y))
    (countDivZero n)) s

def execRemu (w : Width) (d a b : Reg) (s : State) : Host.Outcome State Fault Refusal :=
  let n := Width.bits w
  run (intOp d a b n .wrap false
    (fun x y => if low n y = 0 then (low n x : Int) else ((low n x % low n y : Nat) : Int))
    (countDivZero n)) s

def execMin (w : Width) (d a b : Reg) (s : State) : Host.Outcome State Fault Refusal :=
  let n := Width.bits w
  run (intOp d a b n .wrap true (fun x y => if lowS n x ≤ lowS n y then lowS n x else lowS n y) noCounts) s

def execMax (w : Width) (d a b : Reg) (s : State) : Host.Outcome State Fault Refusal :=
  let n := Width.bits w
  run (intOp d a b n .wrap true (fun x y => if lowS n x ≤ lowS n y then lowS n y else lowS n x) noCounts) s

def execMinu (w : Width) (d a b : Reg) (s : State) : Host.Outcome State Fault Refusal :=
  let n := Width.bits w
  run (intOp d a b n .wrap false (fun x y => ((Nat.min (low n x) (low n y) : Nat) : Int)) noCounts) s

def execMaxu (w : Width) (d a b : Reg) (s : State) : Host.Outcome State Fault Refusal :=
  let n := Width.bits w
  run (intOp d a b n .wrap false (fun x y => ((Nat.max (low n x) (low n y) : Nat) : Int)) noCounts) s

def execSlt (w : Width) (d a b : Reg) (s : State) : Host.Outcome State Fault Refusal :=
  let n := Width.bits w
  run (intOp d a b n .wrap false (fun x y => if lowS n x < lowS n y then 1 else 0) noCounts) s

def execSltu (w : Width) (d a b : Reg) (s : State) : Host.Outcome State Fault Refusal :=
  let n := Width.bits w
  run (intOp d a b n .wrap false (fun x y => if low n x < low n y then 1 else 0) noCounts) s

def execAnd (w : Width) (d a b : Reg) (s : State) : Host.Outcome State Fault Refusal :=
  run (intOp d a b (Width.bits w) .wrap true (fun x y => ((x &&& y).toNat : Int)) noCounts) s

def execOr (w : Width) (d a b : Reg) (s : State) : Host.Outcome State Fault Refusal :=
  run (intOp d a b (Width.bits w) .wrap true (fun x y => ((x ||| y).toNat : Int)) noCounts) s

def execXor (w : Width) (d a b : Reg) (s : State) : Host.Outcome State Fault Refusal :=
  run (intOp d a b (Width.bits w) .wrap true (fun x y => ((x ^^^ y).toNat : Int)) noCounts) s

def execShl (w : Width) (d a b : Reg) (s : State) : Host.Outcome State Fault Refusal :=
  let n := Width.bits w
  run (intOp d a b n .wrap true (fun x y => ((low n x * 2 ^ shiftCount y : Nat) : Int)) noCounts) s

def execShr (w : Width) (d a b : Reg) (s : State) : Host.Outcome State Fault Refusal :=
  let n := Width.bits w
  run (intOp d a b n .wrap true (fun x y => ((low n x / 2 ^ shiftCount y : Nat) : Int)) noCounts) s

def execSar (w : Width) (d a b : Reg) (s : State) : Host.Outcome State Fault Refusal :=
  let n := Width.bits w
  run (intOp d a b n .wrap true (fun x y => Int.fdiv (lowS n x) ((2 ^ shiftCount y : Nat) : Int)) noCounts) s

def execClz (w : Width) (d a : Reg) (s : State) : Host.Outcome State Fault Refusal :=
  run (intOp1 d a (fun x => w64 (clzOf (Width.bits w) (low (Width.bits w) x)))) s

def execCtz (w : Width) (d a : Reg) (s : State) : Host.Outcome State Fault Refusal :=
  run (intOp1 d a (fun x => w64 (ctzOf (Width.bits w) (low (Width.bits w) x)))) s

def execPopc (w : Width) (d a : Reg) (s : State) : Host.Outcome State Fault Refusal :=
  run (intOp1 d a (fun x => w64 (popcOf (Width.bits w) (low (Width.bits w) x)))) s

/-- SEL (09 R98). -/
def effSel (d a b c : Reg) (s : State) : Eff := do
  s.checkPoison [a, b, c]
  let (x, s) ← s.readG a
  let (y, s) ← s.readG b
  let (z, s) ← s.readG c
  s.checkDest d
  pure (s.writeG d (if z = 0 then y else x))

def execSel (d a b c : Reg) (s : State) : Host.Outcome State Fault Refusal := run (effSel d a b c) s

/-! ### Immediate forms (09 R99, R100) -/

def execAddi (d a : Reg) (imm : BitVec 14) (s : State) : Host.Outcome State Fault Refusal :=
  run (intOp1 d a (fun x => x + imm.signExtend 64)) s

def execAndi (d a : Reg) (imm : BitVec 14) (s : State) : Host.Outcome State Fault Refusal :=
  run (intOp1 d a (fun x => x &&& imm.zeroExtend 64)) s

def execOri (d a : Reg) (imm : BitVec 14) (s : State) : Host.Outcome State Fault Refusal :=
  run (intOp1 d a (fun x => x ||| imm.zeroExtend 64)) s

def execXori (d a : Reg) (imm : BitVec 14) (s : State) : Host.Outcome State Fault Refusal :=
  run (intOp1 d a (fun x => x ^^^ imm.zeroExtend 64)) s

def execShli (d a : Reg) (c : BitVec 6) (s : State) : Host.Outcome State Fault Refusal :=
  run (intOp1 d a (fun x => x <<< c.toNat)) s

def execShri (d a : Reg) (c : BitVec 6) (s : State) : Host.Outcome State Fault Refusal :=
  run (intOp1 d a (fun x => x >>> c.toNat)) s

def execSari (d a : Reg) (c : BitVec 6) (s : State) : Host.Outcome State Fault Refusal :=
  run (intOp1 d a (fun x => x.sshiftRight c.toNat)) s

def execSlti (d a : Reg) (imm : BitVec 14) (s : State) : Host.Outcome State Fault Refusal :=
  run (intOp1 d a (fun x => if x.slt (imm.signExtend 64) then 1 else 0)) s

/-- LUI (09 R99). -/
def effLui (d : Reg) (imm : BitVec 19) (s : State) : Eff := do
  s.checkDest d
  pure (s.writeG d (imm.signExtend 64 <<< 14))

def execLui (d : Reg) (imm : BitVec 19) (s : State) : Host.Outcome State Fault Refusal := run (effLui d imm) s

/-- Bits [pos + len − 1:pos] of a register (09 R100). -/
def extract (x : Word) (pos len : Nat) : Word := w64 (x.toNat / 2 ^ pos % 2 ^ len)

/-- y with bits [pos + len − 1:pos] replaced by the low bits of x (09 R100). -/
def insert_ (y x : Word) (pos len : Nat) : Word := w64 (putBits y.toNat (pos + len - 1) pos x.toNat)

def execExt (d a : Reg) (pos len1 : BitVec 6) (s : State) : Host.Outcome State Fault Refusal :=
  run (intOp1 d a (fun x => extract x pos.toNat (len1.toNat + 1))) s

/-- INS reads gd as well (09 R100). -/
def effIns (d a : Reg) (pos len1 : BitVec 6) (s : State) : Eff := do
  let (y, x, s) ← s.read2 d a
  s.checkDest d
  pure (s.writeG d (insert_ y x pos.toNat (len1.toNat + 1)))

def execIns (d a : Reg) (pos len1 : BitVec 6) (s : State) : Host.Outcome State Fault Refusal :=
  run (effIns d a pos len1) s

/-! ### Address arithmetic (09 R101) -/

/-- A C-word that forms an address from two registers. -/
def addrOp (d a b : Reg) (f : Word → Word → Word) (s : State) : Eff := do
  let (x, y, s) ← s.read2 a b
  s.checkDest d
  pure (s.writeG d (f x y))

def execLea (d a b : Reg) (sc : Fin 4) (s : State) : Host.Outcome State Fault Refusal :=
  run (addrOp d a b (fun x y => x + y <<< sc.val)) s

def execCadd (d a b : Reg) (s : State) : Host.Outcome State Fault Refusal :=
  run (addrOp d a b (fun x y => x + y)) s

/-- CMOV: gd keeps its value when gb = 0. -/
def effCmov (d a b : Reg) (s : State) : Eff := do
  let (x, y, s) ← s.read2 a b
  s.checkDest d
  pure (if y = 0 then s else s.writeG d x)

def execCmov (d a b : Reg) (s : State) : Host.Outcome State Fault Refusal := run (effCmov d a b) s

def execCaddi (d a : Reg) (imm : BitVec 11) (s : State) : Host.Outcome State Fault Refusal :=
  run (intOp1 d a (fun x => x + imm.signExtend 64)) s

/-! ### Control transfer (09 R108, R109; 05 R52) -/

/-- A branch target: pc plus a signed offset in words. -/
def targetOf {n : Nat} (pc : Word) (off : BitVec n) : Word := pc + off.signExtend 64 <<< 2

/-- A CB branch. -/
def branch (d a : Reg) (off : BitVec 14) (taken : Word → Word → Bool) (s : State) : Eff := do
  let (x, y, s) ← s.read2 d a
  pure (if taken x y then s.goTo (targetOf s.issue.pc off) else s)

def execBeq (d a : Reg) (off : BitVec 14) (s : State) : Host.Outcome State Fault Refusal :=
  run (branch d a off (fun x y => x == y)) s

def execBne (d a : Reg) (off : BitVec 14) (s : State) : Host.Outcome State Fault Refusal :=
  run (branch d a off (fun x y => x != y)) s

def execBlt (d a : Reg) (off : BitVec 14) (s : State) : Host.Outcome State Fault Refusal :=
  run (branch d a off (fun x y => x.slt y)) s

def execBge (d a : Reg) (off : BitVec 14) (s : State) : Host.Outcome State Fault Refusal :=
  run (branch d a off (fun x y => !x.slt y)) s

def execBltu (d a : Reg) (off : BitVec 14) (s : State) : Host.Outcome State Fault Refusal :=
  run (branch d a off (fun x y => x.ult y)) s

def execBgeu (d a : Reg) (off : BitVec 14) (s : State) : Host.Outcome State Fault Refusal :=
  run (branch d a off (fun x y => !x.ult y)) s

/-- LOOP (09 R109). -/
def effLoop (d : Reg) (off : BitVec 14) (s : State) : Eff := do
  s.checkPoison [d]
  let (x, s) ← s.readG d
  s.checkDest d
  let k := x - 1
  let s : State := s.writeG d k
  pure (if k = 0 then s else s.goTo (targetOf s.issue.pc off))

def execLoop (d : Reg) (off : BitVec 14) (s : State) : Host.Outcome State Fault Refusal := run (effLoop d off) s

/-- CALL and BR (09 R109). -/
def effCall (d : Reg) (off : BitVec 19) (s : State) : Eff := do
  s.checkDest d
  pure ((s.writeG d s.issue.nx).goTo (targetOf s.issue.pc off))

def execCall (d : Reg) (off : BitVec 19) (s : State) : Host.Outcome State Fault Refusal := run (effCall d off) s

/-- A jump to an address in a register: a target with bits [1:0] nonzero traps with cause 0x02 (05 R52). -/
def jumpTo (d a : Reg) (link : Bool) (s : State) : Eff := do
  s.checkPoison [a]
  let (t, s) ← s.readG a
  if t.toNat % 4 != 0 then .error (.trap 0x02 t 0 (some 0))
  if link then
    s.checkDest d
    pure ((s.writeG d s.issue.nx).goTo t)
  else pure (s.goTo t)

def execCallr (d a : Reg) (s : State) : Host.Outcome State Fault Refusal := run (jumpTo d a true) s

def execJmpr (a : Reg) (s : State) : Host.Outcome State Fault Refusal := run (jumpTo 0 a false) s

/-- RET jumps to g1. -/
def execRet (s : State) : Host.Outcome State Fault Refusal := run (jumpTo 0 1 false) s

/-! ### Prefix predicates (09 R111) -/

/-- PCNT. -/
def effPcnt (d : Reg8) (a : Reg) (s : State) : Eff := do
  s.checkPoison [a]
  let (x, s) ← s.readG a
  s.checkDestQ d
  pure (s.writeQ d x.toNat)

def execPcnt (d : Reg8) (a : Reg) (s : State) : Host.Outcome State Fault Refusal := run (effPcnt d a) s

/-- PMIN. -/
def effPmin (d a : Reg8) (b : Reg) (s : State) : Eff := do
  s.checkPoison [b]
  let n ← s.readQ a
  let (y, s) ← s.readG b
  s.checkDestQ d
  pure (s.writeQ d (Nat.min n y.toNat))

def execPmin (d a : Reg8) (b : Reg) (s : State) : Host.Outcome State Fault Refusal := run (effPmin d a b) s

/-- PMOV. -/
def effPmov (d a : Reg8) (s : State) : Eff := do
  let n ← s.readQ a
  s.checkDestQ d
  pure (s.writeQ d n)

def execPmov (d a : Reg8) (s : State) : Host.Outcome State Fault Refusal := run (effPmov d a) s

/-- PREAD. -/
def effPread (d : Reg) (a : Reg8) (s : State) : Eff := do
  let n ← s.readQ a
  s.checkDest d
  pure (s.writeG d (w64 n))

def execPread (d : Reg) (a : Reg8) (s : State) : Host.Outcome State Fault Refusal := run (effPread d a) s

end Sys2Proof.Machine
end

