-- ==== Sys2Proof/Machine/Dispatch.lean ====
section
/-! DEFINITION. The machine's one dispatch: an arm for each instruction and each event, which calls its meaning. -/

namespace Sys2Proof.Machine

def exec (i : Instr) (s : State) : Host.Outcome State Fault Refusal :=
  match i with
  | .nop => Sys2Proof.Machine.execNop s
  | .mfc d c => Sys2Proof.Machine.execMfc d c s
  | .mtc c d => Sys2Proof.Machine.execMtc c d s
  | .trap code => Sys2Proof.Machine.execTrap code s
  | .eret => Sys2Proof.Machine.execEret s
  | .dbg code => Sys2Proof.Machine.execDbg code s
  | .harvest a b => Sys2Proof.Machine.execHarvest a b s
  | .tlbsd a b => Sys2Proof.Machine.execTlbsd a b s
  | .plbinv a => Sys2Proof.Machine.execPlbinv a s
  | .terp d a b => Sys2Proof.Machine.execTerp d a b s
  | .unterp d a => Sys2Proof.Machine.execUnterp d a s
  | .call d off => Sys2Proof.Machine.execCall d off s
  | .callr d a => Sys2Proof.Machine.execCallr d a s
  | .jmpr a => Sys2Proof.Machine.execJmpr a s
  | .ret => Sys2Proof.Machine.execRet s
  | .beq d a off => Sys2Proof.Machine.execBeq d a off s
  | .bne d a off => Sys2Proof.Machine.execBne d a off s
  | .blt d a off => Sys2Proof.Machine.execBlt d a off s
  | .bge d a off => Sys2Proof.Machine.execBge d a off s
  | .bltu d a off => Sys2Proof.Machine.execBltu d a off s
  | .bgeu d a off => Sys2Proof.Machine.execBgeu d a off s
  | .loop d off => Sys2Proof.Machine.execLoop d off s
  | .ld z o sc d a off => Sys2Proof.Machine.execLd z o sc d a off s
  | .ldIndexed z o sc d a b => Sys2Proof.Machine.execLdIndexed z o sc d a b s
  | .ldv sc d a b => Sys2Proof.Machine.execLdv sc d a b s
  | .ldvff sc d a b => Sys2Proof.Machine.execLdvff sc d a b s
  | .ldvg sc d a b => Sys2Proof.Machine.execLdvg sc d a b s
  | .pref h sc a b => Sys2Proof.Machine.execPref h sc a b s
  | .st z o sc d a off => Sys2Proof.Machine.execSt z o sc d a off s
  | .stIndexed z o sc d a b => Sys2Proof.Machine.execStIndexed z o sc d a b s
  | .stv sc d a b => Sys2Proof.Machine.execStv sc d a b s
  | .stvs sc d a b => Sys2Proof.Machine.execStvs sc d a b s
  | .aadd z o sc d a b => Sys2Proof.Machine.execAadd z o sc d a b s
  | .aand z o sc d a b => Sys2Proof.Machine.execAand z o sc d a b s
  | .aor z o sc d a b => Sys2Proof.Machine.execAor z o sc d a b s
  | .axor z o sc d a b => Sys2Proof.Machine.execAxor z o sc d a b s
  | .amin z o sc d a b => Sys2Proof.Machine.execAmin z o sc d a b s
  | .amax z o sc d a b => Sys2Proof.Machine.execAmax z o sc d a b s
  | .aminu z o sc d a b => Sys2Proof.Machine.execAminu z o sc d a b s
  | .amaxu z o sc d a b => Sys2Proof.Machine.execAmaxu z o sc d a b s
  | .aswp z o sc d a b => Sys2Proof.Machine.execAswp z o sc d a b s
  | .acas z o sc d a b => Sys2Proof.Machine.execAcas z o sc d a b s
  | .afadd z o sc d a b => Sys2Proof.Machine.execAfadd z o sc d a b s
  | .fence k sc => Sys2Proof.Machine.execFence k sc s
  | .lea d a b sc => Sys2Proof.Machine.execLea d a b sc s
  | .cadd d a b => Sys2Proof.Machine.execCadd d a b s
  | .cmov d a b => Sys2Proof.Machine.execCmov d a b s
  | .caddi d a imm => Sys2Proof.Machine.execCaddi d a imm s
  | .attach d a b => Sys2Proof.Machine.execAttach d a b s
  | .detach a => Sys2Proof.Machine.execDetach a s
  | .hand a b => Sys2Proof.Machine.execHand a b s
  | .pwait d a b => Sys2Proof.Machine.execPwait d a b s
  | .pquery d a => Sys2Proof.Machine.execPquery d a s
  | .pkeep d a b => Sys2Proof.Machine.execPkeep d a b s
  | .pzero a => Sys2Proof.Machine.execPzero a s
  | .sbind k a b => Sys2Proof.Machine.execSbind k a b s
  | .sfree k => Sys2Proof.Machine.execSfree k s
  | .sstat d k => Sys2Proof.Machine.execSstat d k s
  | .sflush d k => Sys2Proof.Machine.execSflush d k s
  | .cbind k a b => Sys2Proof.Machine.execCbind k a b s
  | .cfree k => Sys2Proof.Machine.execCfree k s
  | .alt d a => Sys2Proof.Machine.execAlt d a s
  | .cpoll d k => Sys2Proof.Machine.execCpoll d k s
  | .cgrant d k b => Sys2Proof.Machine.execCgrant d k b s
  | .mma t zero src b => Sys2Proof.Machine.execMma t zero src b s
  | .mmas t zero src b => Sys2Proof.Machine.execMmas t zero src b s
  | .mtrans t a b => Sys2Proof.Machine.execMtrans t a b s
  | .mperm t a b => Sys2Proof.Machine.execMperm t a b s
  | .mrsum t a => Sys2Proof.Machine.execMrsum t a s
  | .mzero t => Sys2Proof.Machine.execMzero t s
  | .acfg t f => Sys2Proof.Machine.execAcfg t f s
  | .abind t => Sys2Proof.Machine.execAbind t s
  | .abindNone => Sys2Proof.Machine.execAbindNone s
  | .mload o sc t a b => Sys2Proof.Machine.execMload o sc t a b s
  | .mstore o sc t a b => Sys2Proof.Machine.execMstore o sc t a b s
  | .wload w a b => Sys2Proof.Machine.execWload w a b s
  | .wfree w => Sys2Proof.Machine.execWfree w s
  | .mwait => Sys2Proof.Machine.execMwait s
  | .copy sc d a => Sys2Proof.Machine.execCopy sc d a s
  | .xcopy sc d a => Sys2Proof.Machine.execXcopy sc d a s
  | .cwait sc => Sys2Proof.Machine.execCwait sc s
  | .barm a n => Sys2Proof.Machine.execBarm a n s
  | .barr d n => Sys2Proof.Machine.execBarr d n s
  | .bara d n => Sys2Proof.Machine.execBara d n s
  | .barw d n => Sys2Proof.Machine.execBarw d n s
  | .bto pkg a => Sys2Proof.Machine.execBto pkg a s
  | .csum a n => Sys2Proof.Machine.execCsum a n s
  | .route d a b => Sys2Proof.Machine.execRoute d a b s
  | .rtswap d a => Sys2Proof.Machine.execRtswap d a s
  | .sptake d k => Sys2Proof.Machine.execSptake d k s
  | .region d a => Sys2Proof.Machine.execRegion d a s
  | .fork d => Sys2Proof.Machine.execFork d s
  | .join d a => Sys2Proof.Machine.execJoin d a s
  | .revq d a => Sys2Proof.Machine.execRevq d a s
  | .wfe a => Sys2Proof.Machine.execWfe a s
  | .sleep d a => Sys2Proof.Machine.execSleep d a s
  | .yield => Sys2Proof.Machine.execYield s
  | .quit => Sys2Proof.Machine.execQuit s
  | .launch d a b => Sys2Proof.Machine.execLaunch d a b s
  | .cdec a => Sys2Proof.Machine.execCdec a s
  | .rpush d a => Sys2Proof.Machine.execRpush d a s
  | .rpop d a => Sys2Proof.Machine.execRpop d a s
  | .swapout im => Sys2Proof.Machine.execSwapout im s
  | .swapin im => Sys2Proof.Machine.execSwapin im s
  | .migrate a => Sys2Proof.Machine.execMigrate a s
  | .add w m d a b => Sys2Proof.Machine.execAdd w m d a b s
  | .sub w m d a b => Sys2Proof.Machine.execSub w m d a b s
  | .mul w m d a b => Sys2Proof.Machine.execMul w m d a b s
  | .mulh w d a b => Sys2Proof.Machine.execMulh w d a b s
  | .mulhu w d a b => Sys2Proof.Machine.execMulhu w d a b s
  | .div w d a b => Sys2Proof.Machine.execDiv w d a b s
  | .divu w d a b => Sys2Proof.Machine.execDivu w d a b s
  | .rem w d a b => Sys2Proof.Machine.execRem w d a b s
  | .remu w d a b => Sys2Proof.Machine.execRemu w d a b s
  | .min w d a b => Sys2Proof.Machine.execMin w d a b s
  | .max w d a b => Sys2Proof.Machine.execMax w d a b s
  | .minu w d a b => Sys2Proof.Machine.execMinu w d a b s
  | .maxu w d a b => Sys2Proof.Machine.execMaxu w d a b s
  | .slt w d a b => Sys2Proof.Machine.execSlt w d a b s
  | .sltu w d a b => Sys2Proof.Machine.execSltu w d a b s
  | .and w d a b => Sys2Proof.Machine.execAnd w d a b s
  | .or w d a b => Sys2Proof.Machine.execOr w d a b s
  | .xor w d a b => Sys2Proof.Machine.execXor w d a b s
  | .shl w d a b => Sys2Proof.Machine.execShl w d a b s
  | .shr w d a b => Sys2Proof.Machine.execShr w d a b s
  | .sar w d a b => Sys2Proof.Machine.execSar w d a b s
  | .clz w d a => Sys2Proof.Machine.execClz w d a s
  | .ctz w d a => Sys2Proof.Machine.execCtz w d a s
  | .popc w d a => Sys2Proof.Machine.execPopc w d a s
  | .sel d a b c => Sys2Proof.Machine.execSel d a b c s
  | .addi d a imm => Sys2Proof.Machine.execAddi d a imm s
  | .andi d a imm => Sys2Proof.Machine.execAndi d a imm s
  | .ori d a imm => Sys2Proof.Machine.execOri d a imm s
  | .xori d a imm => Sys2Proof.Machine.execXori d a imm s
  | .shli d a c => Sys2Proof.Machine.execShli d a c s
  | .shri d a c => Sys2Proof.Machine.execShri d a c s
  | .sari d a c => Sys2Proof.Machine.execSari d a c s
  | .slti d a imm => Sys2Proof.Machine.execSlti d a imm s
  | .lui d imm => Sys2Proof.Machine.execLui d imm s
  | .ext d a pos len1 => Sys2Proof.Machine.execExt d a pos len1 s
  | .ins d a pos len1 => Sys2Proof.Machine.execIns d a pos len1 s
  | .fadd w m d a b => Sys2Proof.Machine.execFadd w m d a b s
  | .fsub w m d a b => Sys2Proof.Machine.execFsub w m d a b s
  | .fmul w m d a b => Sys2Proof.Machine.execFmul w m d a b s
  | .fma w m d a b => Sys2Proof.Machine.execFma w m d a b s
  | .fdiv w m d a b => Sys2Proof.Machine.execFdiv w m d a b s
  | .fsqrt w m d a => Sys2Proof.Machine.execFsqrt w m d a s
  | .fmin w d a b => Sys2Proof.Machine.execFmin w d a b s
  | .fmax w d a b => Sys2Proof.Machine.execFmax w d a b s
  | .fcmp c w d a b => Sys2Proof.Machine.execFcmp c w d a b s
  | .fcvt dir w m d a g => Sys2Proof.Machine.execFcvt dir w m d a g s
  | .fclass w d a => Sys2Proof.Machine.execFclass w d a s
  | .fsgn c w d a b => Sys2Proof.Machine.execFsgn c w d a b s
  | .pcnt d a => Sys2Proof.Machine.execPcnt d a s
  | .pmin d a b => Sys2Proof.Machine.execPmin d a b s
  | .pmov d a => Sys2Proof.Machine.execPmov d a s
  | .pread d a => Sys2Proof.Machine.execPread d a s
  | .vadd m t q d a b => Sys2Proof.Machine.execVadd m t q d a b s
  | .vsub m t q d a b => Sys2Proof.Machine.execVsub m t q d a b s
  | .vmul m t q d a b => Sys2Proof.Machine.execVmul m t q d a b s
  | .vmulh m t q d a b => Sys2Proof.Machine.execVmulh m t q d a b s
  | .vmin q d a b => Sys2Proof.Machine.execVmin q d a b s
  | .vmax q d a b => Sys2Proof.Machine.execVmax q d a b s
  | .vabs t q d a => Sys2Proof.Machine.execVabs t q d a s
  | .vneg t q d a => Sys2Proof.Machine.execVneg t q d a s
  | .vfma m q d a b => Sys2Proof.Machine.execVfma m q d a b s
  | .vdiv m q d a b => Sys2Proof.Machine.execVdiv m q d a b s
  | .vsqrt m q d a => Sys2Proof.Machine.execVsqrt m q d a s
  | .vrcp m q d a => Sys2Proof.Machine.execVrcp m q d a s
  | .vrsq m q d a => Sys2Proof.Machine.execVrsq m q d a s
  | .vexp2 m q d a => Sys2Proof.Machine.execVexp2 m q d a s
  | .vlog2 m q d a => Sys2Proof.Machine.execVlog2 m q d a s
  | .vand q d a b => Sys2Proof.Machine.execVand q d a b s
  | .vor q d a b => Sys2Proof.Machine.execVor q d a b s
  | .vxor q d a b => Sys2Proof.Machine.execVxor q d a b s
  | .vshl t q d a b => Sys2Proof.Machine.execVshl t q d a b s
  | .vshr q d a b => Sys2Proof.Machine.execVshr q d a b s
  | .vsar q d a b => Sys2Proof.Machine.execVsar q d a b s
  | .vcmp c q d a b => Sys2Proof.Machine.execVcmp c q d a b s
  | .vclamp q d a b c => Sys2Proof.Machine.execVclamp q d a b c s
  | .vsel q d a b c => Sys2Proof.Machine.execVsel q d a b c s
  | .vmov q d a => Sys2Proof.Machine.execVmov q d a s
  | .vbcast q d a => Sys2Proof.Machine.execVbcast q d a s
  | .vextr q d a b => Sys2Proof.Machine.execVextr q d a b s
  | .vins q d a b => Sys2Proof.Machine.execVins q d a b s
  | .vperm q d a b => Sys2Proof.Machine.execVperm q d a b s
  | .viota q d => Sys2Proof.Machine.execViota q d s
  | .vcomp q d a b => Sys2Proof.Machine.execVcomp q d a b s
  | .vexpand q d a b => Sys2Proof.Machine.execVexpand q d a b s
  | .vredsum m q d a => Sys2Proof.Machine.execVredsum m q d a s
  | .vredmax q d a => Sys2Proof.Machine.execVredmax q d a s
  | .vredmin q d a => Sys2Proof.Machine.execVredmin q d a s
  | .vcvt m t q d a f => Sys2Proof.Machine.execVcvt m t q d a f s
  | .vsort q d a => Sys2Proof.Machine.execVsort q d a s
  | .vhist q d a => Sys2Proof.Machine.execVhist q d a s
  | .boot badPackage badDies hashes => Sys2Proof.Machine.execBoot badPackage badDies hashes s
  | .powerThrottle dies => Sys2Proof.Machine.execPowerThrottle dies s
  | .clusterQuarantine die cluster => Sys2Proof.Machine.execClusterQuarantine die cluster s
  | .laneSpareSwap culvert => Sys2Proof.Machine.execLaneSpareSwap culvert s
  | .flitReplay culvert channel => Sys2Proof.Machine.execFlitReplay culvert channel s
  | .keyLoad culvert key => Sys2Proof.Machine.execKeyLoad culvert key s
  | .keyRetire culvert => Sys2Proof.Machine.execKeyRetire culvert s
  | .schedulerAccept queue prio => Sys2Proof.Machine.execSchedulerAccept queue prio s
  | .hostReasonWrite queue value => Sys2Proof.Machine.execHostReasonWrite queue value s
  | .waitWordRead launch entry => Sys2Proof.Machine.execWaitWordRead launch entry s
  | .blockDispatch queue => Sys2Proof.Machine.execBlockDispatch queue s
  | .gangRetire gang => Sys2Proof.Machine.execGangRetire gang s
  | .codeletStart p => Sys2Proof.Machine.execCodeletStart p s
  | .cdecPerform op => Sys2Proof.Machine.execCdecPerform op s
  | .asyncEventTrap p => Sys2Proof.Machine.execAsyncEventTrap p s
  | .timerCompare p => Sys2Proof.Machine.execTimerCompare p s
  | .sleepWake p => Sys2Proof.Machine.execSleepWake p s
  | .tenantSliceEnd queue => Sys2Proof.Machine.execTenantSliceEnd queue s
  | .tenantSlotChange p => Sys2Proof.Machine.execTenantSlotChange p s
  | .loadReply op part => Sys2Proof.Machine.execLoadReply op part s
  | .vectorRowFill op => Sys2Proof.Machine.execVectorRowFill op s
  | .matrixCommandStart die cluster => Sys2Proof.Machine.execMatrixCommandStart die cluster s
  | .matrixCommandComplete die cluster => Sys2Proof.Machine.execMatrixCommandComplete die cluster s
  | .wloadComplete op => Sys2Proof.Machine.execWloadComplete op s
  | .mloadRowArrival op part => Sys2Proof.Machine.execMloadRowArrival op part s
  | .storePerformed op part => Sys2Proof.Machine.execStorePerformed op part s
  | .atomicPerform op => Sys2Proof.Machine.execAtomicPerform op s
  | .plbFill p addr => Sys2Proof.Machine.execPlbFill p addr s
  | .translationWalk die cluster addr rev => Sys2Proof.Machine.execTranslationWalk die cluster addr rev s
  | .adWritebackTimeout die cluster => Sys2Proof.Machine.execAdWritebackTimeout die cluster s
  | .l1Eviction die core line bad => Sys2Proof.Machine.execL1Eviction die core line bad s
  | .l2Fill pa => Sys2Proof.Machine.execL2Fill pa s
  | .l2Eviction pa bad => Sys2Proof.Machine.execL2Eviction pa bad s
  | .hostWrite pa data => Sys2Proof.Machine.execHostWrite pa data s
  | .hostRead pa size => Sys2Proof.Machine.execHostRead pa size s
  | .attachPerform op => Sys2Proof.Machine.execAttachPerform op s
  | .handFlip op => Sys2Proof.Machine.execHandFlip op s
  | .polderArrival op => Sys2Proof.Machine.execPolderArrival op s
  | .detachFlip op => Sys2Proof.Machine.execDetachFlip op s
  | .pzeroComplete op => Sys2Proof.Machine.execPzeroComplete op s
  | .streamDescriptorRead p k => Sys2Proof.Machine.execStreamDescriptorRead p k s
  | .streamFill p k => Sys2Proof.Machine.execStreamFill p k s
  | .streamDrain p k => Sys2Proof.Machine.execStreamDrain p k s
  | .channelConnect op => Sys2Proof.Machine.execChannelConnect op s
  | .channelWordArrival op => Sys2Proof.Machine.execChannelWordArrival op s
  | .channelGrantArrival op => Sys2Proof.Machine.execChannelGrantArrival op s
  | .channelTimeout p => Sys2Proof.Machine.execChannelTimeout p s
  | .copyEngineStart die engine granules => Sys2Proof.Machine.execCopyEngineStart die engine granules s
  | .copyEngineComplete die engine => Sys2Proof.Machine.execCopyEngineComplete die engine s
  | .copyEngineFault die engine => Sys2Proof.Machine.execCopyEngineFault die engine s
  | .barrierComplete die bar => Sys2Proof.Machine.execBarrierComplete die bar s
  | .barrierTimeout p => Sys2Proof.Machine.execBarrierTimeout p s
  | .tokenArrival op => Sys2Proof.Machine.execTokenArrival op s
  | .tokenDrained die core qid => Sys2Proof.Machine.execTokenDrained die core qid s
  | .joinStitch rev addr => Sys2Proof.Machine.execJoinStitch rev addr s
  | .joinComplete rev => Sys2Proof.Machine.execJoinComplete rev s
  | .revisionDiscard rev => Sys2Proof.Machine.execRevisionDiscard rev s
  | .preemptSave p => Sys2Proof.Machine.execPreemptSave p s
  | .contextResume p => Sys2Proof.Machine.execContextResume p s
  | .watchdogStage1 queue => Sys2Proof.Machine.execWatchdogStage1 queue s
  | .watchdogStage2 queue => Sys2Proof.Machine.execWatchdogStage2 queue s
  | .migrationQuiesce gang => Sys2Proof.Machine.execMigrationQuiesce gang s
  | .migrationResume gang => Sys2Proof.Machine.execMigrationResume gang s
  | .forwardDelivery op => Sys2Proof.Machine.execForwardDelivery op s
  | .hbmChannelFailure stack channel => Sys2Proof.Machine.execHbmChannelFailure stack channel s
  | .hostCtrlEnable => Sys2Proof.Machine.execHostCtrlEnable s
  | .hostRegisterWrite offset value => Sys2Proof.Machine.execHostRegisterWrite offset value s
  | .qcreate => Sys2Proof.Machine.execQcreate s
  | .qstop => Sys2Proof.Machine.execQstop s
  | .qresume => Sys2Proof.Machine.execQresume s
  | .qkill => Sys2Proof.Machine.execQkill s
  | .qdestroy => Sys2Proof.Machine.execQdestroy s
  | .split => Sys2Proof.Machine.execSplit s
  | .merge => Sys2Proof.Machine.execMerge s
  | .halt => Sys2Proof.Machine.execHalt s
  | .run => Sys2Proof.Machine.execRun s
  | .snap => Sys2Proof.Machine.execSnap s
  | .patch => Sys2Proof.Machine.execPatch s
  | .pcbload => Sys2Proof.Machine.execPcbload s
  | .qwdog => Sys2Proof.Machine.execQwdog s
  | .retire => Sys2Proof.Machine.execRetire s
  | .illegalEncoding addr w second => Sys2Proof.Machine.execIllegalEncoding addr w second s
  | .bundleMisplacement addr w second => Sys2Proof.Machine.execBundleMisplacement addr w second s
  | .fetchFault addr why => Sys2Proof.Machine.execFetchFault addr why s
  | .voltageDroop die => Sys2Proof.Machine.execVoltageDroop die s
  | .tlbsdComplete p => Sys2Proof.Machine.execTlbsdComplete p s
  | .harvestComplete p => Sys2Proof.Machine.execHarvestComplete p s
  | .plbinvComplete p => Sys2Proof.Machine.execPlbinvComplete p s

end Sys2Proof.Machine
end

