-- ==== Sys2Proof/Machine/Turn.lean ====
section
/-! DEFINITION. A core's issue turn: the clock of its die, the ends of waits, the rotation and the vector turns, and how
the words of a bundle run (03 R38 to R42; 05 R53, R54, R56; 09 R115, R122; 11 R137; 15 R197). -/

namespace Sys2Proof.Machine

/-! ### Time -/

/-- Parties that a time-out of a channel or a barrier depends on (19 R270). -/
def State.peersOf (s : State) (p : Party) (t : Thread) : ParkWhy → List Party
  | .barw n _ _ | .barrier n _ true => (s.barrier p.die n).members.map (·.party)
  | w => w.endpoints.filterMap (fun k => (t.chan? k).map s.peerPlace)

/-- Whether a party's die is debug-halted, or its slot halted at a breakpoint. -/
def State.partyHalted (s : State) (p : Party) : Bool := (s.dieAt p.die).halted || (s.thread p).halted

/-- A parked slot counts n cycles toward its time-out, unless a peer is halted. -/
def State.countWait (s : State) (p : Party) (t : Thread) (n : Nat) : Thread :=
  match t.park with
  | some k =>
    if (s.peersOf p t k.why).any s.partyHalted then t
    else { t with park := some { k with waited := k.waited + n } }
  | none => t

/-- The clock of a die advances by n cycles (09 R114, R117, R121; 11 R132; 07 Table 7.7). -/
def State.advance (s : State) (die n : Nat) : State :=
  let d := s.dieAt die
  let mine := s.contexts.filter (fun e => e.1.die == die)
  let parked := ((mine.filter (fun e => e.2.park.isSome)).map (fun e => Party.coreKey e.1)).eraseDups
  let s1 : State := mine.foldl (fun s' e => s'.setThread e.1 (s.countWait e.1 e.2 n)) s
  let s1 : State := s1.setDie die { d with clock := d.clock + n }
  let s1 : State := parked.foldl (fun s k => s.addEv k evParkcyc n) s1
  mine.foldl (fun s e => (s.compareTimer e.1).wakeSleep e.1) s1.fillRowsDue

/-- Whether a slot could be offered a turn but for the spacing of its last bundle or its YIELD: the cycle at which it will. -/
def State.readyFrom (s : State) (p : Party) : Option Nat :=
  match s.thread? p with
  | none => none
  | some t =>
    let y := match t.yield with
      | some (l, c) => if l.isEmpty then 0 else c
      | none => 0
    if (s.setThread p { t with readyAt := 0, yield := none }).offerable p then some (Nat.max t.readyAt y) else none

/-- The least of some cycles. -/
def leastOf (l : List Nat) : Option Nat :=
  l.foldl (fun m x =>
    match m with
    | none => some x
    | some y => some (Nat.min x y)) none

/-- The next cycle of a die at which a slot may be offered a turn, or a timer, a sleep, a vector result, a slice, a watchdog
or a time-out may act, or the next one where a ring has been served in this (09 R129), or the rotation is to reach a slot that
changes. -/
def State.nextDue (s : State) (die : Nat) : Option Nat :=
  let now := s.clock die
  let waits := (s.contexts.filter (fun e => e.1.die == die)).flatMap (fun e =>
    let t := e.2
    let limit := match t.park with
      | some k =>
        let l := match k.why with
          | .barw n _ _ | .barrier n _ true => if n < 12 then t.btoDie else t.btoPkg
          | w => if w.endpoints.isEmpty then 0 else s.chanLimit t e.1 w.endpoints
        if l = 0 || (s.peersOf e.1 t k.why).any s.partyHalted then [] else [now + (l + 1 - k.waited)]
      | none => []
    let sleep := match t.park with
      | some ⟨.sleep u _, true, _, _⟩ => [u]
      | _ => []
    let turn := (s.readyFrom e.1).toList.map (Nat.max (now + 1))
    limit ++ sleep ++ turn ++ (if t.tcmp = 0 then [] else [t.tcmp.toNat]))
  let queues := (s.queues.filter (fun e => e.2.die == die)).flatMap (fun e =>
    let q := e.2
    let w := q.wdog.toNat
    (if q.slice = 0 || !q.current then [] else [q.sliceAt + q.slice]) ++
      (if bits w 31 0 = 0 then [] else [q.since + bits w 31 0 * 4096]) ++
      (match q.stage1 with
        | some t0 => if bits w 63 32 = 0 then [] else [t0 + bits w 63 32 * 4096]
        | none => []))
  let rows := s.flights.filterMap (fun f =>
    match f.kind with
    | .vfill k _ _ at_ => if k / 256 == die then some at_ else none
    | _ => none)
  let rings := s.cores.filterMap (fun e =>
    if e.1 / 256 == die && e.2.ringCycle == now && e.2.ringStep != 0 then some (now + 1) else none)
  let changes := s.queues.flatMap (fun e =>
    (e.2.changing.filter (fun p => p.die == die && s.reaches p)).map (fun _ => now + 1))
  leastOf ((waits ++ queues ++ rows ++ rings ++ changes).filter (fun c => decide (now < c)))

/-! ### The ends of waits (03 R40, R41) -/

/-- A wait ends when its condition holds. A bundle that waits to issue goes back into the rotation from the next cycle on. -/
def State.endDue (s : State) (p : Party) : State :=
  match s.thread? p with
  | none => s
  | some t =>
    match t.park with
    | some ⟨why, false, _, _⟩ =>
      if s.wakes p t why then s.setThread p { t with park := none, readyAt := Nat.max t.readyAt (s.clock p.die + 1) } else s
    | some ⟨.sleep _ _, true, _, _⟩ => s.wakeSleep p
    | some ⟨.wfe m, true, _, _⟩ => if s.wfePending p m then s.endWait p else s
    | some ⟨.ops ids, true, _, _⟩ => if (s.copiesOf t.ctx).any ids.contains then s else s.endWait p
    | some ⟨.matrixDone, true, _, _⟩ => if s.matrixIdle p t.ctx then s.endWait p else s
    | some ⟨.stored _, true, _, _⟩ => s.endStored p
    | _ => s

/-- Waits that a trap owed to the slot ends: what they wait for may depend on the trap's handler (11 R168; 15 R201;
19 R259, R273). -/
def ParkWhy.yields : ParkWhy → Bool
  | .matrixDone | .ops _ | .stored _ | .matrixQueue | .row .. | .rows _ | .stream .. => true
  | _ => false

/-- The first trap that a slot owes (09 R115). -/
def State.takeOwed (s : State) (p : Party) : State :=
  match s.thread? p with
  | none => s
  | some t =>
    match t.owed with
    | [] => s
    | o :: rest => (s.setThread p { t with owed := rest }).takeTrap p o.cause 0 t.pc o.eaddr o.einfo

/-- What a slot does without a turn: its wait ends, a trap owed ends it, its gang follows an access. -/
def State.settleSlot (s : State) (p : Party) : State :=
  let s : State := s.endDue p
  match s.thread? p with
  | none => s
  | some t =>
    if t.halted || t.quitting || !s.unitRuns t.unit then s
    else if !t.owed.isEmpty && t.park.any (fun k => k.why.yields) then s.takeOwed p
    else
      match t.follow with
      | some (h, true) => if t.park.any (fun k => k.after) then s else s.startFollow p t h
      | _ => s

/-- What every slot does without a turn. -/
def State.settleAll (s : State) : State := s.contexts.foldl (fun s e => s.settleSlot e.1) s

/-- The cores that hold a context, or a slot that changes with the tenant. -/
def State.heldCores (s : State) : List Nat :=
  let change : List Nat := s.queues.flatMap (fun (e : Nat × LQueue) => e.2.changing.map Party.coreKey)
  (s.threads.map (fun (e : Nat × Thread) => e.1 / 16) ++ change).eraseDups

/-- Time passes on a die: no cycle ends in which a core has still to make its offer (03 R38), or an idle slot its pop
(03 R45), and at once no more cycles pass than to the next at which something is due. -/
def State.pass (s : State) (die n : Nat) : State :=
  if s.heldCores.any (fun k => k / 256 == die && s.owesOffer die (k % 256)) ||
      s.cores.any (fun e => e.1 / 256 == die && s.owesPop die (e.1 % 256)) then s
  else
    let n := match s.nextDue die with
      | some c => Nat.min n (c - s.clock die)
      | none => n
    (s.advance die n).settleAll

/-- The cycle of a core's turn: later than that of its last, and one at which a slot may be offered it, where the die's time
can pass until then. -/
def State.turnClock (s : State) (die core : Nat) : State :=
  let s : State := if (s.coreAt (die * 256 + core)).lastCycle = some (s.clock die) then s.pass die 1 else s
  match leastOf ((List.range 16).filterMap (fun i => s.readyFrom ⟨die, core, i⟩)) with
  | some c => if s.clock die < c then s.pass die (c - s.clock die) else s
  | none => s

/-! ### Running words -/

/-- The state in which the word at pc runs for a slot. -/
def State.wordAt (s : State) (p : Party) (pc nx : Word) (w : IWord) : State :=
  { s with cur := p, issue := ⟨pc, nx, nx, false, none, w, [], [], none, .done⟩ }

/-- The state in which the A-word of the pair runs. -/
def State.asSecond (s : State) (pre : Snap) (w : IWord) : State :=
  { s with issue := { s.issue with second := true, pre := some pre, word := w, mate := none } }

/-- The rows that a word pops of a stream that it names. -/
def rowsPopped : Instr → Nat
  | .mma .. | .mmas .. => 32
  | _ => 1

/-- The pops of a word, as codes, by the registers that it reads (05 R55; 11 R161). -/
def readPops (t : Thread) (i : Instr) : List (Nat × Nat) :=
  (regUses i).flatMap (fun u =>
    if u.write || u.n < 24 then []
    else
      match u.kind with
      | .g => if (t.chan? (u.n - 24)).isSome then [(u.n - 24, 0)] else []
      | .v => if (t.stream? (u.n - 24)).isSome then List.replicate (rowsPopped i) (u.n - 16, 0) else []
      | .q => [])

/-- The registers of one kind that a word reads. -/
def readsOf (k : RegKind) (i : Instr) : List Reg :=
  (regUses i).filterMap (fun u => if u.kind == k && !u.write then some (Fin.ofNat _ u.n) else none)

/-- The oldest poison that the A-word of a pair reads (15 R200). -/
def State.matePoison (s : State) (c a : Instr) : Option Poison :=
  let s : State := { s with issue := { s.issue with pre := some ⟨s.me, (s.core s.cur).tiles, none⟩, popped := readPops s.me c } }
  s.poisonOfV (s.poisonOf (readsOf .g a)) (readsOf .v a)

/-- The state in which the C-word of a pair runs once the A-word's pops, `made`, are made: every pop of a bundle comes before
its effects (05 R55). -/
def State.popsFirst (s : State) (pre : Snap) (made : List (Nat × Nat)) : State :=
  let s : State := made.foldl (fun s e => s.takePop e.1) s
  { s with issue := { s.issue with pre := some pre } }

/-- What became of a slot's offer: its bundle issued, the turn passes on, or the model stops. -/
inductive Tried where
  | issued (s : State)
  | passed (s : State)
  | stopped (o : Host.Outcome State Fault Refusal)

def Tried.of (o : Host.Outcome State Fault Refusal) (f : State → Tried) : Tried :=
  match o with
  | .next s => f s
  | o => .stopped o

/-- Whether the last word ended without issuing: a trap, or a park before issue. -/
def State.held (s : State) (p : Party) : Bool :=
  match s.issue.last with
  | .done => false
  | .trapped => true
  | .parked => !((s.thread p).park.any (fun k => k.after))

/-- The words of a bundle as EINFO holds them (05 R56; 11 R137). -/
def pairInfo (c : IWord) (a : Option IWord) : Word :=
  match a with
  | some a => w64 (c.toNat + a.toNat * 2 ^ 32)
  | none => if isAWord c then w64 (c.toNat * 2 ^ 32) else w64 c.toNat

/-- The contract check comes last (05 R53, R56). No one word of a pair is at fault; the trap leaves ECAUSE.WORD 0
(DESIGN CHOICE: log 103). -/
def State.contract (s0 : State) (t : Thread) (c : Instr) (cw : IWord) (a : Option (Instr × IWord)) : Option State :=
  if wbit t.status stDbg && contractBroken t c (a.map (·.1)) then
    some (s0.trapNow 0x18 0 s0.issue.pc 0 (pairInfo cw (a.map (·.2))))
  else none

/-- A bundle that has issued: the spacing of its slot, the rows that its vector words fill, its retirement. `s0` is the
state in which it began. -/
def State.issued (s0 : State) (p : Party) (c : Instr) (a : Option Instr) (s : State) : State :=
  let now := s.clock p.die
  let n := now + pairSpacing s0.lanes c a
  let s : State := s.mapThread p (fun t =>
    { t with readyAt := Nat.max t.readyAt n, park := t.park.filter (fun k => k.after) })
  let s : State := { s with flights := s.flights.map (fun f =>
    match f.kind with
    | .vfill k tile r _ => if s0.nextOp ≤ f.id then { f with kind := .vfill k tile r n } else f
    | _ => f) }
  if s.issue.last = .done then s.retire p else s

/-- The bundle has passed its checks and is to issue, but for the contract check and a vector turn that refuses it. -/
def State.finish (s0 : State) (p : Party) (t : Thread) (c : Instr) (cw : IWord) (a : Option (Instr × IWord)) (vecOk : Bool)
    (refuse s : State) : Tried :=
  match s0.contract t c cw a with
  | some s => .passed s
  | none => if vecOk then .issued (s0.issued p c (a.map (·.1)) s) else .passed refuse

/-- The pair of an issuing bundle: `s1` is the state after the C-word, `made` the A-word's pops. An A-word whose C-word waits
takes effect at the wake (03 R40); two sends on one endpoint park before issue until each has an allowance (19 R266). -/
def State.commitPair (s0 : State) (p : Party) (t : Thread) (c : Instr) (cw : IWord) (ai : Instr) (aw : IWord) (pre : Snap)
    (made : List (Nat × Nat)) (vecOk : Bool) (refuse s1 : State) : Tried :=
  let ahead := made.map (·.2)
  if s1.issue.last = .parked then
    s0.finish p t c cw (some (ai, aw)) vecOk refuse
      { s1 with rest := tset s1.rest (Party.key p) ⟨ai, { pre with before := none }, aw, s1.issue.popped, ahead⟩ }
  else
    .of (exec ai ({ s1 with issue := { s1.issue with ahead := ahead } }.asSecond pre aw)) (fun s2 =>
      match s2.issue.last, (s2.thread p).park with
      | .parked, some k => .passed ((s0.asSecond pre aw).parkBefore k.why)
      | .trapped, _ => .passed s2
      | _, _ => s0.finish p t c cw (some (ai, aw)) vecOk refuse s2)

/-- Runs the words of a pair: the C-word's checks, the pair check of 11 R137 (whose place the manual does not state: DESIGN
CHOICE, log 102), the A-word's checks, and then the effects, after the pops of both. -/
def State.tryPair (s0 : State) (p : Party) (t : Thread) (c : Instr) (cw : IWord) (ai : Instr) (aw : IWord) (vecOk : Bool)
    (refuse : State) : Tried :=
  .of (exec c { s0 with issue := { s0.issue with mate := s0.matePoison c ai } }) (fun s1 =>
    if s1.held p then .passed s1
    else
      let pre : Snap := ⟨t, (s0.core p).tiles, some (s0.nextOp, (s0.core p).windows)⟩
      if tileClash t c ai then .passed (s0.trapNow 0x02 0 t.pc t.pc (pairInfo cw (some aw)))
      else
        .of (exec ai ({ s0 with issue := { s0.issue with popped := s1.issue.popped } }.asSecond pre aw)) (fun sa =>
          if sa.held p then .passed sa
          else
            let made := (sa.issue.popped.take (sa.issue.popped.length - s1.issue.popped.length)).reverse
            if made.isEmpty then s0.commitPair p t c cw ai aw pre [] vecOk refuse s1
            else .of (exec c (s0.popsFirst pre made)) (s0.commitPair p t c cw ai aw pre made vecOk refuse)))

/-- Runs the words of a bundle, C-word first; every check of both words reads the state before the bundle, and a bundle
that traps or parks before issue takes no effect in either (05 R53, R54). -/
def State.tryBundle (s : State) (p : Party) (t : Thread) (c : Instr) (cw : IWord) (a : Option (Instr × IWord))
    (nx : Word) (vecOk : Bool) (refuse : State) : Tried :=
  let s0 : State := s.wordAt p t.pc nx cw
  match a with
  | some (ai, aw) => s0.tryPair p t c cw ai aw vecOk refuse
  | none => .of (exec c s0) (fun s1 => if s1.held p then .passed s1 else s0.finish p t c cw none vecOk refuse s1)

/-- The A-word of a pair takes effect at the wake of its C-word. -/
def State.runRest (s : State) (p : Party) (t : Thread) (r : Rest) : Host.Outcome State Fault Refusal :=
  let s0 : State :=
    { s with cur := p, issue := ⟨t.pc, t.pc + 8, t.pc + 8, true, some r.pre, r.word, r.popped, r.ahead, none, .done⟩ }
  match exec r.instr s0 with
  | .next s1 =>
    if s1.issue.last = .done then .next (s0.issued p r.instr none { s1 with rest := terase s1.rest (Party.key p) })
    else .next s1
  | o => o

/-- Each slot whose C-word has waited runs its A-word. -/
def State.runRests : List Party → State → Host.Outcome State Fault Refusal
  | [], s => .next s
  | p :: l, s =>
    match s.thread? p, tget s.rest (Party.key p) with
    | some t, some r =>
      if t.park.isNone && !t.halted && s.unitRuns t.unit then
        match s.runRest p t r with
        | .next s => State.runRests l s
        | o => o
      else State.runRests l s
    | _, _ => State.runRests l s

/-! ### The rotation and the vector turns (03 R38, R42) -/

/-- Whether a bundle holds a vector word, and for how long the pipe is busy with it. -/
def pipeOf (c : Instr) (a : Option (Instr × IWord)) : Option Nat :=
  match a with
  | some (i, _) => (vectorTime i).map (·.1)
  | none => (vectorTime c).map (·.1)

/-- Whether a slot may be offered a turn, takes no trap or event instead of a bundle, and would offer one that holds a
vector word. -/
def State.offersVector (s : State) (p : Party) : Bool :=
  match s.thread? p with
  | none => false
  | some t =>
    s.offerable p && t.firstTrap.isNone && t.owed.isEmpty && (s.pendingEvent p).isNone &&
      (match s.fetchBundle p t with
        | (.ok c _ a _, _) => (pipeOf c a).isSome
        | _ => false)

/-- Whether the pipe is free, so that the cycle is a vector turn. -/
def CoreSt.vectorTurn (c : CoreSt) (now : Nat) : Bool := decide (c.vecFree ≤ now)

/-- SLOTTAB's entry for the turn. -/
def CoreSt.turnKind (c : CoreSt) (now : Nat) : Nat :=
  let n := (now - c.vecLost) % 32
  bits c.slottab.toNat (2 * n + 1) (2 * n)

/-- Whether a slot may issue a vector bundle in this cycle. -/
def State.vectorOk (s : State) (die core slot : Nat) : Bool :=
  let c := s.coreAt (die * 256 + core)
  let now := s.clock die
  c.vectorTurn now &&
    (match c.turnKind now with
      | 2 => false
      | 1 => slot == 15 || !s.offersVector ⟨die, core, 15⟩
      | _ => true)

/-- A slot is remembered as refused a vector turn, or is no longer. -/
def State.remember (s : State) (die core slot : Nat) (v : Bool) : State :=
  let k := die * 256 + core
  let c := s.coreAt k
  if c.refused.contains slot == v then s
  else s.setCoreAt k { c with refused := if v then c.refused ++ [slot] else c.refused.filter (fun i => i != slot) }

/-- An offer to a slot counts for those that have yielded to it (09 R122). -/
def State.noteOffer (s : State) (die core slot : Nat) : State :=
  (List.range 16).foldl (fun s i =>
    match s.thread? ⟨die, core, i⟩ with
    | some t =>
      match t.yield with
      | some (l, c) => s.setThread ⟨die, core, i⟩ { t with yield := some (l.filter (fun j => j != slot), c) }
      | none => s
    | none => s) s

/-- A fetched bundle that does not form traps. -/
def State.badBundle (s : State) (p : Party) (t : Thread) : BundleFault → Host.Outcome State Fault Refusal
  | .encoding a w second => execIllegalEncoding a w second (s.wordAt p t.pc (t.pc + 4) w)
  | .placement a w second => execBundleMisplacement a w second (s.wordAt p t.pc (t.pc + 4) w)
  | .fetch a why => execFetchFault a why (s.wordAt p t.pc (t.pc + 4) 0)

/-- Offers the turn to a ready slot: traps owed and events come before its bundle (09 R115). -/
def State.offer (s : State) (p : Party) (t : Thread) : Tried :=
  match t.firstTrap with
  | some o => .passed ((s.setThread p { t with firstTrap := none }).takeTrap p o.cause 0 t.pc o.eaddr o.einfo)
  | none =>
    if !t.owed.isEmpty then .passed (s.takeOwed p)
    else
      match s.pendingEvent p with
      | some c => .passed (s.takeEvent p c)
      | none =>
        match s.fetchBundle p t with
        | (.wait a, s) => .passed ((s.wordAt p t.pc (t.pc + 4) 0).parkBefore (.plb a))
        | (.bad f, s) => .of (s.badBundle p t f) .passed
        | (.ok c cw a nx, s) =>
          match pipeOf c a with
          | none => s.tryBundle p t c cw a nx true s
          | some n =>
            let turn := (s.core p).vectorTurn (s.clock p.die)
            let refuse : State := if turn then s.remember p.die p.core p.slot true else s
            match s.tryBundle p t c cw a nx (s.vectorOk p.die p.core p.slot) refuse with
            | .issued s =>
              let k : CoreSt := s.core p
              .issued (s.setCore p { k with vecLost := k.vecLost + (n - 1), vecFree := s.clock p.die + n })
            | r => r

/-- The turn has been taken, by a slot of the rotation or of the remembered order. -/
def State.taken (s : State) (die core slot : Nat) (remembered : Bool) : State :=
  let s : State := s.remember die core slot false
  let k := die * 256 + core
  let c := s.coreAt k
  if remembered then s else s.setCoreAt k { c with lastSlot := slot }

/-- Offers the turn to slots in order; the first whose bundle issues takes it. A slot that is next to change with the tenant
changes as the rotation reaches it, and its change takes the turn where it would have had it (03 R48). -/
def State.rotate (die core : Nat) (remembered : Bool) : List Nat → State → (State → Host.Outcome State Fault Refusal) →
    Host.Outcome State Fault Refusal
  | [], s, k => k s
  | i :: rest, s, k =>
    let p : Party := ⟨die, core, i⟩
    if s.reaches p then
      if s.offerable p then .next ((s.reachSlot p).taken die core i remembered)
      else State.rotate die core remembered rest (s.reachSlot p) k
    else
      match s.thread? p with
      | none => State.rotate die core remembered rest s k
      | some t =>
        if !s.offerable p then
          State.rotate die core remembered rest s k
        else
          let s : State := s.noteOffer die core i
          let s : State := if t.yield.isSome then s.mapThread p (fun t => { t with yield := none }) else s
          match s.offer p { t with yield := none } with
          | .issued s => .next (s.taken die core i remembered)
          | .passed s => State.rotate die core remembered rest (if s.ready p then s else s.remember die core i false) k
          | .stopped o => o

/-- The cycle of the turn is over for the core. -/
def State.endTurn (s : State) (die core : Nat) : State :=
  let k := die * 256 + core
  let c := s.coreAt k
  s.setCoreAt k { c with lastCycle := some (s.clock die) }

/-- The rotation starts at the slot after the one that last issued in it (03 R38). -/
def rotation (last : Nat) : List Nat := (List.range 16).map (fun i => (last + 1 + i) % 16)

/-- The slots of a core. -/
def slotsOf (die core : Nat) : List Party := (List.range 16).map (fun i => ⟨die, core, i⟩)

/-- A core offers its turn of the cycle: first to the slots that a vector turn has refused, then in rotation. -/
def State.offerTurn (s : State) (die core : Nat) : Host.Outcome State Fault Refusal :=
  let k := die * 256 + core
  let c := s.coreAt k
  let old := c.refused.filter (fun i => s.ready ⟨die, core, i⟩)
  let s : State := if old = c.refused then s else s.setCoreAt k { c with refused := old }
  let first := old.filter (s.vectorOk die core)
  let order := (rotation c.lastSlot).filter (fun i => !first.contains i)
  match State.rotate die core true first s (fun s => State.rotate die core false order s .next) with
  | .next s => .next (s.endTurn die core)
  | o => o

/-- One issue turn of a core, where the cycle for it can come: a core makes one offer in a cycle. -/
def State.turn (s : State) (die core : Nat) : Host.Outcome State Fault Refusal :=
  if !s.corePresent die core || (s.dieAt die).halted then .next s
  else
    match State.runRests (slotsOf die core) (s.turnClock die core) with
    | .next s =>
      if (s.coreAt (die * 256 + core)).lastCycle = some (s.clock die) then .next s else s.offerTurn die core
    | o => o

end Sys2Proof.Machine
end

