-- ==== Sys2Proof/Machine/Policy.lean ====
section
/-! DEFINITION. What moves next when the agenda is empty, and what follows each move (DESIGN CHOICE: log 1). Every order that an agenda
gives is one that the manual allows; the default below is one of them. -/

namespace Sys2Proof.Machine

/-! ### After a move -/

/-- What the device does as soon as it can: PZERO takes its window, a killed gang's polders are quarantined, arrivals
collect counts, weight slots whose readers are done are freed, ending slots are vacated, FOLLOW accesses are judged, waits
that are over end. -/
def State.sweep (s : State) : State :=
  (((((s.pzeroSweep.killSweep).countSweep).wfreeSweep).quitSweep).followSweep).settleAll

/-- The end of a move: the A-words of pairs whose C-words no longer wait take effect (03 R40). -/
def afterMove : Host.Outcome State Fault Refusal → Host.Outcome State Fault Refusal
  | .next s => State.runRests (s.rest.map (fun e => partyOf e.1)) s.sweep
  | o => o

/-! ### Moves -/

/-- An event that an agenda may name: one without an encoding; the three that stand for a bundle that does not form belong
to a core's turn. -/
def Instr.isEvent (i : Instr) : Bool :=
  match i with
  | .illegalEncoding .. | .bundleMisplacement .. | .fetchFault .. => false
  | i => i.fields.isNone

def State.move (s : State) : Move → Host.Outcome State Fault Refusal
  | .turn die core => s.turn die core
  | .cycles die n => .next (if (s.dieAt die).started then s.pass die n else s)
  | .event i => if Instr.isEvent i then exec i s else .next s
  | .corrected die core => .next (s.corrected die core)
  | .unreadable stack channel => .next (s.unreadable stack channel)

/-! ### The default order -/

/-- The first of some events that changes the state. -/
def firstChange (s : State) : List (State → State) → Option State
  | [] => none
  | f :: rest =>
    let s' := f s
    if s' = s then firstChange s rest else some s'

/-- The events of an operation in flight. -/
def flightEvents (f : Flight) : List (State → State) :=
  let drains : List (State → State) := match f.kind with
    | .row _ k _ _ => [fun s => s.drain f.party k]
    | _ => []
  let parts := List.range (Nat.max 1 f.parts.length)
  parts.map (fun i s => s.loadReply f.id i) ++
    parts.map (fun i s => s.storePerformed f.id i) ++
    (List.range 32).map (fun r s => s.mloadRow f.id r) ++
    drains ++
    [fun s => s.atomicPerform f.id, fun s => s.wloadDone f.id, fun s => s.cdecPerform f.id, fun s => s.attachPerform f.id,
      fun s => s.handFlip f.id, fun s => s.detachFlip f.id, fun s => s.pzeroComplete f.id, fun s => s.chanConnect f.id,
      fun s => s.wordArrival f.id, fun s => s.grantArrival f.id, fun s => s.tokenArrive f.id,
      fun s => s.forwardDelivery f.id]

/-- The events of a slot's context. -/
def slotEventsOf (p : Party) (t : Thread) : List (State → State) :=
  let streams : List (State → State) := (List.range 8).flatMap (fun k =>
    if (t.stream? k).isSome then [fun (s : State) => s.descriptorRead p k, fun s => s.fill p k, fun s => s.drain p k] else []) ++
    (List.range t.leaving.length).map (fun j (s : State) => s.fill p (8 + j))
  let plb : List (State → State) := match t.park with
    | some ⟨.plb a, _, _, _⟩ => [fun s => s.plbFill p a]
    | _ => []
  streams ++ plb ++
    [fun s => s.chanTimeout p, fun s => s.barTimeout p, fun s => s.harvestComplete p, fun s => s.tlbsdComplete p,
      fun s => s.plbinvComplete p]

/-- The events of a core's arrival queue and of its matrix unit. -/
def coreEvents (k : Nat) (c : CoreSt) : List (State → State) :=
  let ck := k / 256 * 32 + Config.clusterOf (k % 256)
  (c.arrivals.filter (fun a => !a.seen)).map (fun a s => s.polderArrival a.op) ++
    (if c.mq.isEmpty then [] else [fun s => s.matDone ck, fun s => s.matStart ck])

/-- The events of a die's engines and bobbin lines. -/
def dieEvents (d : Nat) (x : DieSt) : List (State → State) :=
  x.engines.flatMap (fun g =>
    if g.2.queue.isEmpty then [] else [fun (s : State) => s.copyFinish d g.1, fun s => s.copyFault d g.1]) ++
    x.bars.map (fun b s => s.barComplete d b.1)

/-- The events of a revision. -/
def State.revEvents (s : State) (r : Nat) (x : Rev) : List (State → State) :=
  let join : List (State → State) :=
    match x.joining with
    | some j => (s.joinTodo x j).map (fun e (s : State) => s.joinStitch r e.1) ++ [fun (s : State) => s.joinComplete r]
    | none => []
  join ++ [fun (s : State) => s.revDiscard r]

/-- The ingress unit drains the token queues of a context. -/
def tokenEvents (p : Party) (t : Thread) : List (State → State) :=
  t.streams.toList.filterMap (fun o => (o.bind (·.qid)).map (fun q (s : State) => s.tokenDrain p.die p.core q))

/-- The events of the units of the package: arrivals, matrix units, engines, barriers, ingress units, revisions. -/
def State.unitEvents (s : State) : List (State → State) :=
  s.cores.flatMap (fun e => coreEvents e.1 e.2) ++ s.dies.flatMap (fun d => dieEvents d.1 d.2) ++
    s.bars.map (fun b s => s.barComplete 0 b.1) ++ s.contexts.flatMap (fun e => tokenEvents e.1 e.2) ++
    s.revs.flatMap (fun r => s.revEvents r.1 r.2) ++ s.clusters.map (fun c s => s.adTimeout c.1)

/-- The host's command at the head of the ring, by its OP (23 Table 23.10). -/
def State.hostCommand (s : State) : State :=
  match s.cmdHead with
  | none => s
  | some c =>
    match c.op with
    | 1 => s.command 1 s.qcreate
    | 2 => s.qstop
    | 3 => s.command 3 s.qresume
    | 4 => s.command 4 s.qkill
    | 5 => s.command 5 s.qdestroy
    | 6 => s.command 6 s.splitNode
    | 7 => s.command 7 s.mergeNode
    | 8 => s.command 8 s.haltCmd
    | 9 => s.command 9 (fun c => some (s.haltDies c.arg0 false))
    | 10 => s.command 10 s.snapCmd
    | 11 => s.command 11 s.patchCmd
    | 12 => s.pcbload
    | 13 => s.command 13 s.qwdog
    | 14 => s.command 14 s.retireChannel
    | _ => s.badCommand

/-- A block starts; one that does not fit only counts its tries, which is nothing to wait for. -/
def State.dispatchNow (s : State) (qn : Nat) : State :=
  let s' : State := s.blockDispatch qn
  if s'.nextUnit = s.nextUnit then s else s'

/-- The events of a queue. -/
def queueEvents (qn : Nat) (q : LQueue) : List (State → State) :=
  (List.range 4).map (fun j (s : State) => s.schedAccept qn j) ++ [fun s => s.dispatchNow qn] ++
    q.changing.map (fun p s => s.preemptSave p) ++ q.reached.map (fun p s => s.slotChange p) ++
    [fun s => s.sliceEnd qn, fun s => s.wdogOne qn, fun s => s.wdogTwo qn]

/-- The events of a unit of threads. -/
def gangEvents (u : Nat) : List (State → State) :=
  [fun s => s.quiesce u, fun s => s.migrationResume u, fun s => s.gangRetire u]

/-- The slots that may start a codelet, where a ready ring holds one. -/
def codeletEvents (k : Nat) (c : CoreSt) : List (State → State) :=
  if c.rings.toList.all (fun r => r.1 == r.2) then []
  else (List.range 16).map (fun i (s : State) => s.codeletStart ⟨k / 256, k % 256, i⟩)

/-- The events of the host, the schedulers and the loaders: saved contexts come back to their slots before new blocks
start. -/
def State.schedEvents (s : State) : List (State → State) :=
  [State.hostCommand] ++ s.saved.map (fun x s => s.contextResume x.party) ++
    s.queues.flatMap (fun e => queueEvents e.1 e.2) ++
    s.launches.flatMap (fun l => (usedWaits l.2.words).map (fun i (s : State) => s.readWait l.1 i)) ++
    s.units.flatMap (fun u => gangEvents u.1) ++
    s.cores.flatMap (fun c => codeletEvents c.1 c.2)

/-- The next core, after the one of the last bundle, that has yet to make its offer in the cycle of its die. -/
def State.nextActive (s : State) : Option Nat :=
  let ks := s.heldCores.filter (fun k => s.owesOffer (k / 256) (k % 256))
  match ks.find? (fun k => decide (Party.coreKey s.cur < k)) with
  | some k => some k
  | none => ks.head?

/-- Cycles that pass on every die until something is due on one. -/
def State.cyclesDue (s : State) : Option Nat :=
  leastOf (s.dies.filterMap (fun d => (s.nextDue d.1).map (· - s.clock d.1)))

/-- The default order: the boot; operations in flight, oldest first; contexts, units, the host and the schedulers; the
offers of the cores; then cycles pass, on every die alike, until something is due. -/
def State.defaultMove (s : State) : Host.Outcome State Fault Refusal :=
  if !s.booted && !s.failed then .next (s.boot false [] [])
  else
    match firstChange s (s.flights.flatMap flightEvents ++ s.contexts.flatMap (fun e => slotEventsOf e.1 e.2) ++
        s.unitEvents ++ s.schedEvents) with
    | some s' => .next s'
    | none =>
      match s.nextActive, s.cyclesDue with
      | some k, _ => s.turn (k / 256) (k % 256)
      | none, some n => .next (s.dies.foldl (fun s d => if d.2.started then s.pass d.1 n else s) s)
      | none, none => .next s

end Sys2Proof.Machine
end

