-- ==== Sys2Proof/Machine/Step.lean ====
section
/-! DEFINITION. One step of the machine: the next move of the agenda, or of the default order; and the placing of one
instruction where the next step fetches (DESIGN CHOICE: log 1, DESIGN CHOICE: log 3). -/

namespace Sys2Proof.Machine

/-- One step. -/
def step (s : State) : Host.Outcome State Fault Refusal :=
  match s.agenda with
  | m :: rest => afterMove (State.move { s with agenda := rest } m)
  | [] => afterMove s.defaultMove

/-- The state with an instruction of 32 bits as the next that step runs: slot 0 of core 0 of d0 holds a fresh context in
user mode at 0x2_0000, whose page is translated and may be executed, and its core has the next move (DESIGN CHOICE: log 3). A word with
L = 0 stands in a pair, beside a NOP or an ORI g0, g0, 0. A word of 0 bits places nothing. -/
def State.withFetchWord (s : State) (nbits w : Nat) : State :=
  if nbits = 0 then s
  else
    let p : Party := ⟨0, 0, 0⟩
    let base : Nat := 0x20000
    let w := w % 2 ^ 32
    let v :=
      if bit w 30 then w
      else if bit w 31 then 0x00000001 + w * 2 ^ 32
      else w + 0x85000000 * 2 ^ 32
    let d := s.dieAt 0
    let c : CoreSt := s.core p
    let k := s.cluster p
    let t : Thread := { Thread.blank with ctx := s.nextCtx, unit := s.nextUnit, pc := w64 base }
    let s : State := s.writePa base 16 v
    let s : State := s.setDie 0 { d with started := true, halted := false }
    let s : State := s.setCore p { c with
      lastSlot := 15
      lastCycle := none
      refused := []
      vecFree := 0
      plb := [⟨0, 2, 2, false, false, true, false⟩] }
    let s : State := s.setCluster p { k with tlb := [⟨base, 65536, 0, base, 0, false, 0, true, false, none, []⟩] }
    let s : State := s.setWork t.unit ⟨none, none, none, 0, 0, [p], 1, 0, 0, 0, .running, none, none, false, none⟩
    let s : State := { s.setThread p t with rest := terase s.rest (Party.key p) }
    { s with nextCtx := s.nextCtx + 1, nextUnit := s.nextUnit + 1, agenda := [.turn 0 0] }

end Sys2Proof.Machine
end

