-- ==== Sys2Proof/Safety.lean ====
section
/-! DEFINITION. The words in which claims about the machine are stated: runs that do not stop, what counts as unchanged, and
the invariants. -/

namespace Sys2Proof

/-! ### Rounding (07 R79, R83 to R85) -/

/-- The binary formats. -/
def fpShapes : List FpShape := [.fp64, .fp32, .fp16, .bf16, .fp8e5, .fp8e4, .fp4]

/-- The magnitude that a pattern without its sign stands for, as if the format's exponents had no upper bound. -/
def FpShape.mag (f : FpShape) (p : Nat) : Rat :=
  if p < 2 ^ f.manBits then (p : Rat) * 2 ^ f.minExp
  else ((2 ^ f.manBits + p % 2 ^ f.manBits : Nat) : Rat) * 2 ^ (f.minExp + (p / 2 ^ f.manBits : Nat) - 1)

/-- The value of ±m × 2^e. -/
def signedValue (neg : Bool) (m : Nat) (e : Int) : Rat := (if neg then -(m : Rat) else (m : Rat)) * 2 ^ e

/-- v is the magnitude of an exact result: m × 2^e, or, where a tail was cut off, above that and below (m + 1) × 2^e, with more
bits in m than a rounding to f looks at. -/
def Exact.holds (x : Exact) (f : FpShape) (v : Rat) : Prop :=
  if x.sticky then (x.m : Rat) * 2 ^ x.e < v ∧ v < ((x.m + 1 : Nat) : Rat) * 2 ^ x.e ∧ 2 ^ (f.manBits + 39) ≤ x.m
  else v = (x.m : Rat) * 2 ^ x.e

/-- What rounding the magnitude v gives: t is the largest value of the format at or below v, and the result is t or the next, as the
mode says; INEXACT counts where v is no value of the format, and UNDERFLOW where the result is tiny as well: below the smallest
normal after rounding to an unbounded exponent range, for which a format of a larger bias stands, or in mode SR as delivered. A
result that overflows is ∞ or the largest finite value, as the mode and the sign say (07 R83 to R85). -/
def RoundsOnce (f : FpShape) (rm : Rounding) (draw : Nat) (x : Exact) (v : Rat) : Prop :=
  let p := (f.roundRaw rm draw x).1
  let evs := (f.roundRaw rm draw x).2
  let least : Rat := 2 ^ (1 - (f.bias : Int))
  ∃ t : Nat, f.mag t ≤ v ∧ v < f.mag (t + 1) ∧
    (p = match rm with
      | .rtz => t
      | .rdn => if x.neg ∧ f.mag t ≠ v then t + 1 else t
      | .rup => if !x.neg ∧ f.mag t ≠ v then t + 1 else t
      | .rne => if 2 * v < f.mag t + f.mag (t + 1) ∨ (2 * v = f.mag t + f.mag (t + 1) ∧ t % 2 = 0) then t else t + 1
      | .sr => if (draw : Int) < ((v - f.mag t) / (f.mag (t + 1) - f.mag t) * 2 ^ 32).floor then t + 1 else t) ∧
    (evInexact ∈ evs ↔ f.mag t ≠ v) ∧ evs.length ≤ 2 ∧ (∀ e ∈ evs, e = evInexact ∨ e = evUnderflow) ∧ evs.Nodup ∧
    (rm = .sr → (evUnderflow ∈ evs ↔ f.mag t ≠ v ∧ f.mag p < least)) ∧
    (rm ≠ .sr → ∀ n : Nat, (2 : Rat) ^ (1 - ((f.bias + n : Nat) : Int)) ≤ v →
      let g : FpShape := { f with bias := f.bias + n }
      (evUnderflow ∈ evs ↔ f.mag t ≠ v ∧ g.mag (g.roundRaw rm draw x).1 < least)) ∧
    f.round rm draw x =
      if (if rm = .sr then f.mag f.maxFinite < v else f.maxFinite < p) then
        (f.signBit x.neg + (match rm with
          | .rne | .sr => f.infBits
          | .rtz => f.maxFinite
          | .rdn => if x.neg then f.infBits else f.maxFinite
          | .rup => if x.neg then f.maxFinite else f.infBits), [evOverflow, evInexact])
      else (f.signBit x.neg + p, evs)

/-- What the arithmetic of a format hands to its rounding for finite operands: the exact value, rounded once; a zero sum and a zero
product have the signs of 07 R83 and R85. -/
def ExactOperations (f : FpShape) (rm : Rounding) (draw : Nat) : Prop :=
  let deliver (zero : Bool) (x : Exact) : Nat × Counts := if x.m = 0 then (f.signBit zero, []) else f.round rm draw x
  ∀ (s1 s2 s3 : Bool) (m1 m2 m3 : Nat) (e1 e2 e3 : Int),
    (∃ x : Exact, x.sticky = false ∧ signedValue x.neg x.m x.e = signedValue s1 m1 e1 + signedValue s2 m2 e2 ∧
      f.add rm draw (.fin s1 m1 e1) (.fin s2 m2 e2) =
        deliver (if m1 = 0 ∧ m2 = 0 ∧ s1 = s2 then s1 else rm == .rdn) x) ∧
    f.sub rm draw (.fin s1 m1 e1) (.fin s2 m2 e2) = f.add rm draw (.fin s1 m1 e1) (.fin (!s2) m2 e2) ∧
    (∃ x : Exact, x.sticky = false ∧ signedValue x.neg x.m x.e = signedValue s1 m1 e1 * signedValue s2 m2 e2 ∧
      f.mul rm draw (.fin s1 m1 e1) (.fin s2 m2 e2) = deliver (s1 != s2) x) ∧
    (∃ x : Exact, x.sticky = false ∧
      signedValue x.neg x.m x.e = signedValue s1 m1 e1 * signedValue s2 m2 e2 + signedValue s3 m3 e3 ∧
      f.fma rm draw (.fin s1 m1 e1) (.fin s2 m2 e2) (.fin s3 m3 e3) =
        deliver (if m1 * m2 = 0 ∧ m3 = 0 ∧ (s1 != s2) = s3 then s3 else rm == .rdn) x) ∧
    (0 < m1 → 0 < m2 → ∃ x : Exact, x.neg = (s1 != s2) ∧ x.holds f ((m1 : Rat) * 2 ^ e1 / ((m2 : Rat) * 2 ^ e2)) ∧
      f.div rm draw (.fin s1 m1 e1) (.fin s2 m2 e2) = f.round rm draw x) ∧
    (0 < m1 → ∃ x : Exact, x.neg = false ∧ 2 ^ (f.manBits + 39) ≤ x.m ∧
      let u := (x.m : Rat) * 2 ^ x.e
      let w := ((x.m + 1 : Nat) : Rat) * 2 ^ x.e
      u * u ≤ (m1 : Rat) * 2 ^ e1 ∧ (m1 : Rat) * 2 ^ e1 < w * w ∧ (x.sticky = false ↔ u * u = (m1 : Rat) * 2 ^ e1) ∧
      f.sqrt rm draw (.fin false m1 e1) = f.round rm draw x)

/-! ### Comparison, conversion and the functions of one value (07 R86, R89; 11 R142) -/

/-- Values that are no NaN are ordered as the extended reals are, with +0 = −0. -/
def OrderIsByValue : Prop :=
  ∀ (s1 s2 : Bool) (m1 m2 : Nat) (e1 e2 : Int),
    ((FpVal.fin s1 m1 e1).lt (.fin s2 m2 e2) = true ↔ signedValue s1 m1 e1 < signedValue s2 m2 e2) ∧
    ((FpVal.fin s1 m1 e1).eqv (.fin s2 m2 e2) = true ↔ signedValue s1 m1 e1 = signedValue s2 m2 e2) ∧
    ((FpVal.inf s1).lt (.inf s2) = true ↔ s1 = true ∧ s2 = false) ∧ ((FpVal.inf s1).eqv (.inf s2) = true ↔ s1 = s2) ∧
    ((FpVal.inf s1).lt (.fin s2 m2 e2) = true ↔ s1 = true) ∧ ((FpVal.fin s1 m1 e1).lt (.inf s2) = true ↔ s2 = false) ∧
    (FpVal.inf s1).eqv (.fin s2 m2 e2) = false ∧ (FpVal.fin s1 m1 e1).eqv (.inf s2) = false

/-- u stands before v in the order in which −0 is below +0. -/
def FpVal.below (u v : FpVal) : Prop :=
  u.lt v = true ∨ (u.isZero = true ∧ v.isZero = true ∧ u.neg = true ∧ v.neg = false)

/-- What FMIN, FMAX, VMIN and VMAX give for two patterns: the least or the greatest value, −0 below +0; the other operand where one
alone is a NaN and quiet; else the first NaN, written anew, with INVALID where either is signalling (07 R89). -/
def MinMaxGives (f : FpShape) (wantMax : Bool) (a b : Nat) : Prop :=
  let x := f.read a
  let y := f.read b
  let o := f.minMax wantMax a b
  let bad := x.isSignalling = true ∨ y.isSignalling = true
  (x.isNan = true → (bad ∨ y.isNan = true) → o.1 = f.writeNan x) ∧ (x.isNan = false → bad → o.1 = f.writeNan y) ∧
  (x.isNan = true → y.isNan = false → ¬ bad → o.1 = b) ∧ (x.isNan = false → y.isNan = true → ¬ bad → o.1 = a) ∧
  (bad → o.2 = [evInvalid]) ∧ (¬ bad → o.2 = []) ∧
  (x.isNan = false → y.isNan = false → (o.1 = a ∨ o.1 = b) ∧
    if wantMax then ¬ (f.read o.1).below x ∧ ¬ (f.read o.1).below y
    else ¬ x.below (f.read o.1) ∧ ¬ y.below (f.read o.1))

/-- How a NaN of the format g is written in f: quiet, with its sign, and its payload at the top of the mantissa, cut or filled up
with zeros; from or to a format without infinities it is the default NaN (07 R89). -/
def NanIsCarried (g f : FpShape) (x : Nat) : Prop :=
  (g.read x).isNan = true →
    let v := f.writeNan (g.read x)
    (g.hasInf = true → f.hasInf = true → (f.read v).isNan = true ∧ (f.read v).isSignalling = false ∧
      v.testBit (f.expBits + f.manBits) = x.testBit (g.expBits + g.manBits) ∧
      ∀ i < f.manBits - 1, v.testBit (f.manBits - 2 - i) = (decide (i < g.manBits - 1) && x.testBit (g.manBits - 2 - i))) ∧
    (g.hasInf = false ∨ f.hasInf = false → v = f.defaultNan)

/-- Table 7.6 for a floating-point destination: a finite value up to the largest is rounded as any result is (RoundsOnce); one beyond
it, an infinity and a NaN give what their rows say in the column c. That the first rows look at the source value, not at the rounded
one, is the model's reading (log 25). -/
def ConvertsToFloat (f : FpShape) (rm : Rounding) (c : Sat) (draw : Nat) : Prop :=
  (∀ (s : Bool) (m : Nat) (e : Int),
    let v := (m : Rat) * 2 ^ e
    let o := f.convert rm c draw (.fin s m e)
    let r := f.roundRaw rm draw ⟨s, m, e, false⟩
    (m = 0 → o = (f.signBit s, [])) ∧ (0 < m → v ≤ f.mag f.maxFinite → o = (f.signBit s + r.1, r.2)) ∧
    (f.mag f.maxFinite < v →
      o = if c = .sat ∨ f.hasNan = false then (f.signBit s + f.maxFinite, [evCvtsat, evOverflow, evInexact])
        else if f.hasInf then (f.signBit s + f.infBits, [evOverflow, evInexact])
        else (f.defaultNan, [evOverflow, evInexact]))) ∧
  (∀ s, f.convert rm c draw (.inf s) = if f.hasInf then (f.signBit s + f.infBits, [])
    else if c = .sat ∨ f.hasNan = false then (f.signBit s + f.maxFinite, [evCvtsat]) else (f.defaultNan, [])) ∧
  (∀ x : FpVal, x.isNan = true → f.convert rm c draw x = if f.hasNan then (f.writeNan x, if x.isSignalling then [evInvalid] else [])
    else (0, [evInvalid]))

/-- Table 7.6 for an integer destination of n bits: the value is rounded to an integer in the mode, with INEXACT where it is none; an
integer beyond the bounds gives the nearer one or its low bits, and an infinity the nearer bound, with ISAT; a NaN 0, with INVALID. -/
def ConvertsToInteger (n : Nat) (rm : Rounding) (c : Sat) (draw : Nat) : Prop :=
  let least : Int := -(2 ^ (n - 1))
  let most : Int := 2 ^ (n - 1) - 1
  (∀ (s : Bool) (m : Nat) (e : Int),
    let v := (m : Rat) * 2 ^ e
    let t := v.floor.toNat
    let o := convertToInt n rm c draw (.fin s m e)
    ∃ q : Nat, (q = match rm with
      | .rtz => t
      | .rdn => if s ∧ (t : Rat) ≠ v then t + 1 else t
      | .rup => if !s ∧ (t : Rat) ≠ v then t + 1 else t
      | .rne => if 2 * v < 2 * t + 1 ∨ (2 * v = 2 * t + 1 ∧ t % 2 = 0) then t else t + 1
      | .sr => if (draw : Int) < ((v - t) * 2 ^ 32).floor then t + 1 else t) ∧
      let r : Int := if s then -(q : Int) else q
      (least ≤ r → r ≤ most → signedOf n o.1 = r ∧ o.2 = if (t : Rat) = v then [] else [evInexact]) ∧
      (r < least ∨ most < r → o.2 = [evIsat] ∧ signedOf n o.1 = match c with
        | .sat => if r < 0 then least else most
        | .wrap => Int.bmod r (2 ^ n))) ∧
  (∀ s, (convertToInt n rm c draw (.inf s)).2 = [evIsat] ∧
    signedOf n (convertToInt n rm c draw (.inf s)).1 = if s then least else most) ∧
  (∀ x : FpVal, x.isNan = true → convertToInt n rm c draw x = (0, [evInvalid]))

/-- An exact result stands for the real number r: it is r, or, where a tail was cut off, it lies within 2^−200 of r in proportion, with
more bits than a rounding looks at. -/
def Exact.near (x : Exact) (r : ℝ) : Prop :=
  let v : ℝ := (if x.neg then -(x.m : ℝ) else (x.m : ℝ)) * 2 ^ x.e
  if x.sticky then |v - r| ≤ |r| * 2 ^ (-200 : ℤ) ∧ 2 ^ 200 ≤ x.m else v = r

/-- What VRCP, VRSQ, VEXP2 and VLOG2 hand to the rounding, and their special operands (11 R142): the exact reciprocal and reciprocal
root, and 2^x and log2 of x for the values that tile formats have; these two the model takes from series, to 2^−200 (log 26). -/
def FunctionsRoundOnce (f : FpShape) (rm : Rounding) (draw : Nat) : Prop :=
  (∀ (s : Bool) (m : Nat) (e : Int),
    let v := (m : Rat) * 2 ^ e
    (0 < m → ∃ x : Exact, x.neg = s ∧ x.holds f (1 / v) ∧ f.rcp rm draw (.fin s m e) = f.round rm draw x) ∧
    (m = 0 → f.rcp rm draw (.fin s m e) = (f.signBit s + f.infBits, [evDivzero]) ∧
      f.rsqrt rm draw (.fin s m e) = (f.signBit s + f.infBits, [evDivzero]) ∧
      f.exp2 rm draw (.fin s m e) = f.round rm draw ⟨false, 1, 0, false⟩ ∧
      f.log2 rm draw (.fin s m e) = (f.signBit true + f.infBits, [evDivzero])) ∧
    (0 < m → s = true → f.rsqrt rm draw (.fin s m e) = (f.defaultNan, [evInvalid]) ∧
      f.log2 rm draw (.fin s m e) = (f.defaultNan, [evInvalid])) ∧
    (0 < m → s = false → ∃ x : Exact, x.neg = false ∧ 2 ^ (f.manBits + 39) ≤ x.m ∧
      let u := (x.m : Rat) * 2 ^ x.e
      let w := ((x.m + 1 : Nat) : Rat) * 2 ^ x.e
      u * u * v ≤ 1 ∧ 1 < w * w * v ∧ (x.sticky = false ↔ u * u * v = 1) ∧
      f.rsqrt rm draw (.fin s m e) = f.round rm draw x) ∧
    (0 < m → m < 2 ^ 24 → -256 ≤ e →
      (∃ x : Exact, x.neg = false ∧ x.near ((2 : ℝ) ^ ((signedValue s m e : Rat) : ℝ)) ∧
        f.exp2 rm draw (.fin s m e) = f.round rm draw x) ∧
      (s = false → ∃ x : Exact, x.near (Real.logb 2 ((m : ℝ) * 2 ^ e)) ∧
        f.log2 rm draw (.fin s m e) = if x.m = 0 then (f.signBit false, []) else f.round rm draw x))) ∧
  (∀ s, f.rcp rm draw (.inf s) = (f.signBit s, []) ∧
    f.rsqrt rm draw (.inf s) = (if s then (f.defaultNan, [evInvalid]) else (f.signBit false, [])) ∧
    f.exp2 rm draw (.inf s) = (if s then f.signBit false else f.signBit false + f.infBits, []) ∧
    f.log2 rm draw (.inf s) = if s then (f.defaultNan, [evInvalid]) else (f.signBit false + f.infBits, [])) ∧
  (∀ x : FpVal, x.isNan = true → ∀ o ∈ [f.rcp rm draw x, f.rsqrt rm draw x, f.exp2 rm draw x, f.log2 rm draw x],
    o = (f.writeNan x, if x.isSignalling then [evInvalid] else []))

/-! ### Sums over the lanes of a row -/

/-- The pairwise tree of 07 R92 over 2^levels lanes: T l i is node i of level l, absent where both of its halves are; `plus k` is the
addition of number k, in the order of the rows of the tree; v is the root, +0 where it is absent, and evs the events of the additions
in their order; `adds` is their number. -/
def SumTree (plus : Nat → Nat → Nat → Nat × Counts) (lanes : Nat → Option Nat) (levels v : Nat) (evs : Counts) (adds : Nat) : Prop :=
  ∃ (T : Nat → Nat → Option Nat) (k : Nat → Nat → Nat) (E : Nat → Nat → Counts),
    (∀ i, T 0 i = lanes i) ∧ k 0 0 = 0 ∧ k levels 0 = adds ∧ v = (T levels 0).getD 0 ∧
    (∀ l i, match T l (2 * i), T l (2 * i + 1) with
      | some u, some w => T (l + 1) i = some (plus (k l i) u w).1 ∧ E l i = (plus (k l i) u w).2 ∧ k l (i + 1) = k l i + 1
      | some u, none => T (l + 1) i = some u ∧ E l i = [] ∧ k l (i + 1) = k l i
      | none, o => T (l + 1) i = o ∧ E l i = [] ∧ k l (i + 1) = k l i) ∧
    (∀ l < levels, k (l + 1) 0 = k l (2 ^ (levels - l - 1))) ∧
    evs = (List.range levels).flatMap (fun l => (List.range (2 ^ (levels - l - 1))).flatMap (E l))

end Sys2Proof

namespace Sys2Proof.Machine

/-- A state from which no run stops. -/
def State.safe (s : State) : Prop := ∀ n, ∃ t, Host.Core.run Sys2Proof.core n s = .next t

/-- The slot whose bundle runs holds a context. -/
def State.running (s : State) : Prop := (s.thread? s.cur).isSome = true

/-- A word with the source ga: the register reads x, and s1 is the state after its pops (15 R200). -/
def Reads1 (s : State) (a : Reg) (x : Word) (s1 : State) : Prop := s.checkPoison [a] = .ok () ∧ s.readG a = .ok (x, s1)

/-- A word with the sources ga and gb, read in field order (05 R55). -/
def Reads2 (s : State) (a b : Reg) (x y : Word) (s1 : State) : Prop := s.read2 a b = .ok (x, y, s1)

/-- Every context but that of one place is as before. -/
def SameOthers (p : Party) (s t : State) : Prop := ∀ q, Party.key q ≠ Party.key p → t.thread? q = s.thread? q

/-- Every byte that the machine stores reads as before: memory, polders, weight buffers. -/
def SameBytes (s t : State) : Prop :=
  (∀ a, Memory.read t.mem a = Memory.read s.mem a) ∧ (∀ a, Memory.read t.sram a = Memory.read s.sram a) ∧
    (∀ a, Memory.read t.wmem a = Memory.read s.wmem a)

/-- What performing a part of a store to a global address leaves, where no revision is live (15 R204, R207): its bytes, the lowest in
the lowest bits, at the physical address that an owned L1 line of the core gives, or the translation; and no other byte. -/
def StoresBytes (s t : State) (f : Flight) (va size data : Nat) : Prop :=
  let written (m0 m1 : Memory) (i : Nat) : Prop :=
    (∀ j < size, (Memory.read m1 (i + j)).toNat = data / 2 ^ (8 * j) % 256) ∧
      ∀ a, (a < i ∨ i + size ≤ a) → Memory.read m1 a = Memory.read m0 a
  t.sram = s.sram ∧ t.wmem = s.wmem ∧
  (∀ l, (s.core f.party).l1Find va f.dom f.rev = some l → l.owned = true → va / 64 = (va + size - 1) / 64 →
    s.revisioned f.dom va l.revd 0 = false → written s.mem t.mem (l.pa * 64 + va % 64)) ∧
  ((s.core f.party).l1Find va f.dom f.rev = none → ∀ x s1,
    s.translate (Party.clusterKey f.party) va f.rev true (s.launchOf f.party) = (.ok x, s1) →
    s.revisioned f.dom va x.revd x.attr = false → written s1.mem t.mem x.pa)

/-- Words of `size` bytes are stored one after another from va on, from s to t: word i by a part of its own, which writes its bytes where
it does not fail. -/
def StoresInTurn (s t : State) (f : Flight) (va size : Nat) (data : List Nat) : Prop :=
  ∃ w : Nat → State, SameBytes s (w 0) ∧ SameBytes (w data.length) t ∧ ∀ i d, data[i]? = some d →
    ∃ r z, (w i).writePart f (mkPart (va + size * i) (.va (va + size * i)) size d) = (r, z) ∧ SameBytes z (w (i + 1)) ∧
      (r = none → StoresBytes (w i) z f (va + size * i) size d)

/-- v registers are read in field order: row by row, each after the pops of those before it (05 R55). -/
def RowsRead : State → List Reg → List Row → State → Prop
  | s, [], [], t => t = s
  | s, r :: rs, x :: xs, t => ∃ u, s.readV r = .ok (x, u) ∧ RowsRead u rs xs t
  | _, _, _, _ => False

/-- A word whose sources are v registers: none of them is poisoned, and they read xs. -/
def ReadsV (s : State) (rs : List Reg) (xs : List Row) (t : State) : Prop :=
  s.checkPoisonGV [] rs = .ok () ∧ RowsRead s rs xs t

/-- What a word leaves that starts one operation: the operation is on its way under the next number with the context's
domain, revision and mode; the destination register, where there is one, is empty until it arrives (15 R218); the slot goes on
at the next bundle; and nothing else of the state changes. -/
def Starts (s t : State) (d : Option Reg) (k : FlightKind) (ps : List Part) (o : Ordering) (sc : Scope) : Prop :=
  t.issue.last = .done ∧ t.nextOp = s.nextOp + 1 ∧
  t.flights = s.flights ++ [⟨s.nextOp, s.cur, s.src.ctx, k, ps, o, sc, s.src.dom, s.src.revNo, s.src.sup,
    s.issue.pc.toNat, false⟩] ∧
  (∀ r : Reg, t.me.g[r] = if d = some r ∧ r ≠ 0 then .empty s.nextOp else s.me.g[r]) ∧
  { t.me with g := s.me.g, pc := s.me.pc } = s.me ∧ t.me.pc = s.issue.next ∧ SameOthers s.cur s t ∧
  { t with threads := s.threads, flights := s.flights, nextOp := s.nextOp, issue := s.issue } = s

/-- Row r of tile k of a core. -/
def State.rowOf (s : State) (core k r : Nat) : TileRow := vget (vget (s.coreAt core).tiles k Tile.reset).rows r ⟨0, .full⟩

/-- What a vector word leaves that gives v, in lanes of e bits, the n first lanes f i and counts their events (11 R132, R140, R141;
19 R254). A destination row keeps its other lanes; it cannot be read until a fill `spc` cycles later, or stays poisoned where lanes
are left. A bound stream takes the row into its buffer. No other row, register, byte or context changes. -/
def VectorLeaves (s t : State) (k : Fin 8) (d : Reg) (e n : Nat) (f : Nat → Nat × Counts) (spc : Nat) : Prop :=
  let ck := Party.coreKey s.cur
  let old := s.rowOf ck k.val d.val
  let held := (match old.fill with
    | .poison _ => true
    | _ => false) && !decide (n * e = 1024)
  ∃ v : Row, (∀ i < n, lane e v i = (f i).1 % 2 ^ e) ∧
    t.issue.last = .done ∧ t.me.pc = s.issue.next ∧ t.me.g = s.me.g ∧ t.me.q = s.me.q ∧ SameOthers s.cur s t ∧
    t.mem = s.mem ∧ t.wmem = s.wmem ∧
    (t.coreAt ck).ev = ((s.count ((List.range n).flatMap (fun i => (f i).2))).coreAt ck).ev ∧
    (s.aliasStream d = none →
      t.sram = s.sram ∧ (t.rowOf ck k.val d.val).data = v ∧
      (∀ i, n ≤ i → i < 1024 / e → lane e v i = lane e (vget (s.srcTiles[k]).rows d.val ⟨0, .full⟩).data i) ∧
      (held = true → (t.rowOf ck k.val d.val).fill = old.fill ∧ t.flights = s.flights) ∧
      (held = false → (t.rowOf ck k.val d.val).fill = .empty s.nextOp ∧ ∃ g : Flight, t.flights = s.flights ++ [g] ∧
        g.id = s.nextOp ∧ g.kind = .vfill ck k.val d.val (s.clock s.cur.die + spc)) ∧
      (∀ j r, j < 8 → r < 32 → (j ≠ k.val ∨ r ≠ d.val) → t.rowOf ck j r = s.rowOf ck j r)) ∧
    (∀ j x y, s.aliasStream d = some (j, x) → s.me.stream? j = some y → ∃ z : Stream, t.me.stream? j = some z ∧
      z.moved = y.moved + 1 ∧ z.filled = y.filled ∧ t.readSram (y.rowByte y.moved) 128 = v.toNat)

/-- What a matrix word leaves: m, with the thread's formats and scale addresses, is the last command of the core's queue; the rows of
its tile cannot be read until it completes, with their data as they were; the tile is the domain's; and no byte, no general register
and no other context changes (11 R131, R132, R151, R158). -/
def Appends (s t : State) (m : MatCmd) : Prop :=
  let ck := Party.coreKey s.cur
  t.issue.last = .done ∧ t.me.pc = s.issue.next ∧ t.nextOp = s.nextOp + 1 ∧ (t.coreAt ck).mq = (s.coreAt ck).mq ++ [m] ∧
  m.id = s.nextOp ∧ m.slot = s.cur.slot ∧ m.ctx = s.me.ctx ∧ m.fmta = s.me.fmta.toNat ∧ m.fmtb = s.me.fmtb.toNat ∧
  m.scla = s.me.scla.toNat ∧ m.sclb = s.me.sclb.toNat ∧ m.dom = s.me.dom ∧ m.block = 0 ∧ m.held = false ∧ m.done = false ∧
  m.resumed = false ∧ m.counts = List.replicate 16 0 ∧
  (∀ r < 32, t.rowOf ck m.tile r = ⟨(s.rowOf ck m.tile r).data, .empty s.nextOp⟩) ∧
  (∀ k r, k < 8 → k ≠ m.tile → t.rowOf ck k r = s.rowOf ck k r) ∧
  (vget (t.coreAt ck).tiles m.tile Tile.reset).tag.isSome = true ∧ t.flights = s.flights ∧ t.me.g = s.me.g ∧
  SameBytes s t ∧ SameOthers s.cur s t

/-- Memories in canonical form. -/
abbrev State.memoryWf (s : State) : Prop :=
  Memory.wf s.mem = true ∧ Memory.wf s.sram = true ∧ Memory.wf s.wmem = true

end Sys2Proof.Machine
end

