-- ==== Sys2Proof/Certificates/Slice0/Obligations.lean ====
section
/-! DEFINITION. The statements for the provers, in the order of the manual's chapters. A statement whose hypotheses name an
operand form holds for every form of that operand; the statements on registers say what each form does. -/

open Sys2Proof Sys2Proof.Machine

/-! ### Decoding and encoding -/

/-- A few words written out from the encoding tables decode to the instructions that they stand for (05 Table 5.1,
Table 5.2; 09 Tables 9.3, 9.5, 9.6, 9.8; 15 Table 15.9; 11 Table 11.3). Fields from the top: class, L, major, d, a, b, f. -/
def Obligations.SampleWordsDecode : Prop :=
  -- A, L = 1, major 0x00, d = 3, a = 1, b = 2, sub 0, w 1, m 1: ADD.w.sat g3, g1, g2
  decodeWord 0b1_1_000000_00011_00001_00010_0000_01_001#32 = some (.add .w .sat 3 1 2) ∧
  -- A, L = 1, major 0x03, d = 4, a = 5, imm14 = -1: ADDI g4, g5, -1
  decodeWord 0b1_1_000011_00100_00101_11111111111111#32 = some (.addi 4 5 (-1)) ∧
  -- A, L = 0, major 0x10, d = 1, a = 2, b = 3, sub 2, w 1, m 4: FMUL.s.sr g1, g2, g3
  decodeWord 0b1_0_010000_00001_00010_00011_0010_01_100#32 = some (.fmul .s .sr 1 2 3) ∧
  -- C, L = 1, major 0x03, d = 1, a = 2, off14 = -2: BEQ g1, g2, -2 words
  decodeWord 0b0_1_000011_00001_00010_11111111111110#32 = some (.beq 1 2 (-2)) ∧
  -- C, L = 1, major 0x0E, d = 7, a = 2, ord 1, scope 4, off9 = 8: LD.d.acq.pkg g7, [g2 + 8]
  decodeWord 0b0_1_001110_00111_00010_01_100_000001000#32 = some (.ld .d .acq .pkg 7 2 8) ∧
  -- A, L = 1, major 0x20, d = 3, a = 1, b = 2, q 5, sat 0, rm 2, sub 0: VADD.rdn v3, v1, v2 under q5
  decodeWord 0b1_1_100000_00011_00001_00010_101_0_010_00#32 = some (.vadd .rdn .wrap 5 3 1 2) ∧
  -- sub-function 15 of major 0x00 is not listed, and f value 0 of major 0x00 is none of its words
  decodeWord 0b1_1_000000_00011_00001_00010_1111_00_000#32 = none ∧ decodeWord 0x00000000#32 = none

/-- Decoding gives back every well-formed instruction that has an encoding, whether it stands alone or in a pair: no operand
bit of an encoding is dropped (05 R50, R65). -/
def Obligations.DecodeOfEncode : Prop :=
  ∀ (i : Instr) (lone : Bool) (w : IWord), i.wellFormed = true → encode lone i = some w → decodeWord w = some i

/-- Each word has one meaning: a word that decodes is the encoding of the instruction that it decodes to, with its own bit
L, so no bit of a word is ignored, and the instruction is well-formed (05 R65). -/
def Obligations.EncodeOfDecode : Prop :=
  ∀ (w : IWord) (i : Instr), decodeWord w = some i → encode (loneBit w) i = some w ∧ i.wellFormed = true

/-! ### Steps -/

/-- A bundle that a slot is offered runs exec of the decoded instruction: where no trap is owed and no event is to be taken,
the word at the pc decodes to c and stands alone, the slot's offer is exec of c in the state whose current slot and pc are
the slot's; it then holds the turn unless it trapped or parked before issue. With L = 0 the word at pc + 4 is the pair's
A-word: both words are checked in the state before the bundle, the C-word first; then the A-word's pops are made, and exec
of c and exec of a follow, both reading the state before the bundle (05 R51, R53 to R55). The step of a core's turn, where one
slot of the rotation comes first and its bundle issues, is that offer, the end of the turn, and what follows every move (03 R38). -/
def Obligations.StepRunsTheFetchedInstruction : Prop :=
  (∀ (s s1 : State) (p : Party) (t : Thread) (w : IWord) (c : Instr),
    t.firstTrap = none → t.owed = [] → s.pendingEvent p = none →
    s.fetchWord p t t.pc.toNat = (.word w, s1) → decodeWord w = some c → loneBit w = true → pipeOf c none = none →
    wbit t.status stDbg = false →
      s.offer p t = .of (exec c (s1.wordAt p t.pc (t.pc + 4) w)) (fun s2 =>
        if s2.held p then .passed s2 else .issued ((s1.wordAt p t.pc (t.pc + 4) w).issued p c none s2))) ∧
  (∀ (s s1 s2 : State) (p : Party) (t : Thread) (w v : IWord) (c a : Instr) (s3 s4 s5 s6 : State),
    t.firstTrap = none → t.owed = [] → s.pendingEvent p = none →
    s.fetchWord p t t.pc.toNat = (.word w, s1) → decodeWord w = some c → loneBit w = false → isAWord w = false →
    t.pc.getLsbD 2 = false → s1.fetchWord p t (t.pc.toNat + 4) = (.word v, s2) → decodeWord v = some a →
    isAWord v = true → loneBit v = false → Instr.loneOnly c = false → vectorTime a = none → tileClash t c a = false →
    wbit t.status stDbg = false →
    let s0 : State := s2.wordAt p t.pc (t.pc + 8) w
    let pre : Snap := ⟨t, (s2.core p).tiles, some (s0.nextOp, (s0.core p).windows)⟩
    exec c { s0 with issue := { s0.issue with mate := s0.matePoison c a } } = .next s3 → s3.issue.last = .done →
    exec a (({ s0 with issue := { s0.issue with popped := s3.issue.popped } } : State).asSecond pre v) = .next s4 →
    s4.held p = false →
    let made := (s4.issue.popped.take (s4.issue.popped.length - s3.issue.popped.length)).reverse
    (if made = [] then s5 = s3 else exec c (s0.popsFirst pre made) = .next s5) → s5.issue.last = .done →
    exec a (({ s5 with issue := { s5.issue with ahead := made.map (·.2) } } : State).asSecond pre v) = .next s6 →
    s6.issue.last = .done →
      s.offer p t = .issued (s0.issued p c (some a) s6)) ∧
  (∀ (s s1 s2 : State) (die core : Nat) (rest : List Move) (l1 l2 : List Nat) (i : Nat) (t : Thread),
    s.agenda = .turn die core :: rest →
    ({ s with agenda := rest } : State).corePresent die core = true → (s.dieAt die).halted = false →
    State.runRests (slotsOf die core) (({ s with agenda := rest } : State).turnClock die core) = .next s1 →
    (s1.coreAt (die * 256 + core)).lastCycle ≠ some (s1.clock die) → (s1.coreAt (die * 256 + core)).refused = [] →
    rotation (s1.coreAt (die * 256 + core)).lastSlot = l1 ++ i :: l2 →
    (∀ j ∈ l1, s1.reaches ⟨die, core, j⟩ = false ∧ s1.thread? ⟨die, core, j⟩ = none) →
    s1.reaches ⟨die, core, i⟩ = false → s1.thread? ⟨die, core, i⟩ = some t → s1.offerable ⟨die, core, i⟩ = true →
    t.yield = none → (s1.noteOffer die core i).offer ⟨die, core, i⟩ t = .issued s2 →
      step s = afterMove (.next ((s2.taken die core i false).endTurn die core)))

/-- The word that a fetch reads is the four bytes at its physical address, the lowest address in the lowest bits, where the page is
translated, no store of the core is on its way and the base revision is read (05 R50; 00 R3; 15 R203). A bundle that does not form
traps: for an encoding that the manual does not list with cause 0x01, for a word out of place with cause 0x02, each with the word's
address and the word; for a fetch that fails with cause 0x06 and reason 6 or the protection's, or with cause 0x07 or 0x0A and the kind of
the translation's failure (05 R51, R53, R65; 09 R110; 15 R203). -/
def Obligations.FetchReadsWordsOrTraps : Prop :=
  (∀ (s s1 s2 s3 : State) (p : Party) (t : Thread) (addr : Nat) (used : List PlbEntry) (x : Xlat),
    addr < 2 ^ 56 → s.rights (Party.coreKey p) t.dom t.sup needX 260 addr (addr + 4) [] = .ok used →
    s1 = s.usePlb (Party.coreKey p) used →
    s1.translate (Party.clusterKey p) addr t.revNo false (s1.launchOf p) = (.ok x, s2) →
    s3 = (if ((s2.core p).l1Hit addr 4 t.dom t.revNo).isSome then s2 else s2.l2Touch p.die t.dom addr x.pa x.attr false) →
    s3.revisioned t.dom addr x.revd x.attr = false → poisonIn s3.memPoison x.pa 4 = false →
    s3.pendingStores (fetchFlight s3 p t) = [] →
      s.fetchWord p t addr = (.word (Memory.read s2.mem (x.pa + 3) ++ Memory.read s2.mem (x.pa + 2) ++
        Memory.read s2.mem (x.pa + 1) ++ Memory.read s2.mem x.pa), s3)) ∧
  (∀ (s : State) (addr : Word) (w : IWord) (second : Bool) (why : FetchFail), s.running →
    let n := if second then 1 else 0
    let m := if addr = s.issue.pc then 0 else 1
    exec (.illegalEncoding addr w second) s = .next (s.trapNow 0x01 n s.issue.pc addr (w.zeroExtend 64)) ∧
    exec (.bundleMisplacement addr w second) s = .next (s.trapNow 0x02 n s.issue.pc addr (w.zeroExtend 64)) ∧
    exec (.fetchFault addr .address) s = .next (s.trapNow 0x06 m s.issue.pc addr 0x46) ∧
    (∀ r, exec (.fetchFault addr (.protection r)) s = .next (s.trapNow 0x06 m s.issue.pc addr (w64 (0x40 + r)))) ∧
    (∀ k, exec (.fetchFault addr (.translation k)) s = .next (s.trapNow (if k = 8 then 0x0A else 0x07) m s.issue.pc addr
      (w64 (addr.toNat / 4 % 2 ^ 54 + k * 2 ^ 54)))) ∧
    ∃ t, exec (.fetchFault addr why) s = .next t ∧ t.issue.last = .trapped)

/-- No word and no event of the manual is refused, and none stops the machine but a word run where no context stands: where
the current slot holds a context, or for an event, exec answers a next state (00 R1; spec/95). -/
def Obligations.ExecAnswersNext : Prop :=
  ∀ (i : Instr) (s : State), (s.running ∨ Instr.isEvent i = true) → ∃ t, exec i s = .next t

/-- A bundle that traps or parks before issue takes no effect: after any instruction word that ends in a trap, the state is
the trap entry made from the state before the word; after one that parks before issue, it is the state before the word with
the slot parked (05 R53; 03 R40). -/
def Obligations.TrapsAndParksTakeNoEffect : Prop :=
  ∀ (i : Instr) (s t : State), i.fields.isSome = true → exec i s = .next t →
    (t.issue.last = .trapped → ∃ cause word epc eaddr einfo, t = s.trapNow cause word epc eaddr einfo) ∧
    (t.issue.last = .parked → (t.me.park.any (fun k => k.after)) = false → ∃ why, t = s.parkBefore why)

/-- Every memory stays in canonical form: addresses strictly rising, and no byte listed that equals what an unlisted byte
reads as. This holds of main memory, of the polders and of the weight buffers after every step from every state in which it
holds. -/
def Obligations.StepKeepsMemoryCanonical : Prop :=
  ∀ s t : State, s.memoryWf → step s = .next t → t.memoryWf

/-- The state after reset: nothing has booted, no die has started, no slot holds a context, memory lists nothing and is
canonical, the host port is as its registers' reset values say, and the first step boots the package (01 R24; 23 Table
23.7). The memory's contents are the model's choice (log 4); that the package has yet to boot, and that the first step of the default
order boots it with images that verify, is the model's reading (logs 1 and 11). -/
def Obligations.ResetStateIsUnbooted : Prop :=
  State.reset.memoryWf ∧ State.reset.booted = false ∧ State.reset.threads = [] ∧
    (∀ d, (State.reset.dieAt d).started = false) ∧ State.reset.port.enable = false ∧
    State.reset.port.pcb = 0 ∧ State.reset.port.cmdtail = 0 ∧ State.reset.port.cmdhead = 0 ∧
    (∃ t, step State.reset = .next t ∧ t.booted = true ∧ ∀ d < 12, (t.dieAt d).started = true)

/-! ### Operands -/

/-- What each form of a g source reads. g0 reads 0. A register that holds a value gives it, and the state stays as it is. One
that an operation has emptied parks the slot before issue; a poisoned one traps with the address, kind and place of its
record, with cause 0x0A for a memory error and 0x07 for a translation; in a pair, an older poison that the A-word reads is the one
reported. A field that names a bound outbound endpoint traps with cause 0x0D and reason 3. A bound inbound endpoint parks while
no word has arrived; else the word at the head of its receive ring is read, and the endpoint holds one word fewer (09 R93; 15 R200,
R218; 19 R264, R266). Which of several poisons is reported is the model's reading (log 49), and so are the places of a ring's words
(log 59). -/
def Obligations.GeneralSourcesRead : Prop :=
  ∀ (s : State) (r : Reg),
    (s.aliasChan r = none →
      (r = 0 → s.readG r = .ok (0, s)) ∧
      (∀ v, r ≠ 0 → s.src.g[r] = .val v → s.readG r = .ok (v, s)) ∧
      (∀ op, r ≠ 0 → s.src.g[r] = .empty op → s.readG r = .error (.park (.reg r.val))) ∧
      (∀ x : Replay, r ≠ 0 → s.src.g[r] = .poison x → s.issue.mate = none →
        ∃ cause, (cause = 0x07 ∨ cause = 0x0A) ∧ (cause = 0x0A ↔ x.kind = 8) ∧
          s.readG r = .error (.trap cause (w64 x.addr) (Poison.ofReplay x false r.val).einfo none)) ∧
      (∀ (x : Replay) (m : Poison), r ≠ 0 → s.src.g[r] = .poison x → s.issue.mate = some m →
        m.seq < (Poison.ofReplay x false r.val).seq →
          s.readG r = .error (.trap m.cause (w64 m.addr) m.einfo (some 1)))) ∧
    (∀ k c, s.aliasChan r = some (k, c) →
      (c.out = true → s.readG r = .error (.trap 0x0D 0 (w64 (k * 16 + 3)) none)) ∧
      (c.out = false → s.issue.pre = none → s.issue.popped = [] → s.issue.ahead = [] → c.b = 0 → s.readG r = .error (.park (.word k 1))) ∧
      (c.out = false → s.issue.pre = none → s.issue.popped = [] → s.issue.ahead = [] → 0 < c.b →
        ∃ s1 : State, ∃ e : Chan,
        s.readG r = .ok (w64 (s.readSram (homeByte s.cur (0x0800 + 0x100 * c.rbuf + 8 * (c.head % 32))) 8), s1) ∧
          s1.me.chan? k = some e ∧ e.b = c.b - 1 ∧ e.head = c.head + 1 ∧
          s1.issue.popped.map (·.1) = [k] ∧
          (c.auto = false → e = { c with b := c.b - 1, head := c.head + 1 } ∧ s1.flights = s.flights)))

/-- What each form of a g destination does. g0 discards the value and leaves the state as it is; a register receives it and nothing
else of the state changes; a bound outbound endpoint sends it, its allowance one less, and no register is written (09 R93; 19 R264,
R266). A destination that an operation has emptied parks the slot, and so does an endpoint without allowance; an inbound endpoint
traps with cause 0x0D and reason 3, a refused one with 5, a freed one with 7 (03 R40; 15 R218). -/
def Obligations.GeneralDestinations : Prop :=
  (∀ (s : State) (d : Reg) (v : Word), s.running →
     (s.aliasChan d = none → d = 0 → s.writeG d v = s) ∧
     (s.aliasChan d = none → d ≠ 0 →
       (s.writeG d v).me.g[d] = .val v ∧ (∀ r : Reg, r ≠ d → (s.writeG d v).me.g[r] = s.me.g[r]) ∧
         { (s.writeG d v).me with g := s.me.g } = s.me ∧ SameOthers s.cur s (s.writeG d v) ∧
         { s.writeG d v with threads := s.threads } = s) ∧
     (∀ k c e n, s.aliasChan d = some (k, c) → s.me.chan? k = some e → e.conn = some n →
       ((s.writeG d v).me.chan? k).map (·.a) = some (e.a - 1) ∧ (s.writeG d v).me.g = s.me.g ∧
         ∃ f : Flight, (s.writeG d v).flights = s.flights ++ [f] ∧ f.kind = .word n v ∧ f.party = s.cur)) ∧
  (∀ (s : State) (d : Reg),
     (s.aliasChan d = none →
       (∀ op, d ≠ 0 → s.src.g[d] = .empty op → s.checkDest d = .error (.park (.reg d.val))) ∧
       (d = 0 ∨ (∀ op, s.src.g[d] ≠ .empty op) → s.checkDest d = .ok ())) ∧
     (∀ k c, s.aliasChan d = some (k, c) →
       (c.out = false → s.checkDest d = .error (.trap 0x0D 0 (w64 (k * 16 + 3)) none)) ∧
       (c.out = true → c.st = .refused → s.checkDest d = .error (.trap 0x0D 0 (w64 (k * 16 + 5)) none)) ∧
       (c.out = true → c.st = .freed → s.checkDest d = .error (.trap 0x0D 0 (w64 (k * 16 + 7)) none)) ∧
       (c.out = true → c.st = .opened ∨ c.st = .waiting → s.me.chan? k = some c →
         s.checkDest d = if c.a = 0 then .error (.park (.send k 1)) else .ok ())))

/-- Predicates: the count of q0 is the lane count of the bound tile, or 0 without one; the count of another predicate is what
it holds, at most 128 once written, whatever value is written; a predicate that LDVFF has emptied parks the slot (09 R93,
R111; 11 R130). -/
def Obligations.PredicatesCount : Prop :=
  ∀ (s : State), s.running →
    (s.src.tile = none → s.readQ 0 = .ok 0) ∧
    (∀ k, s.src.tile = some k → (s.srcTiles[k]).typ.okTile = true →
      s.readQ 0 = .ok (1024 / Fmt.bits (s.srcTiles[k]).typ) ∧ 32 ≤ s.lanes ∧ s.lanes ≤ 128) ∧
    (∀ (q : Reg8) op, q ≠ 0 → s.src.q[q] = .empty op → s.readQ q = .error (.park .pred)) ∧
    (∀ (q : Reg8) n, q ≠ 0 → s.issue.pre = none → (s.writeQ q n).readQ q = .ok (Nat.min n 128)) ∧
    (∀ (q r : Reg8) n, q ≠ r → (s.writeQ q n).me.q[r] = s.me.q[r])

/-! ### Scalar words -/

/-- The integer words of two registers complete with the exact result of 09 Table 9.4 at width n, narrowed and extended as the table
gives, with sources and destinations of any form (09 R97). ADD, SUB and MUL wrap, or clamp to the bounds with ISAT counted exactly when
the value is out of bounds (07 R87). A division by a nonzero divisor gives the truncated quotient or the remainder, the most negative
value by -1 wraps, and a division by zero gives the values of R97 with IDIVZ counted. -/
def Obligations.IntegerResults : Prop :=
  (∀ (s s1 : State) (d a b : Reg) (x y : Word) (w : Width), s.running → Reads2 s a b x y s1 → s1.checkDest d = .ok () →
     let n := Width.bits w
     let xs := signedOf n x.toNat
     let ys := signedOf n y.toNat
     let xu := x.toNat % 2 ^ n
     let yu := y.toNat % 2 ^ n
     (∀ m, exec (.add w m d a b) s =
       .next (s1.writeCounted d (BitVec.ofInt 64 (signedOf n (intResult n m (xs + ys)).1)) (intResult n m (xs + ys)).2).commit) ∧
     (∀ m, exec (.sub w m d a b) s =
       .next (s1.writeCounted d (BitVec.ofInt 64 (signedOf n (intResult n m (xs - ys)).1)) (intResult n m (xs - ys)).2).commit) ∧
     (∀ m, exec (.mul w m d a b) s =
       .next (s1.writeCounted d (BitVec.ofInt 64 (signedOf n (intResult n m (xs * ys)).1)) (intResult n m (xs * ys)).2).commit) ∧
     exec (.mulh w d a b) s = .next (s1.writeG d (BitVec.ofInt 64 (signedOf n (wrapTo n (xs * ys / 2 ^ n))))).commit ∧
     exec (.mulhu w d a b) s = .next (s1.writeG d (w64 (xu * yu / 2 ^ n))).commit ∧
     exec (.min w d a b) s = .next (s1.writeG d (BitVec.ofInt 64 (Min.min xs ys))).commit ∧
     exec (.max w d a b) s = .next (s1.writeG d (BitVec.ofInt 64 (Max.max xs ys))).commit ∧
     exec (.minu w d a b) s = .next (s1.writeG d (w64 (Min.min xu yu))).commit ∧
     exec (.maxu w d a b) s = .next (s1.writeG d (w64 (Max.max xu yu))).commit ∧
     exec (.slt w d a b) s = .next (s1.writeG d (if xs < ys then 1 else 0)).commit ∧
     exec (.sltu w d a b) s = .next (s1.writeG d (if xu < yu then 1 else 0)).commit) ∧
  (∀ (s s1 : State) (d a b : Reg) (x y : Word) (w : Width), s.running → Reads2 s a b x y s1 → s1.checkDest d = .ok () →
     let n := Width.bits w
     let xs := signedOf n x.toNat
     let ys := signedOf n y.toNat
     let xu := x.toNat % 2 ^ n
     let yu := y.toNat % 2 ^ n
     (yu ≠ 0 →
       exec (.div w d a b) s = .next (s1.writeG d (BitVec.ofInt 64 (signedOf n (wrapTo n (Int.tdiv xs ys))))).commit ∧
       exec (.divu w d a b) s = .next (s1.writeG d (w64 (xu / yu))).commit ∧
       exec (.rem w d a b) s = .next (s1.writeG d (BitVec.ofInt 64 (Int.tmod xs ys))).commit ∧
       exec (.remu w d a b) s = .next (s1.writeG d (w64 (xu % yu))).commit) ∧
     (yu = 0 →
       exec (.div w d a b) s = .next (s1.writeCounted d (-1) [evIdivz]).commit ∧
       exec (.divu w d a b) s = .next (s1.writeCounted d (w64 (2 ^ n - 1)) [evIdivz]).commit ∧
       exec (.rem w d a b) s = .next (s1.writeCounted d (BitVec.ofInt 64 xs) [evIdivz]).commit ∧
       exec (.remu w d a b) s = .next (s1.writeCounted d (w64 xu) [evIdivz]).commit)) ∧
  (∀ (n : Nat) (v : Int), 1 ≤ n →
     (intResult n .wrap v).2 = [] ∧
     signedOf n (intResult n .wrap v).1 = Int.bmod v (2 ^ n) ∧
     (-(2 ^ (n - 1) : Int) ≤ v → v ≤ 2 ^ (n - 1) - 1 → signedOf n (intResult n .sat v).1 = v ∧ (intResult n .sat v).2 = []) ∧
     (v < -(2 ^ (n - 1) : Int) → signedOf n (intResult n .sat v).1 = -(2 ^ (n - 1) : Int) ∧ (intResult n .sat v).2 = [evIsat]) ∧
     (2 ^ (n - 1) - 1 < v → signedOf n (intResult n .sat v).1 = 2 ^ (n - 1) - 1 ∧ (intResult n .sat v).2 = [evIsat]))

/-- The logic and shift words at width n: a shift by the low six bits of gb, which at or beyond n gives 0 for SHL and SHR and
copies of the sign for SAR; the counts of leading and trailing zeros and of ones (09 R97). -/
def Obligations.LogicAndShiftResults : Prop :=
  ∀ (s s1 : State) (d a b : Reg) (x y : Word) (w : Width), s.running → s1.checkDest d = .ok () →
    let n := Width.bits w
    let c := y.toNat % 64
    let ext (v : Nat) : Word := BitVec.ofInt 64 (signedOf n v)
    (Reads2 s a b x y s1 →
      exec (.and w d a b) s = .next (s1.writeG d (ext (x &&& y).toNat)).commit ∧
      exec (.or w d a b) s = .next (s1.writeG d (ext (x ||| y).toNat)).commit ∧
      exec (.xor w d a b) s = .next (s1.writeG d (ext (x ^^^ y).toNat)).commit ∧
      exec (.shl w d a b) s = .next (s1.writeG d (if n ≤ c then 0 else ext (x.toNat * 2 ^ c))).commit ∧
      exec (.shr w d a b) s = .next (s1.writeG d (if n ≤ c then 0 else ext (x.toNat % 2 ^ n / 2 ^ c))).commit ∧
      exec (.sar w d a b) s = .next (s1.writeG d
        (if n ≤ c then (if signedOf n x.toNat < 0 then -1 else 0)
          else BitVec.ofInt 64 (signedOf n x.toNat / 2 ^ c))).commit) ∧
    (Reads1 s a x s1 →
      (∃ v : Word, exec (.clz w d a) s = .next (s1.writeG d v).commit ∧
        ((v = w64 n ∧ x.toNat % 2 ^ n = 0) ∨ (v.toNat < n ∧ x.toNat % 2 ^ n / 2 ^ (n - 1 - v.toNat) = 1))) ∧
      (∃ v : Word, exec (.ctz w d a) s = .next (s1.writeG d v).commit ∧
        ((v = w64 n ∧ x.toNat % 2 ^ n = 0) ∨ (v.toNat < n ∧ x.toNat % 2 ^ (v.toNat + 1) = 2 ^ v.toNat))) ∧
      exec (.popc w d a) s = .next (s1.writeG d (w64 (((List.range n).filter (fun i => x.getLsbD i)).length))).commit)

/-- SEL gd, ga, gb, gc sets gd := ga if gc ≠ 0, and gd := gb otherwise, with all three sources read first (09 R98). -/
def Obligations.SelectResult : Prop :=
  ∀ (s s1 s2 s3 : State) (d a b c : Reg) (x y z : Word), s.running → s.checkPoison [a, b, c] = .ok () →
    s.readG a = .ok (x, s1) → s1.readG b = .ok (y, s2) → s2.readG c = .ok (z, s3) → s3.checkDest d = .ok () →
      exec (.sel d a b c) s = .next (s3.writeG d (if z ≠ 0 then x else y)).commit

/-- The immediate forms ADDI to SLTI work on all 64 bits, as 09 R99 gives them; LUI sets gd to its immediate, sign-extended,
times 2^14. -/
def Obligations.ImmediateResults : Prop :=
  ∀ (s s1 : State) (d a : Reg) (x : Word), s.running → s1.checkDest d = .ok () →
    (Reads1 s a x s1 → ∀ (imm : BitVec 14) (c : BitVec 6),
      exec (.addi d a imm) s = .next (s1.writeG d (BitVec.ofInt 64 ((x.toNat : Int) + imm.toInt))).commit ∧
      exec (.andi d a imm) s = .next (s1.writeG d (x &&& imm.zeroExtend 64)).commit ∧
      exec (.ori d a imm) s = .next (s1.writeG d (x ||| imm.zeroExtend 64)).commit ∧
      exec (.xori d a imm) s = .next (s1.writeG d (x ^^^ imm.zeroExtend 64)).commit ∧
      exec (.shli d a c) s = .next (s1.writeG d (w64 (x.toNat * 2 ^ c.toNat))).commit ∧
      exec (.shri d a c) s = .next (s1.writeG d (w64 (x.toNat / 2 ^ c.toNat))).commit ∧
      exec (.sari d a c) s = .next (s1.writeG d (BitVec.ofInt 64 (x.toInt / 2 ^ c.toNat))).commit ∧
      exec (.slti d a imm) s = .next (s1.writeG d (if x.toInt < imm.toInt then 1 else 0)).commit) ∧
    (s1 = s → ∀ imm : BitVec 19,
      exec (.lui d imm) s = .next (s1.writeG d (BitVec.ofInt 64 (imm.toInt * 2 ^ 14))).commit)

/-- EXT gives bits [pos + len - 1:pos] of ga, zero-extended; INS replaces those bits of gd by the low bits of ga and leaves the
others. The address words form their sums modulo 2^64; CMOV leaves gd as it is when gb = 0 (09 R100, R101). That INS reads gd before
ga, where both name bound endpoints, is the model's choice (log 48). -/
def Obligations.FieldAndAddressResults : Prop :=
  (∀ (s s1 : State) (d a : Reg) (x : Word) (pos len1 : BitVec 6), s.running → Reads1 s a x s1 → s1.checkDest d = .ok () →
    pos.toNat + len1.toNat + 1 ≤ 64 →
      ∃ v : Word, exec (.ext d a pos len1) s = .next (s1.writeG d v).commit ∧
        ∀ i, v.getLsbD i = (decide (i ≤ len1.toNat) && x.getLsbD (pos.toNat + i))) ∧
  (∀ (s s1 : State) (d a : Reg) (x y : Word) (pos len1 : BitVec 6), s.running → Reads2 s d a y x s1 →
    s1.checkDest d = .ok () → pos.toNat + len1.toNat + 1 ≤ 64 →
      ∃ v : Word, exec (.ins d a pos len1) s = .next (s1.writeG d v).commit ∧
        ∀ i, v.getLsbD i =
          if pos.toNat ≤ i ∧ i ≤ pos.toNat + len1.toNat then x.getLsbD (i - pos.toNat) else y.getLsbD i) ∧
  (∀ (s s1 : State) (d a b : Reg) (x y : Word) (k : Fin 4), s.running → Reads2 s a b x y s1 → s1.checkDest d = .ok () →
    exec (.lea d a b k) s = .next (s1.writeG d (x + y * 2 ^ k.val)).commit ∧
      exec (.cadd d a b) s = .next (s1.writeG d (x + y)).commit ∧
      (y ≠ 0 → exec (.cmov d a b) s = .next (s1.writeG d x).commit) ∧
      (y = 0 → exec (.cmov d a b) s = .next s1.commit)) ∧
  (∀ (s s1 : State) (d a : Reg) (x : Word) (imm : BitVec 11), s.running → Reads1 s a x s1 → s1.checkDest d = .ok () →
    exec (.caddi d a imm) s = .next (s1.writeG d (x + imm.signExtend 64)).commit)

/-- The scalar floating-point words that round read their operands from the low bits of the registers, draw from SEED in mode
.sr only, round once in their mode, and write the zero-extended result with its events counted (09 R103; 07 R83 to R85, R92). The
operation on finite values is handed the exact sum, product, quotient, root or fused sum, and the rounding that all share gives the
neighbour of the exact value that its mode chooses, or what an overflow gives, with INEXACT and UNDERFLOW where they arise. That FMA
reads gd before ga and gb, where fields name bound endpoints, is the model's choice (log 48). -/
def Obligations.FloatRoundedResults : Prop :=
  (∀ (f : FpShape) (rm : Rounding) (draw : Nat) (x : Exact) (v : Rat), f ∈ fpShapes → 0 < v → x.holds f v →
    RoundsOnce f rm draw x v) ∧
  (∀ (w : FWidth) (rm : Rounding) (draw : Nat), ExactOperations (FWidth.shape w) rm draw) ∧
  ∀ (s s1 : State) (w : FWidth) (m : Rounding) (d a b : Reg) (x y z : Word), s.running → s1.checkDest d = .ok () →
    let f := FWidth.shape w
    let s2 : State := if m = .sr then s1.setMe { s1.me with seed := w64 (stepSeed (s1.me.seed.toNat % 2 ^ 32)) } else s1
    let r : Nat := if m = .sr then stepSeed (s1.me.seed.toNat % 2 ^ 32) else 0
    let done (v : Nat × Counts) : Host.Outcome State Fault Refusal := .next (s2.writeCounted d (w64 v.1) v.2).commit
    let u := f.read (x.toNat % 2 ^ f.bits)
    let v := f.read (y.toNat % 2 ^ f.bits)
    let t := f.read (z.toNat % 2 ^ f.bits)
    (Reads2 s a b x y s1 →
      exec (.fadd w m d a b) s = done (f.add m r u v) ∧ exec (.fsub w m d a b) s = done (f.sub m r u v) ∧
      exec (.fmul w m d a b) s = done (f.mul m r u v) ∧ exec (.fdiv w m d a b) s = done (f.div m r u v)) ∧
    (Reads1 s a x s1 → exec (.fsqrt w m d a) s = done (f.sqrt m r u)) ∧
    (∀ sd sa, s.checkPoison [d, a, b] = .ok () → s.readG d = .ok (z, sd) → sd.readG a = .ok (x, sa) →
      sa.readG b = .ok (y, s1) → exec (.fma w m d a b) s = done (f.fma m r u v t))

/-- The scalar floating-point words that do not round: FMIN and FMAX; FCMP's bit for each condition, false on NaNs but for un;
FSGN writes the magnitude of ga under a new sign; FCLASS sets exactly one of bits [9:0]. FCVT converts ga, read as the source
format, with the column .sat of 07 Table 7.6 and, in mode .sr between two formats only, a draw from SEED, and extends the result
(09 R104 to R107). The least and the greatest of two patterns, the order of values, the NaN that a conversion carries and each row of
Table 7.6 are as 07 R86 and R89 say; that the table looks at the source value is the model's reading (log 25). -/
def Obligations.FloatOtherResults : Prop :=
  (OrderIsByValue ∧ ∀ f ∈ fpShapes, (∀ (wantMax : Bool) (a b : Nat), MinMaxGives f wantMax a b) ∧
    (∀ g ∈ fpShapes, ∀ x, f.hasNan = true → NanIsCarried g f x) ∧ ∀ (rm : Rounding) (c : Sat) (draw : Nat), ConvertsToFloat f rm c draw) ∧
  (∀ (n : Nat) (rm : Rounding) (c : Sat) (draw : Nat), 1 ≤ n → ConvertsToInteger n rm c draw) ∧
  (∀ (src dst : Fmt) (rm : Rounding) (c : Sat) (draw x : Nat), convert src dst rm c draw x =
    let v := match src.shape with
      | some g => g.read x
      | none => FpVal.ofInt (signedOf src.bits x)
    match dst.shape with
    | some f => f.convert rm c draw v
    | none => convertToInt dst.bits rm c draw v) ∧
  ∀ (s s1 : State) (w : FWidth) (d a b : Reg) (x y : Word), s.running → s1.checkDest d = .ok () →
    let f := FWidth.shape w
    let u := x.toNat % 2 ^ f.bits
    let v := y.toNat % 2 ^ f.bits
    (Reads2 s a b x y s1 →
      (exec (.fmin w d a b) s = .next (s1.writeCounted d (w64 (f.minMax false u v).1) (f.minMax false u v).2).commit) ∧
      (exec (.fmax w d a b) s = .next (s1.writeCounted d (w64 (f.minMax true u v).1) (f.minMax true u v).2).commit) ∧
      (∀ c, ∃ (r : Bool) (evs : Counts), exec (.fcmp c w d a b) s = .next (s1.writeCounted d (if r then 1 else 0) evs).commit ∧
        ((f.read u).isNan = true ∨ (f.read v).isNan = true → (r = true ↔ c = .un) ∧
          (c = .lt ∨ c = .le → evs = [evInvalid])) ∧
        (c = .eq ∨ c = .un → (evs = [evInvalid] ↔ ((f.read u).isSignalling || (f.read v).isSignalling) = true)) ∧
        ((f.read u).isNan = false → (f.read v).isNan = false → evs = [] ∧
          r = match c with
            | .eq => (f.read u).eqv (f.read v)
            | .lt => (f.read u).lt (f.read v)
            | .le => (f.read u).lt (f.read v) || (f.read u).eqv (f.read v)
            | .un => false)) ∧
      (∀ c, ∃ q : Nat, exec (.fsgn c w d a b) s = .next (s1.writeG d (w64 q)).commit ∧ q < 2 ^ f.bits ∧
        q % 2 ^ (f.bits - 1) = u % 2 ^ (f.bits - 1) ∧
        (q.testBit (f.bits - 1) = match c with
          | .copy => v.testBit (f.bits - 1)
          | .neg => !v.testBit (f.bits - 1)
          | .xor => u.testBit (f.bits - 1) != v.testBit (f.bits - 1)))) ∧
    (Reads1 s a x s1 →
      (∃ k < 10, exec (.fclass w d a) s = .next (s1.writeG d (w64 (2 ^ k))).commit ∧
        (k = 8 ↔ (f.read u).isSignalling = true) ∧ (k = 9 ↔ ((f.read u).isNan && !(f.read u).isSignalling) = true)) ∧
      (∀ m (g : Fmt),
        let s2 : State := if m = .sr ∧ FWidth.fmt w ≠ g then
          s1.setMe { s1.me with seed := w64 (stepSeed (s1.me.seed.toNat % 2 ^ 32)) } else s1
        let r : Nat := if m = .sr ∧ FWidth.fmt w ≠ g then stepSeed (s1.me.seed.toNat % 2 ^ 32) else 0
        let o := convert (FWidth.fmt w) g m .sat r u
        let p := convert g (FWidth.fmt w) m .sat r (x.toNat % 2 ^ g.bits)
        exec (.fcvt .out w m d a g) s = .next (s2.writeCounted d
          (if g.shape.isSome then w64 o.1 else BitVec.ofInt 64 (signedOf g.bits o.1)) o.2).commit ∧
        exec (.fcvt .into w m d a g) s = .next (s2.writeCounted d (w64 p.1) p.2).commit))

/-- The predicate words write counts clamped to 128, and PREAD reads one (09 R111). -/
def Obligations.PredicateResults : Prop :=
  ∀ (s s1 : State) (d e : Reg8) (g b : Reg) (x : Word) (n : Nat), s.running →
    (Reads1 s b x s1 → s1.checkDestQ d = .ok () →
      exec (.pcnt d b) s = .next (s1.writeQ d x.toNat).commit) ∧
    (Reads1 s b x s1 → s.readQ e = .ok n → s1.checkDestQ d = .ok () →
      exec (.pmin d e b) s = .next (s1.writeQ d (Min.min n x.toNat)).commit) ∧
    (s.readQ e = .ok n → s.checkDestQ d = .ok () → exec (.pmov d e) s = .next (s.writeQ d n).commit) ∧
    (s.readQ e = .ok n → s.checkDest g = .ok () → exec (.pread g e) s = .next (s.writeG g (w64 n)).commit)

/-- The control-transfer words set the address of the next bundle (09 R109): a taken CB branch, and LOOP while its decremented
register is not 0, to pc plus the offset in words; CALL and BR likewise with nx in gd; CALLR, JMPR and RET to the address read, which
is read before gd is written. A branch not taken goes on at nx. A jump, and an ERET, to an address whose bits [1:0] are not 0 traps
with cause 0x02 and the address, and takes no effect (05 R52; 09 R110). That a CB branch reads its d field before a, where both name
bound endpoints, is the model's choice (log 48). -/
def Obligations.ControlTransfers : Prop :=
  (∀ (s s1 : State) (d a : Reg) (x y : Word), s.running →
     let to14 (off : BitVec 14) (u : State) : State := u.goTo (BitVec.ofInt 64 ((u.issue.pc.toNat : Int) + off.toInt * 4))
     (Reads2 s d a x y s1 → ∀ off : BitVec 14,
       let go (c : Bool) : Host.Outcome State Fault Refusal := .next (if c then to14 off s1 else s1).commit
       exec (.beq d a off) s = go (x == y) ∧ exec (.bne d a off) s = go (x != y) ∧
       exec (.blt d a off) s = go (decide (x.toInt < y.toInt)) ∧ exec (.bge d a off) s = go (decide (y.toInt ≤ x.toInt)) ∧
       exec (.bltu d a off) s = go (decide (x.toNat < y.toNat)) ∧ exec (.bgeu d a off) s = go (decide (y.toNat ≤ x.toNat))) ∧
     (Reads1 s d x s1 → s1.checkDest d = .ok () → ∀ off : BitVec 14,
       exec (.loop d off) s = .next (if x = 1 then s1.writeG d 0 else to14 off (s1.writeG d (x - 1))).commit) ∧
     (s.checkDest d = .ok () → ∀ off : BitVec 19,
       exec (.call d off) s =
         .next ((s.writeG d s.issue.nx).goTo (BitVec.ofInt 64 ((s.issue.pc.toNat : Int) + off.toInt * 4))).commit) ∧
     (Reads1 s a x s1 → x.toNat % 4 = 0 →
       (s1.checkDest d = .ok () → exec (.callr d a) s = .next ((s1.writeG d s1.issue.nx).goTo x).commit) ∧
       exec (.jmpr a) s = .next (s1.goTo x).commit ∧ (a = 1 → exec .ret s = .next (s1.goTo x).commit))) ∧
  (∀ (s s1 : State) (d a : Reg) (x : Word), s.running → x.toNat % 4 ≠ 0 →
     (Reads1 s a x s1 →
       exec (.callr d a) s = .next (s.trapNow 0x02 0 s.issue.pc x 0) ∧ exec (.jmpr a) s = .next (s.trapNow 0x02 0 s.issue.pc x 0) ∧
       (a = 1 → exec .ret s = .next (s.trapNow 0x02 0 s.issue.pc x 0))) ∧
     (s.src.sup = true → s.src.epc = x → exec .eret s = .next (s.trapNow 0x02 0 s.issue.pc x 0)))

/-- What the scalar words leave unchanged (09 R93, R97 to R111). After any integer, floating-point, address or predicate word
that completes: memory, polders and weight buffers read as before; every other context is as before; the context's other
general registers are as before, and gd too where it names a bound endpoint; its predicates are, but for the destination of a
predicate word; and every control register is, but for SEED under the rounding mode .sr. Only the core's event counters may change in
the core. An endpoint that no field of the word names is as before, and the words and grants that start are the context's own (19 R264,
R266); where no endpoint is bound, none starts. -/
def Obligations.ScalarWordsFrame : Prop :=
  ∀ (i : Instr) (s t : State) (d : Option Reg) (q : Option Reg8), s.running → exec i s = .next t → t.issue.last = .done →
    (match i with
      | .add _ _ e _ _ | .sub _ _ e _ _ | .mul _ _ e _ _ | .mulh _ e _ _ | .mulhu _ e _ _ | .div _ e _ _ | .divu _ e _ _
      | .rem _ e _ _ | .remu _ e _ _ | .min _ e _ _ | .max _ e _ _ | .minu _ e _ _ | .maxu _ e _ _ | .slt _ e _ _
      | .sltu _ e _ _ | .and _ e _ _ | .or _ e _ _ | .xor _ e _ _ | .shl _ e _ _ | .shr _ e _ _ | .sar _ e _ _
      | .clz _ e _ | .ctz _ e _ | .popc _ e _ | .sel e _ _ _ | .addi e _ _ | .andi e _ _ | .ori e _ _ | .xori e _ _
      | .shli e _ _ | .shri e _ _ | .sari e _ _ | .slti e _ _ | .lui e _ | .ext e _ _ _ | .ins e _ _ _
      | .lea e _ _ _ | .cadd e _ _ | .cmov e _ _ | .caddi e _ _ | .fadd _ _ e _ _ | .fsub _ _ e _ _ | .fmul _ _ e _ _
      | .fdiv _ _ e _ _ | .fma _ _ e _ _ | .fsqrt _ _ e _ | .fmin _ e _ _ | .fmax _ e _ _ | .fcmp _ _ e _ _
      | .fcvt _ _ _ e _ _ | .fclass _ e _ | .fsgn _ _ e _ _ | .pread e _ => d = some e ∧ q = none
      | .pcnt e _ | .pmin e _ _ | .pmov e _ => d = none ∧ q = some e
      | _ => False) →
      SameBytes s t ∧ SameOthers s.cur s t ∧
        { t with threads := s.threads, cores := s.cores, issue := s.issue, flights := s.flights, nextOp := s.nextOp } = s ∧
        (∀ r : Reg, d ≠ some r ∨ r = 0 ∨ (s.aliasChan r).isSome = true → t.me.g[r] = s.me.g[r]) ∧
        (∀ r : Reg8, q ≠ some r → t.me.q[r] = s.me.q[r]) ∧
        { t.me with g := s.me.g, q := s.me.q, pc := s.me.pc, seed := s.me.seed, chans := s.me.chans } = s.me ∧
        (match i with
          | .fadd _ .sr _ _ _ | .fsub _ .sr _ _ _ | .fmul _ .sr _ _ _ | .fdiv _ .sr _ _ _ | .fma _ .sr _ _ _
          | .fsqrt _ .sr _ _ | .fcvt _ _ .sr _ _ _ => True
          | _ => t.me.seed = s.me.seed) ∧
        t.me.pc = s.issue.next ∧ (∀ k, k ≠ Party.coreKey s.cur → t.coreAt k = s.coreAt k) ∧
        { t.core s.cur with ev := (s.core s.cur).ev } = s.core s.cur ∧
        (∀ k x, i.fields = some x → 24 + k ≠ x.d → 24 + k ≠ x.a → 24 + k ≠ x.b → 24 + k ≠ x.f / 16 →
          t.me.chan? k = s.me.chan? k) ∧
        (∃ l, t.flights = s.flights ++ l ∧ t.nextOp = s.nextOp + l.length ∧ ∀ f ∈ l, f.party = s.cur ∧ f.parts = [] ∧
          ∃ n, (∃ v, f.kind = .word n v) ∨ f.kind = .grant n 1) ∧
        ((∀ k, s.me.chan? k = none ∧ s.src.chan? k = none) → t.flights = s.flights ∧ t.nextOp = s.nextOp ∧ t.me.chans = s.me.chans)

/-! ### Traps, control registers, waiting and ending -/

/-- A trap enters its slot as 23 R312 gives: EPC, ECAUSE (word and cause), EADDR and EINFO receive the trap's values; PMODE := MODE, PIE :=
IE, MODE := 1, IE := 0; the next bundle is at TVEC, no sooner than 2 cycles after; no other register, no byte and no other context
changes. Cause 0x09 makes the gang one that is to migrate, with the bundle to be issued again; cause 0x0F with a debugger attached halts
the slot; with TVEC = 0, or in supervisor mode with IE = 0, the unit of the slot is killed. -/
def Obligations.TrapEntry : Prop :=
  (∀ (s : State) (p : Party) (t : Thread) (cause word : Nat) (epc eaddr einfo : Word),
     s.thread? p = some t → cause < 256 → word < 2 → cause ≠ 0x09 → (cause = 0x0F → s.debugAttached p t = false) →
     t.tvec ≠ 0 → (wbit t.status stMode = true → wbit t.status stIe = true) →
       ∃ u : Thread, (s.takeTrap p cause word epc eaddr einfo).thread? p = some u ∧
         u.epc = epc ∧ u.ecause.toNat = word * 256 + cause ∧ u.eaddr = eaddr ∧ u.einfo = einfo ∧ u.pc = t.tvec ∧
         u.readyAt = s.clock p.die + 2 ∧ u.park = none ∧
         (wbit u.status stPmode = wbit t.status stMode ∧ wbit u.status stPie = wbit t.status stIe ∧
           wbit u.status stMode = true ∧ wbit u.status stIe = false ∧
           ∀ n, n ≠ stPmode → n ≠ stPie → n ≠ stMode → n ≠ stIe → n < 64 → wbit u.status n = wbit t.status n) ∧
         u.g = t.g ∧ u.q = t.q ∧ u.tvec = t.tvec ∧ u.domain = t.domain ∧ u.seed = t.seed ∧ u.tile = t.tile ∧
         SameBytes s (s.takeTrap p cause word epc eaddr einfo) ∧ SameOthers p s (s.takeTrap p cause word epc eaddr einfo)) ∧
  (∀ (s : State) (p : Party) (t : Thread) (w : Work) (cause word : Nat) (epc eaddr einfo : Word),
     s.thread? p = some t → s.work t.unit = some w → w.st = .running →
     (cause = 0x09 → (((s.takeTrap p cause word epc eaddr einfo).work t.unit).map (·.st)) = some .moving ∧
       (((s.takeTrap p cause word epc eaddr einfo).thread? p).map (·.pc)) = some epc) ∧
     (cause = 0x0F → s.debugAttached p t = true →
       (((s.takeTrap p cause word epc eaddr einfo).thread? p).map (·.halted)) = some true) ∧
     (cause ≠ 0x09 → (cause = 0x0F → s.debugAttached p t = false) →
       (t.tvec = 0 ∨ (wbit t.status stMode = true ∧ wbit t.status stIe = false)) →
       ((s.takeTrap p cause word epc eaddr einfo).work t.unit).map (·.st) = some .dead))

/-- Before a bundle, the first enabled pending event of EPEND, MPEND and TPEND, in that order, is taken where IE = 1, and none
where IE = 0 (09 R115). ASYNC_EVENT_TRAP takes it: the slot's offer ends in a trap of its cause, EPC the address of the bundle that
would have issued, and its pending bit clears; the information of a memory-error event, and the kind and information of the
oldest message, reach EADDR and EINFO (09 R116). -/
def Obligations.EventsTakenInOrder : Prop :=
  ∀ (s : State) (p : Party) (t : Thread), s.thread? p = some t →
    (s.pendingEvent p =
      let w := s.statusOf p
      if wbit w stIe = false then none
      else if wbit w stEpend ∧ wbit w stEmem then some 0x14
      else if wbit w stMpend ∧ wbit w stEmsg then some 0x12
      else if wbit w stTpend ∧ wbit w stEtim then some 0x11
      else none) ∧
    (s.ready p = true → tget s.rest (Party.key p) = none → t.owed = [] → t.firstTrap = none → t.tvec ≠ 0 → ∀ cause, s.pendingEvent p = some cause →
      ∃ u : State, ∃ v : Thread, exec (.asyncEventTrap p) s = .next u ∧ u.thread? p = some v ∧ v.pc = t.tvec ∧
        v.epc = t.pc ∧ v.ecause.toNat = cause ∧ wbit v.status stIe = false ∧ wbit v.status stMode = true ∧
        (cause = 0x14 → v.eaddr = t.memEvent.1 ∧ v.einfo = t.memEvent.2 ∧ wbit v.status stEpend = false) ∧
        (cause = 0x11 → v.eaddr = 0 ∧ v.einfo = 0 ∧ wbit v.status stTpend = false) ∧
        (cause = 0x12 → ∀ kind info rest, (s.core p).msgs = (kind, info) :: rest → kind < 256 →
          v.eaddr.toNat = kind + (if (s.core p).msgLost then 256 else 0) ∧ v.einfo = info ∧ (u.core p).msgs = rest))

/-- TRAP takes a software trap with cause 0x10 in either mode, with EPC = pc + 4, EADDR = pc and EINFO = code; DBG takes cause 0x0F
with its code at its own address (09 R119; 23 R327). ERET in supervisor mode, with EPC aligned, sets MODE := PMODE and IE := PIE and
goes on at EPC; after causes other than 0x07 and 0x0A nothing else of the context changes. In user mode it traps with cause 0x03 and
EADDR = pc (09 R119; 00 Table 0.2; its EINFO 0 is the model's choice, log 16). -/
def Obligations.SoftwareTrapsAndReturn : Prop :=
  (∀ (s : State) (code : BitVec 10), s.running →
     exec (.trap code) s = .next (s.trapNow 0x10 0 (s.issue.pc + 4) s.issue.pc (code.zeroExtend 64)) ∧
     exec (.dbg code) s = .next (s.trapNow 0x0F (if s.issue.second then 1 else 0) s.issue.pc 0 (code.zeroExtend 64))) ∧
  (∀ (s : State) (t : Thread), s.thread? s.cur = some t → s.issue.pre = none →
     (wbit t.status stMode = true → t.epc.toNat % 4 = 0 → t.ecause.toNat % 256 ≠ 0x07 → t.ecause.toNat % 256 ≠ 0x0A →
       ∃ u : State, ∃ v : Thread, exec .eret s = .next u ∧ u.issue.last = .done ∧ u.thread? s.cur = some v ∧ v.pc = t.epc ∧
         wbit v.status stMode = wbit t.status stPmode ∧ wbit v.status stIe = wbit t.status stPie ∧
         (∀ n, n ≠ stMode → n ≠ stIe → n < 64 → wbit v.status n = wbit t.status n) ∧
         { v with status := t.status, pc := t.pc } = t ∧ SameBytes s u ∧ SameOthers s.cur s u) ∧
     (wbit t.status stMode = false → exec .eret s = .next (s.trapNow 0x03 (if s.issue.second then 1 else 0) s.issue.pc s.issue.pc 0)))

/-- MFC reads a register that the mode may read and writes it to gd (09 R112, R113, R117, Table 9.10). MTC writes a register that the mode
may write: what MFC then reads is the value written without its reserved bits, for each register whose write rule is that; EV
registers take bits [31:0]; TCMP's write clears TPEND; SEED stores 1 for 0 (09 R112, R117; 07 R84). SLOTTAB's value is held pending,
with 0b11 stored as 0b00 and entry 31 as 0b01 where no entry is 0b01 (03 R42; when it becomes the table is BARRIER_COMPLETE's); MWEIGHT
holds a written 0 as 1 (11 R152); WDOG is that of the thread's queue (23 R321); REV takes 0 or a live revision of DOMAIN, and any other
value leaves it (21 R306). MFAULT with HOLD = 0 written while VALID = 1 resumes the context's held commands at the BLOCK written; any
other value leaves the core's queue of commands as it is (11 R168). -/
def Obligations.ControlRegisters : Prop :=
  (∀ (s : State) (d : Reg) (c : CReg), s.running → (CReg.supRead c = true → s.src.sup = true) → s.checkDest d = .ok () →
     exec (.mfc d c) s = .next (s.writeG d (s.readCReg c)).commit ∧
     s.readCReg .feat = w64 (if s.cur.die < 8 then 0x0007 else 0x0009) ∧
     s.readCReg .timer = w64 (s.clock s.cur.die) ∧
     (Party.ok s.cur = true → (s.readCReg .slotid).toNat =
       s.cur.slot + 16 * s.cur.core + 4096 * s.cur.die + 65536 * Config.clusterOf s.cur.core +
         2097152 * Config.posOf s.cur.core) ∧
     s.readCReg .epc = s.me.epc ∧ s.readCReg .ecause = s.me.ecause ∧ s.readCReg .tvec = s.me.tvec ∧
     s.readCReg .domain = s.me.domain ∧ s.readCReg .rev = s.me.rev ∧ s.readCReg .seed = s.me.seed ∧
     (∀ n, n ≠ stMpend → n < 64 → wbit (s.readCReg .status) n = wbit s.me.status n)) ∧
  (∀ (s s1 : State) (d : Reg) (c : CReg) (v : Word), s.running → c.readOnly = false →
     (CReg.userWrite c = true ∨ s.src.sup = true) → Reads1 s d v s1 →
     ∃ t : State, exec (.mtc c d) s = .next t ∧ t.issue.last = .done ∧
       (c = .fmta ∨ c = .fmtb ∨ c = .scla ∨ c = .sclb ∨ c = .arg ∨ c = .epc ∨ c = .ecause ∨ c = .eaddr ∨ c = .einfo ∨
         c = .tvec ∨ c = .tcmp ∨ c = .domain ∨ c = .mfault ∨ (∃ n, c = .ev n) →
           t.readCReg c = v &&& w64 (CReg.mask c)) ∧
       (c = .tcmp → wbit t.me.status stTpend = false) ∧
       (c = .seed → t.readCReg .seed = w64 (if v.toNat % 2 ^ 32 = 0 then 1 else v.toNat % 2 ^ 32)) ∧
       (c = .status → ∀ n, n ≠ stMpend → n < 64 → wbit (t.readCReg .status) n = (wbit v n && wbit (w64 0x7071F) n)) ∧
       (c = .slottab → t.readCReg .slottab = s1.readCReg .slottab ∧ ∃ w : Word, (t.core s.cur).slottabNext = some w ∧
         ∀ i < 32, w.toNat / 4 ^ i % 4 =
           if i = 31 ∧ ∀ j < 32, v.toNat / 4 ^ j % 4 ≠ 1 then 1
           else if v.toNat / 4 ^ i % 4 = 3 then 0 else v.toNat / 4 ^ i % 4) ∧
       (c = .mweight → t.readCReg .mweight = w64 (if v.toNat % 16 = 0 then 1 else v.toNat % 16)) ∧
       (c = .wdog → ∀ q x, s1.queueOfThread s1.cur s1.me = some q → s1.queue q = some x →
         t.queue q = some { x with wdog := v } ∧ t.readCReg .wdog = v) ∧
       (c = .rev → (v.toNat % 4096 = 0 ∨ ∃ r, tget s1.revs (v.toNat % 4096) = some r ∧ r.live = true ∧ r.dom = s1.me.dom) →
         t.readCReg .rev = w64 (v.toNat % 4096)) ∧
       (c = .rev → v.toNat % 4096 ≠ 0 → (∀ r, tget s1.revs (v.toNat % 4096) = some r → r.live = false ∨ r.dom ≠ s1.me.dom) →
         t.readCReg .rev = s1.readCReg .rev) ∧
       (c = .mfault → (t.core s.cur).mq = if wbit s1.me.mfault 63 = true ∧ wbit v 62 = false then
         (s1.core s.cur).mq.map (fun m => if m.ctx = s1.me.ctx ∧ m.held = true then
           { m with held := false, resumed := true, block := v.toNat % 8 } else m) else (s1.core s.cur).mq) ∧
       (c ≠ .mfault → (t.core s.cur).mq = (s1.core s.cur).mq) ∧
       (c ≠ .tvec → t.me.tvec = s1.me.tvec) ∧ (c ≠ .domain → t.me.domain = s1.me.domain) ∧
       (∀ r : Reg, t.me.g[r] = s1.me.g[r]))

/-- Words that only supervisor mode may run, and accesses that 09 Table 9.10 denies to user mode, trap in user mode with cause 0x03 and
take no effect; EADDR and EINFO are 0, but for ERET's EADDR, the pc (05 R53; 09 R112, R119; 15 Table 15.11; 23 Tables 23.1, 23.4; that
ERET's EINFO is 0 is the model's choice, log 16). An MTC to a register that Table 9.10 marks read-only traps in every mode, and with
cause 0x01: EADDR its address, EINFO its word (09 R112; 05 R51, R66). -/
def Obligations.PrivilegeTraps : Prop :=
  (∀ (s : State) (d : Reg) (c : CReg), s.running → c.readOnly = true →
    exec (.mtc c d) s = .next (s.trapNow 0x01 (if s.issue.second then 1 else 0) s.issue.pc
      (if s.issue.second then s.issue.pc + 4 else s.issue.pc) (s.issue.word.zeroExtend 64))) ∧
  ∀ (s : State) (d a b : Reg) (c : CReg), s.running → s.src.sup = false →
    let denied : Host.Outcome State Fault Refusal := .next (s.trapNow 0x03 (if s.issue.second then 1 else 0) s.issue.pc 0 0)
    (CReg.supRead c = true → exec (.mfc d c) s = denied) ∧
    (c.readOnly = false → CReg.userWrite c = false → exec (.mtc c d) s = denied) ∧
    exec .eret s = .next (s.trapNow 0x03 (if s.issue.second then 1 else 0) s.issue.pc s.issue.pc 0) ∧
    exec (.harvest a b) s = denied ∧ exec (.tlbsd a b) s = denied ∧ exec (.plbinv a) s = denied ∧
    (∀ i, exec (.swapout i) s = denied ∧ exec (.swapin i) s = denied)

/-- No instruction word that a context runs in user mode and that completes changes its mode, its trap vector, its domain, its
saved trap registers or its event enables: only a trap entry does (05 R53; 09 R112, Table 9.10). -/
def Obligations.UserModeKeepsPrivilege : Prop :=
  ∀ (i : Instr) (s t : State) (u v : Thread), i.fields.isSome = true → exec i s = .next t → t.issue.last ≠ .trapped →
    s.issue.pre = none → s.thread? s.cur = some u → u.sup = false → t.thread? s.cur = some v →
      v.sup = false ∧ v.tvec = u.tvec ∧ v.domain = u.domain ∧ v.epc = u.epc ∧ v.ecause = u.ecause ∧ v.eaddr = u.eaddr ∧
        v.einfo = u.einfo ∧ ∀ n ∈ [stPmode, stDbg, stIe, stPie, stEtim, stEmsg, stEmem], wbit v.status n = wbit u.status n

/-- NOP only goes on. YIELD gives up the slot's turns until the slots that are ready have been offered one, or 15 cycles have passed. WFE
completes at once where an event of its mask is pending, and else parks after issue; SLEEP with 0 completes with 0 in gd, and else parks
after issue until its time. QUIT ends the thread: its slot issues no further bundle, and its streams, channels and tile binding are gone
(09 R119 to R123). The slot of an ending thread, as each cycle settles it, then joins the children that nothing uses, waits while a
command of the thread is queued or a store of it unacknowledged, discards a held command with MFAULT cleared, and holds no context once
the thread owes nothing (09 R123; 21 R302). TIMER_COMPARE: in the first cycle with TCMP ≠ 0 and TIMER ≥ TCMP the slot sets TPEND and TCMP := 0 (09 R117).
SLEEP_WAKE: a slot that sleeps wakes when its time has come, with 0 in gd, or when an event becomes pending that R115 would take, with
the time left in gd (09 R121). -/
def Obligations.WaitingAndTimers : Prop :=
  (∀ (s s1 : State) (d a : Reg) (x : Word), s.running →
     exec .nop s = .next s.commit ∧
     (∃ t, exec .yield s = .next t ∧ t.issue.last = .done ∧
       t.me.yield = some ((s.readySlots s.cur).filter (fun i => i != s.cur.slot), s.clock s.cur.die + 15)) ∧
     (Reads1 s a x s1 →
       let m := if x.toNat % 8 = 0 then 7 else x.toNat % 8
       (s1.wfePending s1.cur m = true → exec (.wfe a) s = .next s1.commit) ∧
       (s1.wfePending s1.cur m = false → exec (.wfe a) s = .next (s1.parkAfter (.wfe m))) ∧
       (s1.checkAsync d = .ok () →
         (x = 0 → exec (.sleep d a) s = .next (s1.writeG d 0).commit) ∧
         (x ≠ 0 → exec (.sleep d a) s = .next (s1.parkAfter (.sleep (s1.clock s1.cur.die + x.toNat) d.val))))) ∧
     (s.src.oldestPoison = none → ∃ t : State, ∃ v : Thread, exec .quit s = .next t ∧ t.thread? s.cur = some v ∧
       v.quitting = true ∧ v.tile = none ∧ (∀ k, v.stream? k = none) ∧ (∀ k, v.chan? k = none) ∧
       t.ready s.cur = false)) ∧
  (∀ (s : State) (p : Party) (t : Thread), s.thread? p = some t → t.quitting = true →
     let u := s.settleQuit p
     let stuck (m : MatCmd) : Prop := m.ctx = t.ctx ∧ m.held = true ∧ m.done = false
     (s.childrenOf t.ctx = [] → (∀ m ∈ (s.core p).mq, m.ctx ≠ t.ctx) → (∀ f ∈ s.flights, f.ctx = t.ctx → f.unacked = false ∧
       ∀ d, f.kind ≠ .status .fork d) → u.thread? p = none) ∧
     ((∀ m ∈ (s.core p).mq, ¬ stuck m) → ((∃ m ∈ (s.core p).mq, m.ctx = t.ctx) ∨ ∃ f ∈ s.flights, f.ctx = t.ctx ∧ f.unacked = true) →
       u.thread? p = some t) ∧
     ((∃ m ∈ (s.core p).mq, stuck m) → (∀ m ∈ (u.core p).mq, ¬ stuck m) ∧ ∀ v, u.thread? p = some v → v.mfault = 0) ∧
     (∀ c r, s.childrenOf t.ctx = [(c, r)] → r.parent ≠ c → tget s.revs c = some r → (∀ m ∈ (s.core p).mq, ¬ stuck m) →
       u.thread? p = some t ∧
       (s.uses c ≠ 0 → tget u.revs c = some r) ∧
       (s.uses c = 0 → (∃ x, tget u.revs c = some x ∧ x.hold = false ∧ x.live = false ∧ x.joining.isSome = true) ∧
         ∃ f ∈ u.flights, f.kind = .status (.join c) 0 ∧ f.ctx = t.ctx))) ∧
  (∀ (s : State) (p : Party) (t : Thread), s.thread? p = some t →
     (t.tcmp ≠ 0 → t.tcmp.toNat ≤ s.clock p.die % 2 ^ 64 → t.park = none →
       ∃ u : State, ∃ v : Thread, exec (.timerCompare p) s = .next u ∧ u.thread? p = some v ∧
         wbit v.status stTpend = true ∧ v.tcmp = 0 ∧ { v with status := t.status, tcmp := t.tcmp } = t) ∧
     (∀ until_ d waited second, t.park = some ⟨.sleep until_ d, true, waited, second⟩ → tget s.rest (Party.key p) = none →
       (until_ ≤ s.clock p.die ∨ (s.pendingEvent p).isSome = true) → 0 < d → d < 32 →
       ∃ u : State, ∃ v : Thread, exec (.sleepWake p) s = .next u ∧ u.thread? p = some v ∧ v.park = none ∧
         v.pc = t.pc + 4 ∧ vget v.g d (.val 0) = .val (w64 (until_ - s.clock p.die))))


/-! ### Memory -/

/-- Loads issue (15 R217 to R219). Where the base and the index read, the access of n bytes at the form's address passes the
checks and meets no weir entry, and gd can wait, LD starts a load of n bytes at that address, sign-extended for the signed
sizes, and gd is empty until it arrives. The bundle's L1 miss is counted where no L1 line serves it (once for each line: log 14).
Nothing else changes. -/
def Obligations.LoadsIssue : Prop :=
  ∀ (s s1 s2 : State) (z : LdSize) (o : Sys2Proof.Ordering) (sc : Scope) (d a b : Reg) (x y : Word) (off : BitVec 9) (l : Loc)
    (addr : Nat), s.running →
    let n := match z with
      | .b | .bu => 1
      | .h | .hu => 2
      | .w | .wu => 4
      | .d => 8
    let sg := decide (z = .b ∨ z = .h ∨ z = .w)
    let p := s2.loadPart addr l n
    let miss := match l, p.hit with
      | .va _, none => 1
      | _, _ => 0
    s1.checkAccess addr n n needR = .ok (l, s2) → s2.checkWeir addr l n false = .ok () → s2.checkAsync d = .ok () →
      (Reads1 s a x s1 → addr = (x + off.signExtend 64 * w64 n).toNat → ∃ t, exec (.ld z o sc d a off) s = .next t ∧
        Starts (s2.addEv (Party.coreKey s2.cur) evL1miss miss) t (some d) (.load (.g d.val sg)) [p] o sc) ∧
      (Reads2 s a b x y s1 → addr = (x + y * w64 n).toNat → ∃ t, exec (.ldIndexed z o sc d a b) s = .next t ∧
        Starts (s2.addEv (Party.coreKey s2.cur) evL1miss miss) t (some d) (.load (.g d.val sg)) [p] o sc)

/-- Stores issue (15 R217, R219). ST starts a store of the low n bytes of its data register at the form's address, and no byte
of memory, no register and no other context changes before the store is performed (that gd is read before ga and gb, where fields name
bound endpoints, is the model's choice, log 48). A release ordering first needs a context
without poisoned registers and held stores (15 R200); at core scope it is seen with what precedes it by every slot of the core
(17 R238). -/
def Obligations.StoresIssue : Prop :=
  ∀ (s s1 s2 : State) (z : StSize) (o : Sys2Proof.Ordering) (sc : Scope) (d a b : Reg) (v x y : Word) (off : BitVec 9) (l : Loc)
    (addr : Nat), s.running →
    let n := match z with
      | .b => 1
      | .h => 2
      | .w => 4
      | .d => 8
    (o = .rel ∨ o = .ar → s.checkRelease = .ok ()) →
    s1.checkAccess addr n n needW = .ok (l, s2) → s2.checkWeir addr l n true = .ok () →
      (Reads2 s d a v x s1 → addr = (x + off.signExtend 64 * w64 n).toNat → ∃ t, exec (.st z o sc d a off) s = .next t ∧
        Starts (s2.publish o sc) t none .store [mkPart addr l n (v.toNat % 2 ^ (8 * n))] o sc ∧ SameBytes s2 t) ∧
      (∀ sd sa, s.checkPoison [d, a, b] = .ok () → s.readG d = .ok (v, sd) → sd.readG a = .ok (x, sa) →
        sa.readG b = .ok (y, s1) → addr = (x + y * w64 n).toNat → ∃ t, exec (.stIndexed z o sc d a b) s = .next t ∧
          Starts (s2.publish o sc) t none .store [mkPart addr l n (v.toNat % 2 ^ (8 * n))] o sc ∧ SameBytes s2 t)

/-- An access that fails a check traps before any effect, for LD and ST alike (13 R170, R171; 15 R193, R194, Table 15.3): a set
reserved bit gives cause 0x06 with reason 6, and else a misaligned address reason 4, with the address in EADDR; a store of user
mode to the low 16 KiB of the home polder reason 2; a local window that is not there cause 0x04 with its number; and a global
address whose region of the domain's list denies the right reason 2. -/
def Obligations.AccessesTrap : Prop :=
  ∀ (s s1 : State) (z : LdSize) (y : StSize) (o : Sys2Proof.Ordering) (sc : Scope) (d a : Reg) (x v : Word), s.running →
    let stop (cause : Nat) (einfo : Nat) : Host.Outcome State Fault Refusal :=
      .next (s.trapNow cause (if s.issue.second then 1 else 0) s.issue.pc x (w64 einfo))
    let local_ := x.getLsbD 63
    let w := x.toNat / 2 ^ 16 % 64
    let n := LdSize.bytes z
    let m := StSize.bytes y
    let reserved := if local_ then x.toNat / 2 ^ 22 % 2 ^ 41 ≠ 0 else x.toNat / 2 ^ 56 ≠ 0
    (Reads1 s a x s1 →
      (reserved → exec (.ld z o sc d a 0) s = stop 0x06 0x16) ∧
      (¬ reserved → x.toNat % n ≠ 0 → exec (.ld z o sc d a 0) s = stop 0x06 0x14) ∧
      (¬ reserved → local_ = true → w ≠ 0 → x.toNat % n = 0 → tget (s1.core s1.cur).windows w = none →
        exec (.ld z o sc d a 0) s = stop 0x04 w) ∧
      (¬ reserved → local_ = false → x.toNat % n = 0 → ∀ e : PlbEntry,
        (s1.core s1.cur).plbFind s1.src.dom x.toNat = some e → e.s = false → e.r = false →
          exec (.ld z o sc d a 0) s = stop 0x06 0x12)) ∧
    (Reads2 s d a v x s1 →
      (reserved → exec (.st y .rlx sc d a 0) s = stop 0x06 0x26) ∧
      (¬ reserved → x.toNat % m ≠ 0 → exec (.st y .rlx sc d a 0) s = stop 0x06 0x24) ∧
      (¬ reserved → local_ = true → w = 0 → x.toNat % m = 0 → x.toNat % 65536 < 0x4000 → s1.src.sup = false →
        exec (.st y .rlx sc d a 0) s = stop 0x06 0x22) ∧
      (¬ reserved → local_ = false → x.toNat % m = 0 → ∀ e : PlbEntry,
        (s1.core s1.cur).plbFind s1.src.dom x.toNat = some e → (e.s = true → s1.src.sup = true) → e.w = false →
          exec (.st y .rlx sc d a 0) s = stop 0x06 0x22))

/-- LOAD_REPLY performs a part of a load and fills the register (15 R199, R218, R219): with the value read, extended, or with poison where
the access failed, whose record keeps the address and the kind; a load of a polder reads its bytes there, the lowest address in the lowest
bits, where no store of the core is on its way; a load whose thread ends fills no register (09 R123). STORE_PERFORMED writes exactly the
store's bytes, likewise (15 R201, R207): in a polder; at an owned L1 line's physical address; or where the translation places them, for
lines without revisions. A store whose translation fails writes nothing and is held by its slot. -/
def Obligations.LoadsArriveAndStoresArePerformed : Prop :=
  (∀ (s s0 s1 : State) (f : Flight) (p : Part) (r : Reg) (sg : Bool) (u1 : Thread) (res : Except Nat Nat),
     s.flight? f.id = some f → f.kind = .load (.g r.val sg) → f.parts = [p] → s.mayPerform f 0 = true → r ≠ 0 →
     s.latchBefore f = some s0 → s0.takePart f p = (res, s1) → s1.thread? f.party = some u1 → u1.ctx = f.ctx →
     u1.g[r] = .empty f.id →
       (s1.discards f = true → ∃ t, exec (.loadReply f.id 0) s = .next t ∧ t.threads = s1.threads ∧ SameBytes s1 t) ∧
       (u1.quitting = false → ∃ t : State, ∃ v : Thread, exec (.loadReply f.id 0) s = .next t ∧ t.thread? f.party = some v ∧
         { v with g := u1.g } = u1 ∧ (∀ q : Reg, q ≠ r → v.g[q] = u1.g[q]) ∧ SameBytes s1 t ∧ SameOthers f.party s1 t ∧
         t.flight? f.id = none ∧
         (∀ w, res = .ok w → v.g[r] = .val (if sg then BitVec.ofInt 64 (signedOf (8 * p.size) w) else w64 w)) ∧
         (∀ k, res = .error k → ∃ c : Replay, v.g[r] = .poison c ∧ c.addr = p.addr ∧ c.kind = k ∧ c.seq = f.id ∧
           c.again = true) ∧
         (∀ i, p.loc = .sram i → poisonIn s.sramPoison i p.size = false → s.pendingStores f = [] →
           s0 = s → f.id ∉ s.latched → s1 = s ∧
           ∃ w, res = .ok w ∧ w < 2 ^ (8 * p.size) ∧ ∀ j < p.size, w / 2 ^ (8 * j) % 256 = (Memory.read s.sram (i + j)).toNat) ∧
         ((∀ e ∈ s.flights, orderBefore e f = false ∨ e.narrow = false) → s0 = s) ∧
         (f.id ∉ s0.latched → s0.readPart f p = (res, s1)) ∧ (f.id ∈ s0.latched → res = .ok p.data))) ∧
  (∀ (s : State) (f : Flight) (p : Part), s.flight? f.id = some f → f.kind = .store → f.parts = [p] →
     s.mayPerform f 0 = true →
       let written (m0 m1 : Memory) (i : Nat) : Prop :=
         (∀ j < p.size, (Memory.read m1 (i + j)).toNat = p.data / 2 ^ (8 * j) % 256) ∧
           ∀ a, (a < i ∨ i + p.size ≤ a) → Memory.read m1 a = Memory.read m0 a
       (∀ i, p.loc = .sram i → ∃ t, exec (.storePerformed f.id 0) s = .next t ∧ written s.sram t.sram i ∧ t.mem = s.mem ∧
         t.wmem = s.wmem ∧ t.threads = s.threads ∧ t.flight? f.id = none) ∧
       (∀ va, p.loc = .va va → s.revs = [] → (s.thread f.party).held = [] →
         (∀ l, (s.core f.party).l1Find va f.dom f.rev = some l → l.owned = true → p.wide = false → va / 64 = (va + p.size - 1) / 64 →
           s.revisioned f.dom va l.revd 0 = false →
           ∃ t, exec (.storePerformed f.id 0) s = .next t ∧ written s.mem t.mem (l.pa * 64 + va % 64) ∧ t.sram = s.sram) ∧
         ((s.core f.party).l1Find va f.dom f.rev = none ∨ p.wide = true →
           (∀ x s1, s.translate (Party.clusterKey f.party) va f.rev true (s.launchOf f.party) = (.ok x, s1) →
             s.revisioned f.dom va x.revd x.attr = false →
             ∃ t, exec (.storePerformed f.id 0) s = .next t ∧ written s1.mem t.mem x.pa ∧ t.sram = s.sram) ∧
           (∀ k s1 u, s.translate (Party.clusterKey f.party) va f.rev true (s.launchOf f.party) = (.error k, s1) →
             s.thread? f.party = some u → u.ctx = f.ctx →
             ∃ t v h, exec (.storePerformed f.id 0) s = .next t ∧ SameBytes s t ∧ t.thread? f.party = some v ∧
               v.held.head? = some h ∧ h.kind = k ∧ h.seq = f.id))))

/-- Rows and gathers issue (15 R217, R220 to R222; 11 R134). With a tile bound, LDV starts the load of 128 bytes at ga + 128 × gb and STV
their store; LDVFF loads the lanes before the first that fails protection, with q1 empty until they arrive, and traps where lane 0 fails;
a row that it may fill in part keeps its poison to return to (11 R132); LDVG and STVS take for lane i the address ga + lane i of vb,
signed, times the element's bytes. The row that a load fills is empty until then; no byte changes. L1MISS counts a miss once for each
line, which is the model's reading (log 14); that STVS reads vd before vb, where both name bound streams, is its choice (log 48). -/
def Obligations.RowsIssue : Prop :=
  ∀ (s s1 s2 s3 : State) (sc : Scope) (d a b : Reg) (x y : Word) (v idx : Row) (k : Fin 8) (l : Loc) (fp : Nat)
    (ls : List (Nat × Loc)), s.running →
    let addr := (x + y * 128).toNat
    let e := Fmt.bits (s.srcTiles[k]).typ
    let waits (u t : State) : Prop :=
      (vget (vget (t.core s.cur).tiles k.val Tile.reset).rows d.val ⟨0, .full⟩).fill = .empty u.nextOp ∧ SameBytes u t ∧
        t.me.g = u.me.g
    let parts16 (u : State) : List Part := (List.range 8).map (fun i => u.loadPart (addr + 16 * i) (l.plus (16 * i)) 16)
    let lanesOf (u : State) : List Part := ls.map (fun q => u.loadPart q.1 q.2 (e / 8))
    let laneAt (i : Nat) : Nat :=
      (((x.toNat : Int) + signedOf e (idx.toNat / 2 ^ (e * i)) * ((e / 8 : Nat) : Int)) % (2 ^ 64 : Int)).toNat
    let miss (u : State) (ps : List Part) : State := u.addEv (Party.coreKey u.cur) evL1miss (missCount ps)
    (s.src.tile = some k → Reads2 s a b x y s1 →
      (s1.checkAccess addr 128 16 needR = .ok (l, s2) → s2.checkWeir addr l 128 false = .ok () →
        s2.checkRowDest k d = .ok () → ∃ t, exec (.ldv sc d a b) s = .next t ∧ waits s2 t ∧
          Starts ((miss s2 (parts16 s2)).emptyRow k d.val) t none (.load (.row k.val d.val)) (parts16 s2) .rlx sc) ∧
      (addr % 16 = 0 → s1.firstFailing addr (e / 8) s1.lanes 0 = .ok fp → 0 < fp →
        (∀ i < fp, ∃ r, s1.checkAccess (addr + i * (e / 8)) (e / 8) 1 needR = .ok r) ∧
        (s1.checkAccess addr (fp * (e / 8)) 1 needR = .ok (l, s2) → s2.checkWeir addr l (fp * (e / 8)) false = .ok () →
          s2.checkRowDest k d = .ok () → s2.checkDestQ 1 = .ok () → ∃ t f keep, exec (.ldvff sc d a b) s = .next t ∧
            waits s2 t ∧ t.issue.last = .done ∧ t.me.q[(1 : Reg8)] = .empty s2.nextOp ∧ t.flights = s2.flights ++ [f] ∧
            f.kind = .load (.first k.val d.val e keep) ∧
            (∀ r, keep = some r ↔ (s2.rowOf (Party.coreKey s2.cur) k.val d.val).fill = .poison r) ∧ f.parts.length = fp ∧
            ∀ i < fp, (f.parts[i]?).map (fun p => (p.addr, p.loc, p.size)) =
              some (addr + i * (e / 8), l.plus (i * (e / 8)), e / 8))) ∧
      (addr % 16 = 0 → s1.firstFailing addr (e / 8) s1.lanes 0 = .ok 0 → ∀ c ea ei w,
        s1.checkAccess addr 128 16 needR = .error (.trap c ea ei w) →
          exec (.ldvff sc d a b) s = .next (s.trapNow c (w.getD (if s.issue.second then 1 else 0)) s.issue.pc ea ei))) ∧
    (s.src.tile = some k → s.checkPoisonGV [a] [b] = .ok () → s.readG a = .ok (x, s1) → s1.readV b = .ok (idx, s2) →
      checkLanes needR (e / 8) ((List.range s2.lanes).map laneAt) s2 = .ok (ls, s3) → weirLanes (e / 8) false s3 ls = .ok () →
      s3.checkRowDest k d = .ok () → ∃ t, exec (.ldvg sc d a b) s = .next t ∧ waits s3 t ∧
        Starts ((miss s3 (lanesOf s3)).emptyRow k d.val) t none (.load (.lanes k.val d.val e)) (lanesOf s3) .rlx sc) ∧
    (∀ s0, (s.src.tile = some k ∨ (s.aliasStream d).isSome = true) → s.checkPoisonGV [a, b] [d] = .ok () →
      s.readV d = .ok (v, s0) → s0.read2 a b = .ok (x, y, s1) →
      s1.checkAccess addr 128 16 needW = .ok (l, s2) → s2.checkWeir addr l 128 true = .ok () →
      ∃ t, exec (.stv sc d a b) s = .next t ∧ SameBytes s2 t ∧ Starts s2 t none .store ((List.range 8).map (fun i =>
        mkPart (addr + 16 * i) (l.plus (16 * i)) 16 (v.toNat / 2 ^ (128 * i) % 2 ^ 128))) .rlx sc) ∧
    (∀ s0, s.src.tile = some k → s.checkPoisonGV [a] [d, b] = .ok () → s.readV d = .ok (v, s0) → s0.readG a = .ok (x, s1) →
      s1.readV b = .ok (idx, s2) → checkLanes needW (e / 8) ((List.range s2.lanes).map laneAt) s2 = .ok (ls, s3) →
      weirLanes (e / 8) true s3 ls = .ok () → ∃ t ps, exec (.stvs sc d a b) s = .next t ∧ SameBytes s3 t ∧
        Starts s3 t none (.scatter x.toNat idx v) ps .rlx sc ∧ ps.length = ls.length ∧
        ∀ i < ls.length, ∃ q, ls[i]? = some q ∧
          ps[i]? = some (mkPart q.1 q.2 (e / 8) (v.toNat / 2 ^ (e * i) % 2 ^ e)))

/-- Atomics issue and are performed (15 R217, R224). Each word starts one access of its size at ga with read and write rights and
empties gd; ACAS also reads gd, before ga and gb where fields name bound endpoints (the model's choice: log 48). ATOMIC_PERFORM at a polder gives gd the old value, zero-extended, and the bytes the new one; no
other byte changes. -/
def Obligations.AtomicsCompleteAndReturnOld : Prop :=
  (∀ (s s0 s1 s2 s3 : State) (op : AtomOp) (z : AtSize) (o : Sys2Proof.Ordering) (sc : Scope) (d a b : Reg) (x y c : Word) (l : Loc),
    s.running → (o = .rel ∨ o = .ar → s.checkRelease = .ok ()) →
    s.checkPoison (if op = .cas then [d, a, b] else [a, b]) = .ok () →
    (if op = .cas then s.readG d = .ok (c, s0) else c = 0 ∧ s0 = s) →
    s0.readG a = .ok (x, s1) → s1.readG b = .ok (y, s2) →
    let n := if z = .w then 4 else 8
    s2.checkAccess x.toNat n n 3 = .ok (l, s3) → s3.checkWeir x.toNat l n true = .ok () → s3.checkAsync d = .ok () →
      ∃ t, exec (match op with
          | .add => .aadd z o sc d a b
          | .and => .aand z o sc d a b
          | .or => .aor z o sc d a b
          | .xor => .axor z o sc d a b
          | .min => .amin z o sc d a b
          | .max => .amax z o sc d a b
          | .minu => .aminu z o sc d a b
          | .maxu => .amaxu z o sc d a b
          | .swp => .aswp z o sc d a b
          | .cas => .acas z o sc d a b
          | .fadd => .afadd z o sc d a b) s = .next t ∧
        Starts (s3.publish o sc) t (some d) (.atomic op y.toNat c.toNat d.val) [mkPart x.toNat l n 0] o sc ∧ SameBytes s3 t) ∧
  (∀ (s : State) (f : Flight) (op : AtomOp) (x c : Nat) (d : Reg) (p : Part) (i : Nat) (u : Thread),
    s.flight? f.id = some f → f.kind = .atomic op x c d.val → f.parts = [p] → p.loc = .sram i → (p.size = 4 ∨ p.size = 8) →
    s.mayPerform f 0 = true → poisonIn s.sramPoison i p.size = false → s.thread? f.party = some u → u.ctx = f.ctx →
    (d ≠ 0 → u.g[d] = .empty f.id) →
      let k := 8 * p.size
      let old := s.readSram i p.size
      let y := x % 2 ^ k
      ∃ t : State, ∃ v : Thread, ∃ new : Nat, exec (.atomicPerform f.id) s = .next t ∧ t.thread? f.party = some v ∧
        (d ≠ 0 → v.g[d] = .val (w64 old)) ∧ (∀ r : Reg, r ≠ d → v.g[r] = u.g[r]) ∧ t.readSram i p.size = new ∧
        (∀ a, (a < i ∨ i + p.size ≤ a) → Memory.read t.sram a = Memory.read s.sram a) ∧ t.mem = s.mem ∧
        t.flight? f.id = none ∧
        (match op with
          | .add => new = (old + y) % 2 ^ k
          | .and => new = Nat.land old y
          | .or => new = Nat.lor old y
          | .xor => new = Nat.xor old y
          | .min => new = old ∧ signedOf k old ≤ signedOf k y ∨ new = y ∧ signedOf k y ≤ signedOf k old
          | .max => new = old ∧ signedOf k y ≤ signedOf k old ∨ new = y ∧ signedOf k old ≤ signedOf k y
          | .minu => new = Min.min old y
          | .maxu => new = Max.max old y
          | .swp => new = y
          | .cas => new = if old = c % 2 ^ k then y else old
          | .fadd =>
            let sh := if p.size = 4 then FpShape.fp32 else FpShape.fp64
            new = (sh.add .rne 0 (sh.read old) (sh.read y)).1 % 2 ^ k))

/-- FENCE orders no bytes itself: of a scope within the core, or where every access of its kinds that the context issued earlier
has returned, it completes and only the pc changes, if the context holds no poisoned register and no held store; else it parks
before it issues until they have (15 R200; 17 R241). PREF of a local or reserved address only goes on; one that passes brings its COH
line into the core's L1, owned for the hint own, and writes no register (15 R223). -/
def Obligations.FencesAndPrefetches : Prop :=
  ∀ (s s1 : State) (k : FenceKind) (h : PrefHint) (sc : Scope) (a b : Reg) (x y : Word), s.running →
    let done := s.earlierDone s.src.ctx s.nextOp (decide (k ≠ .rel)) (decide (k ≠ .acq))
    ((sc = .slot ∨ sc = .core ∨ done = true) → s.src.oldestPoison = none → exec (.fence k sc) s = .next s.commit) ∧
    (sc ≠ .slot → sc ≠ .core → done = false →
      exec (.fence k sc) s = .next (s.parkBefore (.earlier (decide (k ≠ .rel)) (decide (k ≠ .acq)) s.nextOp))) ∧
    (Reads2 s a b x y s1 →
      let addr := (x + y).toNat
      (2 ^ 56 ≤ addr → exec (.pref h sc a b) s = .next s1.commit) ∧
      (addr < 2 ^ 56 → ∃ t, exec (.pref h sc a b) s = .next t ∧ t.issue.last = .done ∧ t.sram = s1.sram ∧
        t.flights = s1.flights ∧ t.me.g = s1.me.g ∧ t.me.pc = s1.issue.next ∧
        ∀ used p s2, s1.rights (Party.coreKey s1.cur) s1.src.dom s1.src.sup needR 260 addr (addr + 1) [] = .ok used →
          (s1.usePlb (Party.coreKey s1.cur) used).translate (Party.clusterKey s1.cur) addr s1.src.revNo false
            ((s1.usePlb (Party.coreKey s1.cur) used).launchOf s1.cur) = (.ok p, s2) →
          p.attr = 0 → h ≠ .l2 → ∃ line, (t.core s1.cur).l1Find addr s1.src.dom s1.src.revNo = some line ∧
            line.valid = 0xFFFF ∧ (h = .own → line.owned = true)))

/-! ### Vector words -/

/-- The vector words of two rows complete lane by lane (11 R139 to R145; 07 R84): with a tile bound whose type suits the word, the
first Min(Count(q), L) lanes of vd receive the operation on the lanes of va and vb, in the tile's format; rounding draws once for
each lane in mode .sr; the other lanes keep their values. VMIN, VMAX and VCMP compare as FloatOtherResults says. That a row which was
poisoned stays poisoned after a partial write is the model's choice (log 109). -/
def Obligations.VectorTwoSourceResults : Prop :=
  ∀ (s s1 : State) (m : Rounding) (c : Sat) (q : Reg8) (d a b : Reg) (x y : Row) (k : Fin 8) (nq : Nat), s.running →
    s.src.tile = some k → s.readQ q = .ok nq → ReadsV s [a, b] [x, y] s1 → s1.checkDestV d = .ok () →
    let typ := (s.srcTiles[k]).typ
    let e := Fmt.bits typ
    let n := Min.min nq (1024 / e)
    let r (i : Nat) : Nat := if m = .sr then Nat.repeat stepSeed (i + 1) (s1.me.seed.toNat % 2 ^ 32) else 0
    let X (i : Nat) : Nat := lane e x i
    let Y (i : Nat) : Nat := lane e y i
    let Xs (i : Nat) : Int := signedOf e (X i)
    let Ys (i : Nat) : Int := signedOf e (Y i)
    let gives (i : Instr) (spc : Nat) (f : Nat → Nat × Counts) : Prop :=
      ∃ t, exec i s = .next t ∧ VectorLeaves s1 t k d e n f spc
    (∀ sh, typ.shape = some sh →
      (c = .wrap →
        gives (.vadd m c q d a b) 2 (fun i => sh.add m (r i) (sh.read (X i)) (sh.read (Y i))) ∧
        gives (.vsub m c q d a b) 2 (fun i => sh.sub m (r i) (sh.read (X i)) (sh.read (Y i))) ∧
        gives (.vmul m c q d a b) 2 (fun i => sh.mul m (r i) (sh.read (X i)) (sh.read (Y i)))) ∧
      gives (.vdiv m q d a b) 16 (fun i => sh.div m (r i) (sh.read (X i)) (sh.read (Y i))) ∧
      gives (.vmin q d a b) 2 (fun i => sh.minMax false (X i) (Y i)) ∧
      gives (.vmax q d a b) 2 (fun i => sh.minMax true (X i) (Y i)) ∧
      (∀ cc, cc ≠ .ltu → cc ≠ .leu → ∃ g : Nat → Bool × Counts,
        gives (.vcmp cc q d a b) 2 (fun i => (if (g i).1 then 2 ^ e - 1 else 0, (g i).2)) ∧
        ∀ i,
          ((sh.read (X i)).isNan = false → (sh.read (Y i)).isNan = false → (g i).2 = [] ∧
            ((g i).1 = match cc with
              | .eq => (sh.read (X i)).eqv (sh.read (Y i))
              | .ne => !(sh.read (X i)).eqv (sh.read (Y i))
              | .lt => (sh.read (X i)).lt (sh.read (Y i))
              | .le => (sh.read (X i)).lt (sh.read (Y i)) || (sh.read (X i)).eqv (sh.read (Y i))
              | _ => false)) ∧
          (((sh.read (X i)).isNan || (sh.read (Y i)).isNan) = true → ((g i).1 = true ↔ cc = .ne ∨ cc = .un) ∧
            (cc = .lt ∨ cc = .le → (g i).2 = [evInvalid])))) ∧
    (typ.shape = none →
      (m = .rne →
        gives (.vadd m c q d a b) 2 (fun i => intResult e c (Xs i + Ys i)) ∧
        gives (.vsub m c q d a b) 2 (fun i => intResult e c (Xs i - Ys i)) ∧
        gives (.vmul m c q d a b) 2 (fun i => intResult e c (Xs i * Ys i)) ∧
        (c = .wrap → gives (.vmulh m c q d a b) 4 (fun i => (wrapTo e (Xs i * Ys i / 2 ^ e), [])))) ∧
      gives (.vmin q d a b) 2 (fun i => (if Ys i < Xs i then Y i else X i, [])) ∧
      gives (.vmax q d a b) 2 (fun i => (if Xs i < Ys i then Y i else X i, [])) ∧
      gives (.vshl c q d a b) 2 (fun i => intResult e c (Xs i * 2 ^ (Y i % 64))) ∧
      gives (.vshr q d a b) 2 (fun i => (X i / 2 ^ (Y i % 64), [])) ∧
      gives (.vsar q d a b) 2 (fun i => (wrapTo e (Xs i / 2 ^ (Y i % 64)), [])) ∧
      (∀ cc, cc ≠ .un → gives (.vcmp cc q d a b) 2 (fun i => (if (match cc with
        | .eq => decide (X i = Y i)
        | .ne => decide (X i ≠ Y i)
        | .lt => decide (Xs i < Ys i)
        | .le => decide (Xs i ≤ Ys i)
        | .ltu => decide (X i < Y i)
        | .leu => decide (X i ≤ Y i)
        | .un => false) then 2 ^ e - 1 else 0, [])))) ∧
    gives (.vand q d a b) 2 (fun i => (X i &&& Y i, [])) ∧ gives (.vor q d a b) 2 (fun i => (X i ||| Y i, [])) ∧
    gives (.vxor q d a b) 2 (fun i => (X i ^^^ Y i, []))

/-- The vector words of one or three rows complete lane by lane (11 R139 to R146; 07 R84 to R89): VABS and VNEG, the functions of
floating-point tiles, VMOV, the selections VSEL and VCLAMP, and VFMA. VRCP, VRSQ, VEXP2 and VLOG2 round once the reciprocal, the
reciprocal root, 2^x and log2 of x, with the special operands of 11 R142. That VFMA reads vd before the others is the model's choice
(log 48), that a row which was poisoned stays so after a partial write as well (log 109); the series of VEXP2 and VLOG2 are log 26. -/
def Obligations.VectorOneAndThreeSourceResults : Prop :=
  (∀ sh ∈ [FpShape.fp32, FpShape.fp16, FpShape.bf16], ∀ (m : Rounding) (draw : Nat), FunctionsRoundOnce sh m draw) ∧
  ∀ (s s1 : State) (m : Rounding) (c : Sat) (q : Reg8) (d a b b3 : Reg) (x y z : Row) (k : Fin 8) (nq : Nat), s.running →
    s.src.tile = some k → s.readQ q = .ok nq → s1.checkDestV d = .ok () →
    let typ := (s.srcTiles[k]).typ
    let e := Fmt.bits typ
    let n := Min.min nq (1024 / e)
    let r (i : Nat) : Nat := if m = .sr then Nat.repeat stepSeed (i + 1) (s1.me.seed.toNat % 2 ^ 32) else 0
    let X (i : Nat) : Nat := lane e x i
    let Y (i : Nat) : Nat := lane e y i
    let Z (i : Nat) : Nat := lane e z i
    let gives (i : Instr) (spc : Nat) (f : Nat → Nat × Counts) : Prop :=
      ∃ t, exec i s = .next t ∧ VectorLeaves s1 t k d e n f spc
    (ReadsV s [a] [x] s1 →
      gives (.vmov q d a) 2 (fun i => (X i, [])) ∧
      (∀ sh, typ.shape = some sh →
        (c = .wrap → gives (.vabs c q d a) 2 (fun i => (X i % 2 ^ (e - 1), [])) ∧
          gives (.vneg c q d a) 2 (fun i => ((X i + 2 ^ (e - 1)) % 2 ^ e, []))) ∧
        gives (.vsqrt m q d a) 16 (fun i => sh.sqrt m (r i) (sh.read (X i))) ∧
        gives (.vrcp m q d a) 8 (fun i => sh.rcp m (r i) (sh.read (X i))) ∧
        gives (.vrsq m q d a) 8 (fun i => sh.rsqrt m (r i) (sh.read (X i))) ∧
        gives (.vexp2 m q d a) 8 (fun i => sh.exp2 m (r i) (sh.read (X i))) ∧
        gives (.vlog2 m q d a) 8 (fun i => sh.log2 m (r i) (sh.read (X i)))) ∧
      (typ.shape = none →
        gives (.vabs c q d a) 2 (fun i => intResult e c ((signedOf e (X i)).natAbs : Int)) ∧
        gives (.vneg c q d a) 2 (fun i => intResult e c (-signedOf e (X i))))) ∧
    (ReadsV s [a, b, b3] [x, y, z] s1 →
      gives (.vsel q d a b b3) 2 (fun i => (if Z i ≠ 0 then X i else Y i, [])) ∧
      (typ.shape = none → gives (.vclamp q d a b b3) 2 (fun i =>
        let u := if signedOf e (X i) < signedOf e (Y i) then Y i else X i
        (if signedOf e (Z i) < signedOf e u then Z i else u, []))) ∧
      (∀ sh, typ.shape = some sh → gives (.vclamp q d a b b3) 2 (fun i =>
        ((sh.minMax false (sh.minMax true (X i) (Y i)).1 (Z i)).1,
          (sh.minMax true (X i) (Y i)).2 ++ (sh.minMax false (sh.minMax true (X i) (Y i)).1 (Z i)).2)))) ∧
    (ReadsV s [d, a, b] [z, x, y] s1 →
      (∀ sh, typ.shape = some sh →
        gives (.vfma m q d a b) 4 (fun i => sh.fma m (r i) (sh.read (X i)) (sh.read (Y i)) (sh.read (Z i)))) ∧
      (typ.shape = none → m = .rne → gives (.vfma m q d a b) 4 (fun i =>
        (wrapTo e (signedOf e (X i) * signedOf e (Y i) + signedOf e (Z i)), []))))

/-- Moves and permutes (11 R146, R147): VBCAST, VIOTA, VEXTR to a g register, VINS into one lane; VPERM picks lanes by the lanes of
vb modulo L; VCOMP gathers the lanes of va whose lane of vb is not 0 and fills up with zeros; VEXPAND spreads them. VINS into a bound
stream pushes a row that has the lane (19 R254). That a row which was poisoned stays poisoned after a partial write is the model's
choice (log 109). -/
def Obligations.VectorMovesAndPermutes : Prop :=
  ∀ (s s0 s1 : State) (q : Reg8) (d a b : Reg) (x y : Row) (w u : Word) (k : Fin 8) (nq : Nat), s.running →
    s.src.tile = some k → s.readQ q = .ok nq →
    let typ := (s.srcTiles[k]).typ
    let e := Fmt.bits typ
    let L := 1024 / e
    let n := Min.min nq L
    let X (i : Nat) : Nat := lane e x i
    let Y (i : Nat) : Nat := lane e y i
    let gives (i : Instr) (spc : Nat) (f : Nat → Nat) : Prop :=
      ∃ t, exec i s = .next t ∧ VectorLeaves s1 t k d e n (fun i => (f i, [])) spc
    (Reads1 s a w s1 → s1.checkDestV d = .ok () → gives (.vbcast q d a) 2 (fun _ => w.toNat)) ∧
    (s1 = s → s.checkDestV d = .ok () → gives (.viota q d) 2 (fun i =>
      match typ.shape with
      | some sh => (sh.deliver .rne 0 false (Exact.ofInt i 0)).1
      | none => i)) ∧
    (s.checkPoisonGV [b] [a] = .ok () → s.readV a = .ok (x, s0) → s0.readG b = .ok (w, s1) → s1.checkDest d = .ok () →
      let i := w.toNat % L
      exec (.vextr q d a b) s = .next (s1.writeG d (if i < n then
        (if typ.shape.isSome then w64 (X i) else BitVec.ofInt 64 (signedOf e (X i))) else 0)).commit) ∧
    (Reads2 s a b w u s1 → s1.checkDestV d = .ok () →
      let i := u.toNat % L
      let ck := Party.coreKey s.cur
      ∃ t, exec (.vins q d a b) s = .next t ∧ t.issue.last = .done ∧ t.me.g = s1.me.g ∧ t.mem = s1.mem ∧
        (s1.aliasStream d = none → SameBytes s1 t ∧ ∀ j < L, lane e (t.rowOf ck k.val d.val).data j =
          if j = i ∧ i < n then w.toNat % 2 ^ e else lane e (vget (s.srcTiles[k]).rows d.val ⟨0, .full⟩).data j) ∧
        (∀ j st st1, s1.aliasStream d = some (j, st) → s1.me.stream? j = some st1 → ∃ st2 : Stream, t.me.stream? j = some st2 ∧
          st2.moved = st1.moved + 1 ∧ st2.filled = st1.filled ∧ ∃ v : Row, t.readSram (st1.rowByte st1.moved) 128 = v.toNat ∧
            (i < n → lane e v i = w.toNat % 2 ^ e))) ∧
    (ReadsV s [a, b] [x, y] s1 → s1.checkDestV d = .ok () →
      let chosen := (List.range n).filter (fun i => decide (Y i ≠ 0))
      gives (.vperm q d a b) 4 (fun i => X (Y i % L)) ∧
      gives (.vcomp q d a b) 4 (fun i => (chosen.map X).getD i 0) ∧
      gives (.vexpand q d a b) 4 (fun i =>
        if Y i ≠ 0 then X ((List.range i).filter (fun j => decide (Y j ≠ 0))).length else 0))

/-- Reductions, conversion, sorting and histograms complete (11 R148 to R150; 07 R84, R86, R92). VREDSUM adds the active lanes modulo
2^e, or in floating point by the pairwise tree, +0 where none is active, with a draw for each addition in mode .sr; VREDMAX and
VREDMIN give a greatest and a least active lane with −0 below +0, or the first NaN where a lane signals or all are NaN, with INVALID
once for each signalling lane, and write nothing where no lane is active; VCVT converts and packs the first lanes that fit, with a
draw for each in mode .sr; VSORT and VHIST need FEAT bit 3, and VSORT leaves the active lanes in ascending
order, by the totalOrder of IEEE 754 in floating point, equal keys in lane order. VECTOR_ROW_FILL makes the row of a vector word
readable once its time has come, and not before (11 R132, R141). The draws of VREDSUM are log 24's reading; VHIST reading vd first is
log 48, and a poisoned row that stays so after a partial write log 109: the model's choices. -/
def Obligations.VectorReductionsAndFills : Prop :=
  (∀ (s s1 : State) (m : Rounding) (c : Sat) (q : Reg8) (d a : Reg) (x z : Row) (k : Fin 8) (nq : Nat) (g : Fmt), s.running →
     s.src.tile = some k → s.readQ q = .ok nq → s1.checkDestV d = .ok () →
     let typ := (s.srcTiles[k]).typ
     let e := Fmt.bits typ
     let L := 1024 / e
     let n := Min.min nq L
     let seed := s1.me.seed.toNat % 2 ^ 32
     let draw (i : Nat) : Nat := if m = .sr then Nat.repeat stepSeed (i + 1) seed else 0
     let X (i : Nat) : Nat := lane e x i
     let lane0 (i : Instr) (v : Nat) (evs : Counts) : Prop :=
       ∃ t, exec i s = .next t ∧ VectorLeaves s1 t k d e 1 (fun _ => (v, evs)) 8
     let key (v : Nat) : Int :=
       if typ.shape.isSome then (if v.testBit (e - 1) then -((v % 2 ^ (e - 1) : Nat) : Int) - 1 else ((v % 2 ^ (e - 1) : Nat) : Int))
       else signedOf e v
     let feat := (Config.feat s.cur.die).testBit 3
     (ReadsV s [a] [x] s1 →
       (typ.shape = none → m = .rne → lane0 (.vredsum m q d a) (((List.range n).map X).sum % 2 ^ e) []) ∧
       (∀ sh, typ.shape = some sh → ∃ t v evs adds, exec (.vredsum m q d a) s = .next t ∧
         VectorLeaves s1 t k d e 1 (fun _ => (v, evs)) 8 ∧
         SumTree (fun i u w => sh.add m (draw i) (sh.read u) (sh.read w)) (fun i => if i < n then some (X i) else none)
           (Nat.log2 L) v evs adds ∧
         t.me.seed = if m = .sr then w64 (Nat.repeat stepSeed adds seed) else s1.me.seed) ∧
       (n = 0 → exec (.vredmax q d a) s = .next s1.commit ∧ exec (.vredmin q d a) s = .next s1.commit) ∧
       (0 < n →
         (typ.shape = none →
           (∃ i < n, lane0 (.vredmax q d a) (X i) [] ∧ ∀ j < n, signedOf e (X j) ≤ signedOf e (X i)) ∧
           (∃ i < n, lane0 (.vredmin q d a) (X i) [] ∧ ∀ j < n, signedOf e (X i) ≤ signedOf e (X j))) ∧
         (∀ sh, typ.shape = some sh →
           let R (i : Nat) : FpVal := sh.read (X i)
           let below (i j : Nat) : Prop := (R i).lt (R j) = true ∨
             ((R i).isZero = true ∧ (R j).isZero = true ∧ (R i).neg = true ∧ (R j).neg = false)
           let bad := List.replicate ((List.range n).filter (fun i => (R i).isSignalling)).length evInvalid
           let nan := (∃ i < n, (R i).isSignalling = true) ∨ ∀ i < n, (R i).isNan = true
           (nan → ∃ i < n, (R i).isNan = true ∧ (∀ j < i, (R j).isNan = false) ∧
             lane0 (.vredmax q d a) (sh.writeNan (R i)) bad ∧ lane0 (.vredmin q d a) (sh.writeNan (R i)) bad) ∧
           (¬ nan →
             (∃ i < n, (R i).isNan = false ∧ lane0 (.vredmax q d a) (X i) bad ∧ ∀ j < n, ¬ below i j) ∧
             (∃ i < n, (R i).isNan = false ∧ lane0 (.vredmin q d a) (X i) bad ∧ ∀ j < n, ¬ below j i)))) ∧
       (let kk := Min.min n (1024 / Fmt.bits g)
        ∃ t, exec (.vcvt m c q d a g) s = .next t ∧
         VectorLeaves s1 t k d (Fmt.bits g) kk (fun i => convert typ g m c (draw i) (X i)) 4 ∧
         t.me.seed = if m = .sr then w64 (Nat.repeat stepSeed kk seed) else s1.me.seed) ∧
       (feat = true → ∃ σ : Nat → Nat, (∀ i < n, σ i < n) ∧
         (∀ i j, i < j → j < n → key (X (σ i)) < key (X (σ j)) ∨ (key (X (σ i)) = key (X (σ j)) ∧ σ i < σ j)) ∧
         ∃ t, exec (.vsort q d a) s = .next t ∧ VectorLeaves s1 t k d e n (fun i => (X (σ i), [])) 12) ∧
       (feat = false → exec (.vsort q d a) s = .next (s.trapNow 0x09 (if s.issue.second then 1 else 0) s.issue.pc 0 8))) ∧
     (ReadsV s [d, a] [z, x] s1 → typ.shape = none → feat = true → ∃ t, exec (.vhist q d a) s = .next t ∧
       VectorLeaves s1 t k d e L (fun j =>
         (lane e z j + ((List.range n).filter (fun i => decide (X i = j))).length, [])) 8) ∧
     (feat = false → exec (.vhist q d a) s = .next (s.trapNow 0x09 (if s.issue.second then 1 else 0) s.issue.pc 0 8))) ∧
  (∀ (s : State) (f : Flight) (ck k r at_ : Nat), s.flight? f.id = some f → f.kind = .vfill ck k r at_ → k < 8 → r < 32 →
     (s.clock f.party.die < at_ → exec (.vectorRowFill f.id) s = .next s) ∧
     (at_ ≤ s.clock f.party.die → ∃ t, exec (.vectorRowFill f.id) s = .next t ∧ t.flight? f.id = none ∧ SameBytes s t ∧
       t.threads = s.threads ∧
       (t.rowOf ck k r).data = (s.rowOf ck k r).data ∧ ((s.rowOf ck k r).fill = .empty f.id → (t.rowOf ck k r).fill = .full) ∧
       ∀ j q, j < 8 → q < 32 → (j ≠ k ∨ q ≠ r) → t.rowOf ck j q = s.rowOf ck j q))


/-! ### Tiles and the matrix unit -/

/-- MZERO, ACFG and ABIND (11 R131, R132, R134, R164). On a tile that is untagged or tagged with the context's domain, MZERO makes
every bit 0, ACFG also sets the type, and ABIND binds it, while a form without a tile unbinds; a row that is to be filled parks
MZERO and ACFG, and a tile of another domain traps with cause 0x06 and the tile in EINFO. -/
def Obligations.TilesSetAndBound : Prop :=
  ∀ (s : State) (t : Reg8) (f : Fmt), s.running →
    let x := (s.core s.cur).tiles[t]
    let ck := Party.coreKey s.cur
    let mine := x.tag = none ∨ x.tag = some s.src.dom
    let full := ∀ r < 32, ∀ op, (s.rowOf ck t.val r).fill ≠ .empty op
    let others (u : State) : Prop := SameBytes s u ∧ SameOthers s.cur s u ∧ u.me.g = s.me.g ∧ u.issue.last = .done ∧
      ∀ k : Reg8, k ≠ t → (u.coreAt ck).tiles[k] = (s.coreAt ck).tiles[k]
    let clear (u : State) (g : Fmt) : Prop := (u.coreAt ck).tiles[t].typ = g ∧
      (u.coreAt ck).tiles[t].tag = some s.src.dom ∧ ∀ r < 32, u.rowOf ck t.val r = ⟨0, .full⟩
    (mine → full → ∃ u, exec (.mzero t) s = .next u ∧ others u ∧ clear u x.typ) ∧
    (mine → full → ∃ u, exec (.acfg t f) s = .next u ∧ others u ∧ clear u f) ∧
    (mine → ∃ u, exec (.abind t) s = .next u ∧ others u ∧ u.me.tile = some t ∧
      (u.coreAt ck).tiles[t].tag = some s.src.dom ∧ ∀ r < 32, u.rowOf ck t.val r = s.rowOf ck t.val r) ∧
    (exec .abindNone s = .next (s.setMe { s.me with tile := none }).commit) ∧
    (mine → ¬ full → exec (.mzero t) s = .next (s.parkBefore (.rows t.val)) ∧
      exec (.acfg t f) s = .next (s.parkBefore (.rows t.val))) ∧
    (¬ mine →
      let stop : Host.Outcome State Fault Refusal :=
        .next (s.trapNow 0x06 (if s.issue.second then 1 else 0) s.issue.pc 0 (w64 t.val))
      exec (.mzero t) s = stop ∧ exec (.acfg t f) s = stop ∧ exec (.abind t) s = stop)

/-- The matrix words append a command to the core's queue of four (11 R151, R158 to R163): MMA and MMAS with a window or a stream as A,
where the formats are a pair that the die has and the tile's type suits, no scale code in use is reserved, the B index lies in a slot of
the domain, and the scale addresses may be read; MTRANS, MPERM and MRSUM with a window. A full queue parks each of these words before
it issues. That an MMA, which reads no scales, is appended whatever the scale codes are is the model's reading (log 95). -/
def Obligations.MatrixWordsAppend : Prop :=
  ∀ (s s1 s2 s3 : State) (t k : Reg8) (zero mmas : Bool) (a b : Reg) (ga gb : Word) (l : Loc) (x : Stream) (fa fb need : Fmt)
    (feat n : Nat), s.running → Nat.land (Config.feat s.cur.die) feat = feat → s1.checkTag t.val = .ok () →
    (s1.tileNow t.val).typ = need →
    (∀ r < 32, ∀ op, (s1.rowOf (Party.coreKey s.cur) t.val r).fill = .empty op →
      ∃ m ∈ (s1.core s.cur).mq, m.id = op) →
    let form : MatForm := if mmas then .mmas else .mma
    let word (src : ASrc) : Instr := if mmas then .mmas t zero src b else .mma t zero src b
    let y := gb.toNat
    let slot := s1.wslot s1.cur (y % 16)
    let nb := kOf fa / 32
    let room := (s1.core s.cur).mq.length < 4
    let full := s.parkBefore .matrixQueue
    (s.formPair form = some (fa, fb, need, feat) → scaleCode mmas fa s1.me.fmta.toNat ≠ 3 →
      scaleCode mmas fb s1.me.fmtb.toNat ≠ 3 → y / 2 ^ 48 = 0 → y / 2 ^ 12 % 16 = 0 → (mmas = false → y / 2 ^ 16 = 0) →
      slot.isFree = false → slot.dom = s1.src.dom → tileBytes slot.code fb = some n → (y / 2 ^ 4 % 256 + 1) * n ≤ 131072 →
      s1.checkScales (scaleCode mmas fa s1.me.fmta.toNat) s1.me.scla.toNat (y / 2 ^ 16 % 65536) nb = .ok s2 →
      s2.checkScales (scaleCode mmas fb s2.me.fmtb.toNat) s2.me.sclb.toNat (y / 2 ^ 32 % 65536) nb = .ok s3 →
      (Reads2 s a b ga gb s1 → s1.checkAWindow ga = .ok l →
        (room → ∃ u m, exec (word (.window a)) s = .next u ∧ Appends s3 u m ∧ m.form = form ∧ m.zero = zero ∧ m.tile = t.val ∧
          m.a = some l ∧ m.gb = y ∧ m.code = slot.code ∧ m.aRows = []) ∧
        (¬ room → exec (word (.window a)) s = .next full)) ∧
      (Reads1 s b gb s1 → s1.checkAStream k.val = .ok x → s3.me.stream? k.val = some x →
        (room → ∃ u m z, exec (word (.stream k)) s = .next u ∧ Appends s3 u m ∧ m.form = form ∧ m.zero = zero ∧ m.tile = t.val ∧
          m.a = none ∧ m.gb = y ∧ m.aRows.length = Min.min 32 (x.filled - x.moved) ∧
          u.me.stream? k.val = some z ∧ z.moved = x.moved + 32) ∧
        (¬ room → exec (word (.stream k)) s = .next full))) ∧
    (s.formPair .mrsum = some (fa, fa, need, feat) → s1.checkAWindow ga = .ok l →
      (Reads2 s a b ga gb s1 → y < nb →
        (room → ∃ u m, exec (.mtrans t a b) s = .next u ∧ Appends s1 u m ∧ m.form = .mtrans y ∧ m.tile = t.val ∧ m.a = some l) ∧
        (¬ room → exec (.mtrans t a b) s = .next full)) ∧
      (∀ i, Reads2 s a b ga gb s1 → y / 2 ^ 63 = 1 → y / 2 ^ 22 % 2 ^ 41 = 0 → y % 32 = 0 → s1.checkWindow y = .ok i →
        s1.checkPort (.sram i) 32 false = .ok () → poisonIn s1.sramPoison i 32 = false → s1.pendingStores s1.issueFlight = [] →
        (room → ∃ u m p, exec (.mperm t a b) s = .next u ∧ Appends s1 u m ∧ m.form = .mperm p ∧ m.tile = t.val ∧ m.a = some l ∧
          p.length = 32 ∧ ∀ j < 32, p[j]? = some (Memory.read s1.sram (i + j)).toNat) ∧
        (¬ room → exec (.mperm t a b) s = .next full)) ∧
      (Reads1 s a ga s1 →
        (room → ∃ u m, exec (.mrsum t a) s = .next u ∧ Appends s1 u m ∧ m.form = .mrsum ∧ m.tile = t.val ∧ m.a = some l) ∧
        (¬ room → exec (.mrsum t a) s = .next full)))

/-- The matrix unit (11 R151 to R153, R161, R163, R168). MATRIX_COMMAND_START takes the head command of the core that is next and runs
its blocks in order; where none meets a poisoned granule, the tile's rows hold the accumulator and the command is done with its counts,
and else it is held, and MFAULT and an owed trap 0x0B give the granule. MATRIX_COMMAND_COMPLETE fills the rows of the oldest command
that has run, takes it out of the queue and adds its counts, those of a run before a hold among them; that of a resumed one clears
MFAULT.VALID. A block of an INT8 command adds to each element of the accumulator the sum
of the products of its row of A and its column of B and saturates once (07 R87, R92); a hold takes the zero option off the command,
which, resumed, starts at its block from the accumulator as it stands, so that ZERO is not applied again (11 R168; log 40); MRSUM adds
each element of A once, and MTRANS and MPERM move elements in the blocks that hold them. That a command computes all its blocks at its
start, and its rows fill at its completion, is the model's choice (log 37). -/
def Obligations.MatrixUnitRuns : Prop :=
  ((∀ (s s1 : State) (die cluster j pos left : Nat) (m : MatCmd) (fa fb : Fmt) (r : MatRun) (t : Thread),
     let ck := die * 32 + cluster
     let k := nth (clusterCores ck) j 0
     let p : Party := ⟨k / 256, k % 256, m.slot⟩
     s.nextCore ck = some (j, pos, left) → s.headReady k = some m → m.formats = (fa, fb) → m.tile < 8 →
     (s.setClusterAt ck { s.clusterAt ck with muPos := pos, muLeft := left }).runBlocks p m fa fb
         ((List.range (kOf fa / 32)).filter (fun b => decide (m.block ≤ b)))
         ⟨if m.zero then List.replicate 32 (List.replicate 32 0) else accOf (vget (s.coreAt k).tiles m.tile Tile.reset),
           m.counts, none⟩ = (r, s1) →
     (∀ v, s1.thread? p = some v → v.quitting = false) →
     ∃ u, exec (.matrixCommandStart die cluster) s = .next u ∧ SameBytes s1 u ∧
       (∀ i < 32, ∀ e < 32, lane 32 (u.rowOf k m.tile i).data e = nth (nth r.acc i []) e 0 % 2 ^ 32) ∧
       (∀ i < 32, (u.rowOf k m.tile i).fill = (s1.rowOf k m.tile i).fill) ∧
       (r.hold = none → (k, m.id) ∈ (u.clusterAt ck).muRun ∧
         ∃ c, (u.coreAt k).mq.find? (fun c => c.id == m.id) = some c ∧ c.done = true ∧ c.counts = r.counts) ∧
       (∀ blk h, r.hold = some (blk, h) → s1.thread? p = some t →
         (∃ c, (u.coreAt k).mq.find? (fun c => c.id == m.id) = some c ∧ c.held = true ∧ c.block = blk ∧
           c.done = false ∧ c.zero = false ∧ c.counts = r.counts) ∧
         ∃ v : Thread, u.thread? p = some v ∧ wbit v.mfault 63 = true ∧ wbit v.mfault 62 = true ∧
           v.mfault.toNat % 8 = blk % 8 ∧ v.owed = t.owed ++ [⟨0x0B, w64 h.addr, w64 m.iaddr⟩])) ∧
   (∀ (s : State) (die cluster k id : Nat) (rest : List (Nat × Nat)) (m : MatCmd),
     let ck := die * 32 + cluster
     (s.clusterAt ck).muRun = (k, id) :: rest → (s.coreAt k).mq.find? (fun c => c.id == id) = some m → m.tile < 8 →
     ∃ u, exec (.matrixCommandComplete die cluster) s = .next u ∧ (u.clusterAt ck).muRun = rest ∧
       (u.coreAt k).mq = (s.coreAt k).mq.filter (fun c => c.id != id) ∧ SameBytes s u ∧
       (∀ i : Fin 16, (u.coreAt k).ev[i] = satAdd32 (s.coreAt k).ev[i] (nth m.counts i.val 0)) ∧
       (m.resumed = false → u.threads = s.threads) ∧
       (m.resumed = true → ∀ v, s.thread? ⟨k / 256, k % 256, m.slot⟩ = some v → v.ctx = m.ctx →
         ∃ w : Thread, u.thread? ⟨k / 256, k % 256, m.slot⟩ = some w ∧ wbit w.mfault 63 = false) ∧
       ∀ r < 32, (u.rowOf k m.tile r).data = (s.rowOf k m.tile r).data ∧
         ((s.rowOf k m.tile r).fill = .empty id → (u.rowOf k m.tile r).fill = .full))) ∧
  (∀ (a b : List (List Nat)) (acc : List (List Nat)) (sa sb : Nat → ScaleVal) (blk i j : Nat) (p : List Nat), i < 32 → j < 32 →
     let old := nth (nth acc i []) j 0
     let new (form : MatForm) : Nat := nth (nth (blockStep form .int8 .int8 a b sa sb blk acc).1 i []) j 0
     let clamp (v : Int) : Int := Max.max (-2147483648) (Min.min 2147483647 v)
     let A (r c : Nat) : Int := signedOf 8 (nth (nth a r []) c 0)
     let B (c r : Nat) : Int := signedOf 8 (nth (nth b c []) r 0)
     ((nth a i []).length = 32 → (nth b j []).length = 32 → ∀ form, form = .mma ∨ form = .mmas →
       signedOf 32 (new form) = clamp (signedOf 32 old + ((List.range 32).map (fun k => A i k * B j k)).sum)) ∧
     ((nth a i []).length = 32 →
       signedOf 32 (new .mrsum) = clamp (signedOf 32 old + ((List.range 32).map (fun k => A i k)).sum)) ∧
     (∀ g, signedOf 32 (new (.mtrans g)) = if g = blk then clamp (signedOf 32 old + A j i) else signedOf 32 old) ∧
     (signedOf 32 (new (.mperm p)) =
       if nth p j 0 / 32 = blk then clamp (signedOf 32 old + A i (nth p j 0 % 32)) else signedOf 32 old))

/-- Weight slots (11 R154 to R157; 19 R252). WLOAD registers its range as a source in the weir table, marks the slot as loading for
the domain with one record more, and starts the load; WLOAD_COMPLETE copies exactly the bytes to the slot at the record's offset,
and the slot is loaded when no load into it is left; WFREE frees the slot, whose bytes stay until every command received before it has
read them (that the slot is free at once for what follows WFREE is the model's reading, log 36). -/
def Obligations.WeightSlots : Prop :=
  (∀ (s s1 s2 : State) (w : Fin 16) (a b : Reg) (ga gb : Word) (l : Loc) (c : ClusterSt), s.running →
    (Reads2 s a b ga gb s1 → gb.toNat / 2 ^ 31 = 0 → wlen gb.toNat % 64 = 0 → 64 ≤ wlen gb.toNat →
      woff gb.toNat + wlen gb.toNat ≤ 131072 → ga.toNat % 64 = 0 → s1.checkSlotDomain w.val = .ok () →
      s1.checkAccess ga.toNat (wlen gb.toNat) 64 needR = .ok (l, s2) →
      (s2.cluster s2.cur).weirRegister s2.nextOp [(l, wlen gb.toNat, false)] = .ok c →
      let x := s2.wslot s2.cur w.val
      let kept := if x.isFree then [] else x.recs.filter (fun r => !covers gb.toNat r.gb.toNat)
      let again : Prop := ∃ k ∈ clusterCores (Party.clusterKey s.cur), ∃ m ∈ (s2.coreAt k).mq, m.held = true ∧
        m.wslot? = some w.val ∧ m.ctx = s2.src.ctx ∧ ∃ r ∈ m.recs, r.ga = ga ∧ r.gb = gb
      (again ∨ kept.length < 4) → ∃ u f, exec (.wload w a b) s = .next u ∧ u.issue.last = .done ∧
        (¬ again → f.kind = .wload w.val ga.toNat gb.toNat false ∧
          u.wslot s.cur w.val = ⟨.loading, s2.src.dom, gb.toNat / 2 ^ 29 % 4, kept ++ [⟨ga, gb, s2.nextOp⟩], none⟩) ∧
        (again → f.kind = .wload w.val ga.toNat gb.toNat true ∧ (u.wslot s.cur w.val).code = x.code ∧
          (u.wslot s.cur w.val).recs.map (fun r => (r.ga, r.gb)) = x.recs.map (fun r => (r.ga, r.gb))) ∧
        (u.cluster s.cur).weir = c.weir ∧ u.flights = s2.flights ++ [f] ∧ f.id = s2.nextOp ∧
        SameBytes s2 u ∧ u.me.g = s2.me.g) ∧
    (s.checkSlotDomain w.val = .ok () → ∃ u, exec (.wfree w) s = .next u ∧ u.issue.last = .done ∧
      (let later := ∃ k ∈ clusterCores (Party.clusterKey s.cur), ∃ m ∈ (s.coreAt k).mq, m.done = false ∧ m.wslot? = some w.val ∧
          m.id < s.nextOp
       (¬ later → u.wslot s.cur w.val = WSlot.reset) ∧
       (later → (u.wslot s.cur w.val).isFree = true ∧
         { u.wslot s.cur w.val with freeAt := (s.wslot s.cur w.val).freeAt } = s.wslot s.cur w.val)) ∧
      SameBytes s u ∧ u.me.g = s.me.g ∧
      ∀ v : Fin 16, v ≠ w → u.wslot s.cur v.val = s.wslot s.cur v.val)) ∧
  (∀ (s : State) (f : Flight) (w ga gb i : Nat) (again : Bool) (p : Part), s.flight? f.id = some f → f.kind = .wload w ga gb again →
    f.parts = [p] → p.loc = .sram i → w < 16 → wlen gb % 64 = 0 → 0 < wlen gb →
    let ck := Party.clusterKey f.party
    (∀ e ∈ s.flights, ∀ v ga2 gb2 r, e.kind = .wload v ga2 gb2 r → v = w → Party.clusterKey e.party = ck → e.id = f.id) →
    (again = false → s.unread ck w f.id = false) → s.earlierDone f.ctx f.id false true = true → s.pastAcquires f.ctx f.id = true →
    poisonIn s.sramPoison i (wlen gb) = false → s.pendingStores { f with kind := .load (.tile 0) } = [] →
    let base := weightBase ck w + woff gb
    ∃ u, exec (.wloadComplete f.id) s = .next u ∧ u.flight? f.id = none ∧ u.mem = s.mem ∧ u.sram = s.sram ∧
      (∀ j < wlen gb, Memory.read u.wmem (base + j) = Memory.read s.sram (i + j)) ∧
      (∀ j, (j < base ∨ base + wlen gb ≤ j) → Memory.read u.wmem j = Memory.read s.wmem j) ∧
      ((s.wslot f.party w).st = .loading → (∃ r ∈ (s.wslot f.party w).recs, r.op = f.id) →
        (u.wslot f.party w).st = .loaded))

/-- Tile transfers (11 R165 to R168). MLOAD starts the load of 32 rows of 128 bytes at ga + r × stride, modulo 2^64, and makes the
tile's rows empty; MLOAD_ROW_ARRIVAL fills a row with its 128 bytes. MSTORE starts the store of 32 rows, as they are or converted
lane by lane. MWAIT goes on when no command, WLOAD or MLOAD of its context is left, and else parks after it issues. -/
def Obligations.TileTransfers : Prop :=
  (∀ (s s1 s2 : State) (o : Sys2Proof.Ordering) (sc : Scope) (t : Reg8) (a b : Reg) (ga gb : Word) (ls : List (Nat × Loc)),
    s.running → Reads2 s a b ga gb s1 → s1.checkTag t.val = .ok () → s2.checkRows t.val = .ok () →
    let y := gb.toNat
    let ck := Party.coreKey s.cur
    let places : Prop := ls.length = 32 ∧
      ∀ r < 32, (ls[r]?).map (·.1) = some ((ga.toNat + r * (y % 2 ^ 24)) % 2 ^ 64)
    (s1.checkTransfer ga y 128 false = .ok () →
      State.checkTileRows ga.toNat (y % 2 ^ 24) 128 needR (List.range 32) s1 = .ok (ls, s2) → s2.weirRows 128 false ls = .ok () →
      ∃ u f, exec (.mload o sc t a b) s = .next u ∧ u.issue.last = .done ∧ places ∧ u.flights = s2.flights ++ [f] ∧
        f.kind = .load (.tile t.val) ∧ f.ord = o ∧ f.scope = sc ∧ f.id = s2.nextOp ∧
        f.parts = ls.flatMap (fun e => (List.range 8).map (fun i =>
          { mkPart (e.1 + 16 * i) (e.2.plus (16 * i)) 16 0 with wide := true })) ∧
        SameBytes s2 u ∧ u.me.g = s2.me.g ∧ ∀ r < 32, u.rowOf ck t.val r = ⟨(s2.rowOf ck t.val r).data, .empty s2.nextOp⟩) ∧
    ((o = .rel ∨ o = .ar → s.checkRelease = .ok ()) → (s1.tileNow t.val).oldestPoison = none →
      let typ := (s1.tileNow t.val).typ
      let conv := gb.getLsbD 28
      let g := (fmtOfCode (y / 2 ^ 24 % 16)).getD .fp32
      let m : Rounding := nth [.rne, .rtz, .rdn, .rup, .sr] (y / 2 ^ 29 % 8) .rne
      let n := if conv then 128 * Fmt.bits g / Fmt.bits typ else 128
      s1.checkTransfer ga y n true = .ok () →
      State.checkTileRows ga.toNat (y % 2 ^ 24) n needW (List.range 32) s1 = .ok (ls, s2) → s2.weirRows n true ls = .ok () →
      ∃ u f vs, exec (.mstore o sc t a b) s = .next u ∧ u.issue.last = .done ∧
        u.flights = (s2.publish o sc).flights ++ [f] ∧ f.kind = .store ∧
        f.ord = o ∧ f.scope = sc ∧ places ∧ SameBytes s2 u ∧ u.me.g = s2.me.g ∧ vs.length = 32 ∧
        f.parts = (ls.zip vs).flatMap (fun e => (List.range (n / 16)).map (fun i =>
          { mkPart (e.1.1 + 16 * i) (e.1.2.plus (16 * i)) 16 (e.2 / 2 ^ (128 * i) % 2 ^ 128) with wide := true })) ∧
        (conv = false → ∀ r < 32, vs[r]? = some (s2.rowOf ck t.val r).data.toNat) ∧
        (conv = true → m ≠ .sr → ∀ r < 32, vs[r]? = some (packLanes (Fmt.bits g) ((List.range (1024 / Fmt.bits typ)).map
          (fun i => (convert typ g m (if gb.getLsbD 32 then .wrap else .sat) 0
            (lane (Fmt.bits typ) (s2.rowOf ck t.val r).data i)).1)))))) ∧
  (∀ (s : State) (f : Flight) (t r base : Nat), s.flight? f.id = some f → f.kind = .load (.tile t) → t < 8 → r < 32 →
    f.parts.length = 256 → (∀ i < 8, ∃ p, f.parts[8 * r + i]? = some p ∧ p.loc = .sram (base + 16 * i) ∧ p.size = 16 ∧
      p.fail = none) →
    (∀ i < 8, s.mayPerform f (8 * r + i) = true) → poisonIn s.sramPoison base 128 = false →
    s.pendingStores f = [] → s.discards f = false → f.id ∉ s.latched →
    (∀ e ∈ s.flights, orderBefore e f = false ∨ e.narrow = false) →
    let ck := Party.coreKey f.party
    (s.rowOf ck t r).fill = .empty f.id →
    ∃ u, exec (.mloadRowArrival f.id r) s = .next u ∧ SameBytes s u ∧ u.threads = s.threads ∧ (u.rowOf ck t r).fill = .full ∧
      ∀ j < 128, (u.rowOf ck t r).data.toNat / 2 ^ (8 * j) % 256 = (Memory.read s.sram (base + j)).toNat) ∧
  (∀ s : State, s.running →
    (s.matrixIdle s.cur s.me.ctx = true → exec .mwait s = .next s.commit) ∧
    (s.matrixIdle s.cur s.me.ctx = false → exec .mwait s = .next (s.parkAfter .matrixDone)))

/-! ### Polders -/

/-- Polders are attached, detached, queried and zeroed (13 R174 to R178, R182, R184). ATTACH of a pool polder in reach to a window that
is not there makes the window pending and sends the request; ATTACH_PERFORM gives a detached polder to the window, zeroed if its last
domain was another, with 1 then and else 0 in gd; one that is not detached gives 2 and the window goes. DETACH closes a window and
DETACH_FLIP frees its polder once its earlier accesses are complete; PZERO and PZERO_COMPLETE likewise zero it. No byte outside the
polder changes. That PQUERY writes gd at issue is the model's reading (log 22). -/
def Obligations.PoldersAttachAndDetach : Prop :=
  (∀ (s s1 : State) (d a b : Reg) (x y : Word) (n : Nat), s.running →
    (Reads2 s a b x y s1 → y.toNat < 128 → y.toNat % 64 ≠ 0 → s1.window? s1.cur (y.toNat % 64) = none →
      s1.polderNamed s1.cur x.toNat false = some n → s1.checkAsync d = .ok () →
      ∃ t f, exec (.attach d a b) s = .next t ∧ t.issue.last = .done ∧ SameBytes s1 t ∧ 8 ≤ n % 64 ∧
        t.window? s.cur (y.toNat % 64) = some ⟨.pending, n, s1.src.dom, 0, none⟩ ∧
        (d ≠ 0 → t.me.g[d] = .empty s1.nextOp) ∧ t.flights = s1.flights ++ [f] ∧ f.id = s1.nextOp ∧
        f.kind = .status (.attach n (y.toNat % 64) (y.getLsbD 6) s1.src.unit) d.val) ∧
    (∀ w v, Reads1 s a x s1 → s.checkRelease = .ok () → s1.heldWindow x = .ok (w, v) →
      (∃ t f, exec (.detach a) s = .next t ∧ t.issue.last = .done ∧ SameBytes s1 t ∧
        t.window? s.cur w = some { v with st := .closed } ∧ t.flights = s1.flights ++ [f] ∧ f.kind = .detach w v.polder) ∧
      (∃ t, exec (.pzero a) s = .next t ∧ t.issue.last = .done ∧ SameBytes s1 t ∧
        ∃ f ∈ t.flights, f.id = s1.nextOp ∧ f.kind = .pzero w v.polder)) ∧
    (Reads1 s a x s1 → s1.checkDest d = .ok () →
      (1 ≤ x.toNat → x.toNat < 64 → s1.window? s1.cur x.toNat = none → exec (.pquery d a) s = .next (s1.writeG d 0).commit) ∧
      (∀ n, s1.queried x = .ok (some n) →
        (s1.attachOf n).st = .detached ∨ (s1.attachOf n).dom = s1.src.dom ∨ s1.src.sup = true ∨ n % 64 < 8 →
          exec (.pquery d a) s = .next (s1.writeG d (w64 (s1.attachOf n).word)).commit))) ∧
  (∀ (s : State) (f : Flight) (n w u d : Nat) (pin : Bool) (t : Thread), s.flight? f.id = some f → 8 ≤ n % 64 →
    let outside (t : State) : Prop := t.mem = s.mem ∧ t.wmem = s.wmem ∧
      ∀ i, (i < n * 65536 ∨ (n + 1) * 65536 ≤ i) → Memory.read t.sram i = Memory.read s.sram i
    let zeroed (t : State) : Prop := ∀ i, n * 65536 ≤ i → i < (n + 1) * 65536 → Memory.read t.sram i = 0
    (f.kind = .status (.attach n w pin u) d → s.thread? f.party = some t → t.ctx = f.ctx → 0 < d → d < 32 →
      vget t.g d (.val 0) = .empty f.id → ∃ r v, exec (.attachPerform f.id) s = .next r ∧ r.thread? f.party = some v ∧
        r.flight? f.id = none ∧ outside r ∧
        ((s.attachOf n).st ≠ .detached → r.sram = s.sram ∧ r.window? f.party w = none ∧ vget v.g d (.val 0) = .val 2) ∧
        ((s.attachOf n).st = .detached → (r.attachOf n).st = .attached ∧ (r.attachOf n).window = w ∧
          (r.attachOf n).dom = f.dom ∧
          r.window? f.party w = some ⟨.opened, n, f.dom, u, if pin then some f.party.slot else none⟩ ∧
          ((s.attachOf n).dom ≠ f.dom → zeroed r ∧ vget v.g d (.val 0) = .val 1) ∧
          ((s.attachOf n).dom = f.dom → r.sram = s.sram ∧ vget v.g d (.val 0) = .val 0))) ∧
    (f.kind = .detach w n →
      (s.polderIdle f.party n f.id = false → exec (.detachFlip f.id) s = .next s) ∧
      (s.polderIdle f.party n f.id = true → ∃ r, exec (.detachFlip f.id) s = .next r ∧ SameBytes s r ∧
        r.flight? f.id = none ∧ r.window? f.party w = none ∧
        r.attachOf n = { s.attachOf n with st := .detached, window := 0, pinv := false })) ∧
    (f.kind = .pzero w n → s.polderIdle f.party n f.id = true → ∃ r, exec (.pzeroComplete f.id) s = .next r ∧
      r.flight? f.id = none ∧ outside r ∧ zeroed r ∧ ∀ v, s.window? f.party w = some v → v.st = .pending → v.polder = n →
        r.window? f.party w = some { v with st := .opened }))

/-- Polders are handed over (13 R179 to R183). HAND closes the window and HAND_FLIP, once the earlier accesses are complete and the
target's queue has room, puts the polder at its tail, its entry handing with COUNT one more; a flip that finds no room waits in the order
in which the attach tables asked; POLDER_ARRIVAL makes it visible; PWAIT gives the first arrival that matches to a window that is not
there, with tag, sender and name in gd, or parks; PKEEP names a keeper, or the keeper takes a queued or quarantined polder back. Data
stays where it is, but for a RECLAIM from another domain, which zeroes it. That PKEEP writes gd at issue is the model's reading
(log 22). -/
def Obligations.PoldersHandOver : Prop :=
  (∀ (s s1 : State) (d a b : Reg) (x y : Word) (w n : Nat) (v : Window), s.running →
    (Reads2 s a b x y s1 → s.checkRelease = .ok () → s1.heldWindow x = .ok (w, v) → y.toNat / 2 ^ 24 = 0 →
      y.toNat / 2 ^ 13 % 8 = 0 → (y.getLsbD 12 = false → y.toNat / 2 ^ 8 % 16 = 0) →
      s1.reachable v.polder (y.toNat % 256) = true → s1.bufferIn s1.cur v.polder = none →
      ∃ t f, exec (.hand a b) s = .next t ∧ t.issue.last = .done ∧ SameBytes s1 t ∧
        t.window? s.cur w = some { v with st := .closed } ∧ t.flights = s1.flights ++ [f] ∧
        f.kind = .hand w v.polder (y.toNat % 256) (y.toNat / 2 ^ 16 % 256)
          (if y.getLsbD 12 then some (y.toNat / 2 ^ 8 % 16) else none) none) ∧
    (Reads2 s a b x y s1 → 0 < x.toNat → x.toNat < 64 → y.toNat < 512 → s1.window? s1.cur x.toNat = none →
      s1.checkDest d = .ok () →
      let fits (e : Arrival) : Bool := e.seen && decide (e.dom = s1.src.dom) && (y.getLsbD 8 || decide (e.tag = y.toNat % 256)) &&
        (decide (e.pin = none) || decide (e.pin = some s.cur.slot))
      ((s1.core s1.cur).arrivals.find? fits = none →
        exec (.pwait d a b) s = .next (s.parkBefore (.arrival (s1.core s1.cur).arrivalCount))) ∧
      (∀ e, (s1.core s1.cur).arrivals.find? fits = some e → 8 ≤ e.polder % 64 →
        ∃ t name, exec (.pwait d a b) s = .next t ∧ t.issue.last = .done ∧ SameBytes s1 t ∧
          (t.core s.cur).arrivals = (s1.core s1.cur).arrivals.erase e ∧
          t.window? s.cur x.toNat = some ⟨.opened, e.polder, e.dom, s1.src.unit, e.pin⟩ ∧
          (t.attachOf e.polder).st = .attached ∧ (t.attachOf e.polder).window = x.toNat ∧
          polderName s1.cur e.polder = name ∧
          (s1.aliasChan d = none → d ≠ 0 → t.me.g[d] = .val (w64 (e.tag + e.sender * 2 ^ 8 + name % 64 * 2 ^ 16 + name / 64 * 2 ^ 22))))) ∧
    (Reads2 s a b x y s1 → s1.checkDest d = .ok () →
      let gets (t : State) (k : Nat) : Prop := s1.aliasChan d = none → d ≠ 0 → t.me.g[d] = .val (w64 k)
      (s1.heldWindow x = .ok (w, v) → y.toNat < 256 → s1.reachable v.polder y.toNat = true → 8 ≤ v.polder % 64 →
        ∃ t, exec (.pkeep d a b) s = .next t ∧ t.issue.last = .done ∧ SameBytes s1 t ∧ gets t 0 ∧
          (t.attachOf v.polder).keeper = Config.posOf y.toNat ∧ (t.attachOf v.polder).st = (s1.attachOf v.polder).st) ∧
      (s1.polderNamed s1.cur x.toNat false = some n → y.toNat = 256 →
        ∃ t, exec (.pkeep d a b) s = .next t ∧ t.issue.last = .done ∧ SameBytes s1 t ∧
          (∀ k, s1.takeBack n = .error k → gets t k ∧ t.attachOf n = s1.attachOf n) ∧
          (∀ u, s1.takeBack n = .ok u → gets t 0 ∧ (t.attachOf n).st = .detached)) ∧
      (s1.polderNamed s1.cur x.toNat false = some n → y.toNat % 65536 = 512 → y.toNat / 65536 < 64 → y.toNat / 65536 ≠ 0 →
        s1.window? s1.cur (y.toNat / 65536) = none →
        ∃ t, exec (.pkeep d a b) s = .next t ∧ t.issue.last = .done ∧ t.mem = s1.mem ∧
          (∀ i, (i < n * 65536 ∨ (n + 1) * 65536 ≤ i) → Memory.read t.sram i = Memory.read s1.sram i) ∧
          (∀ k, s1.takeBack n = .error k → gets t k ∧ t.sram = s1.sram) ∧
          (∀ u, s1.takeBack n = .ok u → gets t 0 ∧ (t.attachOf n).st = .attached ∧
            t.window? s.cur (y.toNat / 65536) = some ⟨.opened, n, s1.src.dom, s1.src.unit, none⟩ ∧
            ((s1.attachOf n).dom = s1.src.dom → t.sram = s1.sram) ∧
            ((s1.attachOf n).dom ≠ s1.src.dom → ∀ i, n * 65536 ≤ i → i < (n + 1) * 65536 → Memory.read t.sram i = 0))))) ∧
  (∀ (s : State) (f : Flight) (w n target tag : Nat) (pin place : Option Nat), s.flight? f.id = some f → 8 ≤ n % 64 →
    f.kind = .hand w n target tag pin place →
    let q : Party := ⟨f.party.die, target, 0⟩
    let first := ∀ m ∈ s.handsAsked f.party.die target, ∃ k, place = some k ∧ k ≤ m
    let idle := s.polderIdle f.party n f.id = true
    let room := (s.core q).arrivals.length < 16 ∧ first
    (¬ idle → exec (.handFlip f.id) s = .next s) ∧
    (idle → ¬ room → place.isSome → exec (.handFlip f.id) s = .next s) ∧
    (idle → ¬ room → place = none → ∃ t m, exec (.handFlip f.id) s = .next t ∧ SameBytes s t ∧
      t.flight? f.id = some { f with kind := .hand w n target tag pin (some m) } ∧ t.cores = s.cores ∧ (∀ j, t.attachOf j = s.attachOf j) ∧
      ∀ k ∈ s.handsAsked f.party.die target, k < m) ∧
    (idle → room → ∃ t e, exec (.handFlip f.id) s = .next t ∧ SameBytes s t ∧ t.flight? f.id = none ∧
      (t.core q).arrivals = (s.core q).arrivals ++ [e] ∧ e.polder = n ∧ e.tag = tag ∧ e.sender = f.party.core ∧ e.pin = pin ∧
      e.dom = (s.attachOf n).dom ∧ e.seen = false ∧ t.window? f.party w = none ∧ (t.attachOf n).st = .handing ∧
      (t.attachOf n).count = ((s.attachOf n).count + 1) % 2 ^ 32)) ∧
  (∀ (s : State) (op : Nat), ∃ t, exec (.polderArrival op) s = .next t ∧ SameBytes s t ∧ t.threads = s.threads ∧
    ∀ k, (t.coreAt k).arrivals = (s.coreAt k).arrivals.map (fun a => if a.op = op then { a with seen := true } else a))

/-! ### Streams and channels -/

/-- Stream words (19 R254 to R262). SBIND of an unbound number with a well-formed control word, a buffer, a readable descriptor and a free
place binds an inbound stream whose descriptor is read later, or an outbound one whose descriptor is read at once and whose range is
registered; SFREE unbinds; SSTAT gives the status, 0 where nothing is bound; SFLUSH of an inbound stream drops the rows read ahead and
gives the rows popped since SBIND, and of an outbound one waits for its rows; SSTAT counts the rows since SBIND, those that its bundle
pops among them (the model's reading, log 125). An operand of these words that an earlier access of the core is to change parks them
(log 124). A v source that names a
bound stream pops its head row or parks, and traps with reason 4 on an outbound one and 5 after its last row. -/
def Obligations.StreamWords : Prop :=
  ∀ (s s1 s2 : State) (d a b r : Reg) (k : Reg8) (x y : Word) (buf : Nat) (desc : Loc) (v : Stream), s.running →
    let bind (z : Stream) : Prop := z.qcw = y ∧ z.desc = desc ∧ z.buf = buf ∧ z.before = 0 ∧ z.moved = 0 ∧ z.filled = 0 ∧
      z.dom = s2.src.dom ∧
      z.sup = s2.src.sup ∧ z.fault = none ∧ z.bad = [] ∧ z.claims = [] ∧ z.op = s2.nextOp
    (Reads2 s a b x y s1 → s1.me.stream? k.val = none → qcwOk y.toNat = true →
      s1.checkWindow (2 ^ 63 + y.toNat / 2 ^ 16 % 64 * 65536 + y.toNat / 2 ^ 7 % 512 * 128) = .ok buf →
      s1.checkAccess x.toNat 64 64 needR = .ok (desc, s2) → s2.inService s2.cur.die s2.cur.core < 16 →
      (y.getLsbD 35 = false → ∃ t z, exec (.sbind k a b) s = .next t ∧ t.issue.last = .done ∧ SameBytes s2 t ∧
        t.me.stream? k.val = some z ∧ bind z ∧ z.words = none ∧ t.me.g = s2.me.g ∧ t.flights = s2.flights) ∧
      (∀ i, y.getLsbD 35 = true → desc = .sram i → poisonIn s2.sramPoison i 64 = false → s2.checkPort desc 64 false = .ok () →
        s2.pendingStores s2.issueFlight = [] →
        let ws := (List.range 8).map (fun j => s2.readSram (i + 8 * j) 8)
        let z0 : Stream := { s2.newStream y desc buf with words := some ws }
        z0.descOk = true → ∀ c, (s2.cluster s2.cur).weirRange s2.nextOp (s2.weirRuns s2.cur z0.range.1 z0.range.2) = .ok c →
          ∃ t z, exec (.sbind k a b) s = .next t ∧ t.issue.last = .done ∧ SameBytes s2 t ∧ t.me.stream? k.val = some z ∧
            bind z ∧ z.words = some ws ∧ z.weir = some s2.nextOp ∧ (t.cluster s.cur).weir = c.weir ∧ t.me.g = s2.me.g)) ∧
    (s.me.stream? k.val = some v →
      (∃ t, exec (.sfree k) s = .next t ∧ t.issue.last = .done ∧ SameBytes s t ∧ t.me.stream? k.val = none ∧
        (∀ j, j ≠ k.val → t.me.stream? j = s.me.stream? j) ∧ t.me.g = s.me.g) ∧
      (v.outbound = false → s.checkDest d = .ok () → ∃ u z, exec (.sflush d k) s =
          .next (u.writeG d (w64 (v.before + v.moved))).commit ∧ SameBytes s u ∧ u.flights = s.flights ∧ u.me.g = s.me.g ∧
        u.me.stream? k.val = some z ∧ z.moved = v.moved ∧ z.filled = Min.min v.filled v.moved ∧ z.after = s.nextOp ∧
        z.bad = v.bad.filter (fun e => decide (e.1 < v.moved))) ∧
      (v.outbound = true → s.checkAsync d = .ok () → ∃ t, exec (.sflush d k) s = .next t ∧
        Starts s t (some d) (.status (.sflush v.op v.moved) d.val) [] .rlx .pkg)) ∧
    (s.checkDest d = .ok () →
      (s.me.stream? k.val = none → exec (.sstat d k) s = .next (s.writeG d 0).commit) ∧
      (s.me.stream? k.val = some v → ∃ w : Word, exec (.sstat d k) s = .next (s.writeG d w).commit ∧ w.getLsbD 63 = true ∧
        w.getLsbD 62 = v.outbound ∧ w.toNat % 2 ^ 38 = (v.before + v.moved) % 2 ^ 38 ∧ w.getLsbD 60 = v.drained ∧
        (w.getLsbD 61 = true ↔ v.fault.isSome ∨ v.bad ≠ [] ∨ s.me.holdsRow v.op = true) ∧
        (w.getLsbD 59 = true ↔ v.spHead < v.spTail) ∧
        (v.outbound = false → w.toNat / 2 ^ 38 % 2 ^ 10 = (v.filled - v.moved) % 2 ^ 10) ∧
        (v.outbound = true → w.toNat / 2 ^ 38 % 2 ^ 10 = (v.depth - (v.moved - v.filled)) % 2 ^ 10))) ∧
    (s.aliasStream r = some (k.val, v) → s.issue.pre = none → s.issue.popped = [] → s.issue.ahead = [] →
      (v.outbound = true → s.readV r = .error (.trap 0x0C 0 (w64 (k.val * 16 + 4)) none)) ∧
      (v.outbound = false → v.qid = none → v.words.isSome = true → v.fault = none →
        (v.rows ≤ v.moved → s.readV r = .error (.trap 0x0C 0 (w64 (k.val * 16 + 5)) none)) ∧
        (v.moved < v.rows → v.bad = [] →
          (v.filled ≤ v.moved → s.readV r = .error (.park (.stream k.val 1))) ∧
          (v.moved < v.filled → ∃ t z, s.readV r = .ok (BitVec.ofNat 1024 (s.readSram (v.rowByte v.moved) 128), t) ∧
            t.me.stream? k.val = some z ∧ z = { v with moved := v.moved + 1 } ∧ SameBytes s t))))

/-- The transfer units of streams (19 R255 to R259). STREAM_DESCRIPTOR_READ gives a bound stream its eight words, with fault 1 where they
break Table 19.5; STREAM_FILL reads the next row of an inbound stream to its place in the buffer; STREAM_DRAIN performs the stores of the
oldest row that has left, at its elements' places alone. Element n of the pattern lies at base + Σ i × stride, modulo 2^64, with the
index of the innermost dimension running fastest. -/
def Obligations.StreamTransfers : Prop :=
  (∀ (s s1 s2 : State) (p : Party) (k i v : Nat) (t : Thread) (x : Stream) (ls : List (Nat × Nat × Loc)), k < 8 →
    s.thread? p = some t → t.stream? k = some x →
    (s.pastAcquires t.ctx x.after = false → exec (.streamDescriptorRead p k) s = .next s) ∧
    (x.words = none → x.bad = [] → s.pastAcquires t.ctx x.after = true → x.desc = .sram i → poisonIn s.sramPoison i 64 = false →
      s.pendingStores (x.flight p t.ctx) = [] → ∃ u w z, exec (.streamDescriptorRead p k) s = .next u ∧ SameBytes s u ∧
        u.thread? p = some w ∧ w.stream? k = some z ∧ z.words = some ((List.range 8).map (fun j => s.readSram (i + 8 * j) 8)) ∧
        (z.descOk = false → z.fault = some 1) ∧ (z.descOk = true → z.isToken = false → z.fault = x.fault ∧ z.qid = x.qid) ∧
        (z.descOk = true → z.isToken = true → (s.tokenQueue p.die p.core (z.word 4 / 2 ^ 48 % 4)).isSome → z.fault = some 7) ∧
        (z.descOk = true → z.isToken = true → s.tokenQueue p.die p.core (z.word 4 / 2 ^ 48 % 4) = none →
          z.qid = some (z.word 4 / 2 ^ 48 % 4))) ∧
    (s.mayFill t x = true → x.claims = [] → 0 < x.depth → s.rowCheck p none x x.filled = (.ok ls, s1) →
      s1.readElems (x.flight p t.ctx) x.esize ls = (.ok v, s2) → ∃ u w z, exec (.streamFill p k) s = .next u ∧
        u.thread? p = some w ∧ w.stream? k = some z ∧ z.filled = x.filled + 1 ∧ z.moved = x.moved ∧
        u.readSram (x.rowByte x.filled) 128 = v % 2 ^ 1024 ∧ u.mem = s2.mem ∧
        ∀ j, (j < x.rowByte x.filled ∨ x.rowByte x.filled + 128 ≤ j) → Memory.read u.sram j = Memory.read s2.sram j) ∧
    (s.mayFill t x = true → x.claims = [] → ∀ bad, s.rowCheck p none x x.filled = (.bad bad, s1) →
      ∃ u w z, exec (.streamFill p k) s = .next u ∧ SameBytes s1 u ∧ u.thread? p = some w ∧ w.stream? k = some z ∧
        z.fault = some 6 ∧ z.faultAddr = bad ∧ z.filled = x.filled)) ∧
  (∀ (s : State) (p : Party) (k op r buf i : Nat) (f : Flight) (q : Part) (t : Thread) (x : Stream), k < 8 →
    s.thread? p = some t → t.stream? k = some x → x.op = op → f.ctx = t.ctx →
    s.flights.find? (fun f => decide (f.party = p) && (match f.kind with
      | .row _ j _ _ => decide (j = k)
      | _ => false)) = some f → s.flight? f.id = some f → f.kind = .row op k r buf → f.parts = [q] → q.loc = .sram i →
    s.mayPerform f 0 = true → ∃ u w z, exec (.streamDrain p k) s = .next u ∧ u.flight? f.id = none ∧ u.mem = s.mem ∧
      u.thread? p = some w ∧ w.stream? k = some z ∧ z.filled = x.filled + 1 ∧
      (∀ j < q.size, (Memory.read u.sram (i + j)).toNat = q.data / 2 ^ (8 * j) % 256) ∧
      ∀ j, (j < i ∨ i + q.size ≤ j) → Memory.read u.sram j = Memory.read s.sram j) ∧
  (∀ (x : Stream) (i0 i1 i2 i3 n0 n1 n2 n3 : Nat), i0 < n0 → i1 < n1 → i2 < n2 → i3 < n3 →
    n0 < 2 ^ 16 → n1 < 2 ^ 16 → n2 < 2 ^ 16 → n3 < 2 ^ 16 → x.word 1 = n0 + n1 * 2 ^ 16 + n2 * 2 ^ 32 + n3 * 2 ^ 48 →
    let stride (j : Nat) : Int := signedOf 32 (x.word (2 + j / 2) / 2 ^ (32 * (j % 2)))
    (x.elemAddr (i0 + n0 * (i1 + n1 * (i2 + n2 * i3))) : Int) =
      ((x.word 0 : Int) + i0 * stride 0 + i1 * stride 1 + i2 * stride 2 + i3 * stride 3) % 2 ^ 64)

/-- Channels (19 R264 to R270). CBIND binds an inbound endpoint with a receive buffer and its first grant, or an outbound one that
connects; CFREE unbinds; CPOLL gives the words or the allowance; CGRANT grants what the buffer has room for; ALT gives the lowest named
endpoint with a word, or parks. A connect opens the outbound endpoint, or refuses it for another domain, and waits while its thread is
saved (log 59) or words of an earlier binding are on their way; a word reaches the next place of the receive buffer; a grant adds to the
allowance; a wait beyond its limit, that of the die where each peer is on it now, traps with reason 6. The lowest of several endpoints is
named (log 47), and ALT names one that still holds a word after its bundle's pops, if there is one (log 125): the model's readings. -/
def Obligations.Channels : Prop :=
  (∀ (s s1 : State) (d a b : Reg) (k : Reg8) (x y : Word) (c : Chan) (i : Nat), s.running →
    let peer : Party := ⟨x.toNat / 2 ^ 20 % 16, x.toNat / 2 ^ 12 % 256, x.toNat / 2 ^ 8 % 16⟩
    (Reads2 s a b x y s1 → s1.me.chan? k.val = none → chanOperandsOk x.toNat y.toNat = true →
      s1.corePresent peer.die peer.core = true → s1.inPartition s1.cur s1.src peer.die peer.core = true →
      (y.getLsbD 7 = true → ∃ t f e, exec (.cbind k a b) s = .next t ∧ t.issue.last = .done ∧ SameBytes s1 t ∧
        t.me.chan? k.val = some e ∧ e.out = true ∧ e.peer = peer ∧ e.ep = x.toNat % 8 ∧ e.st = .waiting ∧ e.a = 0 ∧
        e.dom = s1.src.dom ∧ t.flights = s1.flights ++ [f] ∧ f.kind = .connect k.val peer (x.toNat % 8)) ∧
      (y.getLsbD 7 = false → (List.range 8).find? (fun i => !(s1.rbufs s1.cur).contains i) = some i →
        ∃ t e, exec (.cbind k a b) s = .next t ∧ t.issue.last = .done ∧ SameBytes s1 t ∧ t.me.chan? k.val = some e ∧
          e.out = false ∧ e.peer = peer ∧ e.rbuf = i ∧ e.b = 0 ∧ e.g = y.toNat % 64 ∧ e.auto = y.getLsbD 6 ∧
          e.conn = some s1.nextOp ∧ t.flights = s1.flights)) ∧
    (s.me.chan? k.val = some c → (∃ t, exec (.cfree k) s = .next t ∧ t.issue.last = .done ∧ SameBytes s t ∧
        t.me.chan? k.val = none ∧ t.me.g = s.me.g) ∧
      (s.checkDest d = .ok () → exec (.cpoll d k) s = .next (s.writeG d (w64 (if c.out then c.a else c.b))).commit)) ∧
    (Reads1 s a x s1 → s1.me.chan? k.val = some c → c.out = false → s1.checkDest d = .ok () →
      let n := Min.min x.toNat (32 - c.b - c.g)
      ∃ u, exec (.cgrant d k a) s = .next (u.writeG d (w64 n)).commit ∧ SameBytes s1 u ∧ u.me.g = s1.me.g ∧
        u.me.chan? k.val = some { c with g := c.g + n } ∧
        (∀ id, c.conn = some id → 0 < n → ∃ f, u.flights = s1.flights ++ [f] ∧ f.kind = .grant id n)) ∧
    (Reads1 s a x s1 → 0 < x.toNat → x.toNat < 256 → s1.checkDest d = .ok () →
      (∀ j < 8, x.toNat.testBit j = true → ∃ e, s1.src.chan? j = some e ∧ e.out = false) →
      let word (t : Thread) (j : Nat) : Prop := x.toNat.testBit j = true ∧ ∃ e, t.chan? j = some e ∧ 0 < e.b
      let gives (j : Nat) : Prop := exec (.alt d a) s = .next (s1.writeG d (w64 j)).commit
      (∀ j < 8, word s1.me j → (∀ h < j, ¬ word s1.me h) → gives j) ∧
      ((∀ j < 8, ¬ word s1.me j) →
        (∀ j < 8, word s1.src j → (∀ h < j, ¬ word s1.src h) → gives j) ∧
        ((∀ j < 8, ¬ word s1.src j) → exec (.alt d a) s = .next (s.parkBefore (.alt x.toNat)))))) ∧
  (∀ (s : State) (f : Flight) (peer p : Party) (k ep n conn : Nat) (v : Word) (tp to_ : Thread) (c e : Chan),
    s.flight? f.id = some f →
    (f.kind = .connect k peer ep → (∃ x ∈ s.saved, x.thread.ctx = f.ctx) → exec (.channelConnect f.id) s = .next s) ∧
    (f.kind = .connect k peer ep → s.thread? peer = some tp → tp.chan? ep = some c →
      (∃ e ∈ s.flights, ∃ n z, e.kind = .word n z ∧ c.conn = some n) → exec (.channelConnect f.id) s = .next s) ∧
    (f.kind = .connect k peer ep → k < 8 → s.thread? peer = some tp → tp.chan? ep = some c → c.out = false → c.peer = f.party →
      (∀ e ∈ s.flights, ∀ n z, e.kind = .word n z → c.conn ≠ some n) → c.ep = k → s.thread? p = some to_ → to_.ctx = f.ctx → to_.chan? k = some e →
      (∀ x ∈ s.saved, x.thread.ctx ≠ f.ctx) →
      ∃ t u, exec (.channelConnect f.id) s = .next t ∧ SameBytes s t ∧ t.flight? f.id = none ∧ t.thread? p = some u ∧
        (c.dom ≠ f.dom → u.chan? k = some { e with st := .refused }) ∧
        (c.dom = f.dom → u.chan? k = some { e with st := .opened, conn := c.conn, a := c.g })) ∧
    (f.kind = .word conn v → f.moved = false → s.earlierWord f conn = false → s.mayPerform f 0 = true →
      s.endpoint conn false = some (p, k, c) → k < 8 →
      let place := homeByte p (0x0800 + 0x100 * c.rbuf + 8 * ((c.head + c.b) % 32))
      ∃ t u, exec (.channelWordArrival f.id) s = .next t ∧ t.mem = s.mem ∧ t.flight? f.id = none ∧ t.readSram place 8 = v.toNat ∧
        (∀ j, (j < place ∨ place + 8 ≤ j) → Memory.read t.sram j = Memory.read s.sram j) ∧ t.thread? p = some u ∧
        u.chan? k = some { c with b := c.b + 1, g := c.g - 1 }) ∧
    (f.kind = .grant conn n → f.moved = false → s.endpoint conn true = some (p, k, c) → k < 8 →
      ∃ t u, exec (.channelGrantArrival f.id) s = .next t ∧ SameBytes s t ∧ t.flight? f.id = none ∧ t.thread? p = some u ∧
        u.chan? k = some { c with a := c.a + n })) ∧
  (∀ (s : State) (p : Party) (t : Thread) (why : ParkWhy) (waited k : Nat) (ks : List Nat) (second : Bool), s.thread? p = some t →
    t.park = some ⟨why, false, waited, second⟩ → why.endpoints = k :: ks → s.wakes p t why = false →
    let limit := if ∀ j ∈ k :: ks, ∀ c, t.chan? j = some c → (s.peerPlace c).die = p.die then t.btoDie else t.btoPkg
    (∀ c : Chan, (c.conn = none → s.peerPlace c = c.peer) ∧
      ∀ n q i e, c.conn = some n → s.endpoint n (!c.out) = some (q, i, e) → s.peerPlace c = q) ∧
    ((limit = 0 ∨ waited ≤ limit) → exec (.channelTimeout p) s = .next s) ∧
    (limit ≠ 0 → limit < waited → exec (.channelTimeout p) s =
      .next (s.takeTrap p 0x0D (if second then 1 else 0) t.pc 0 (w64 (k * 16 + 6)))))

/-! ### Copy engines, barriers, routing, revisions -/

/-- Copies (19 R271 to R274). COPY and XCOPY with a descriptor and ranges that pass their checks put a command at the tail of the engine of
the die with the fewest, register both ranges and give 0, or give 1 where every queue is full and 2 where the weir table is. An engine
moves the granules of its head command and no others: COPY_ENGINE_START those that it is given, COPY_ENGINE_COMPLETE those that are left,
after which the command is gone; COPY_ENGINE_FAULT stops it at the granule that fails, which its slot then holds. CWAIT waits for the
context's copies. -/
def Obligations.Copies : Prop :=
  (∀ (s s1 s2 s3 s4 s5 : State) (xc : Bool) (sc : Scope) (d a : Reg) (x : Word) (i : Nat) (src dst : Loc), s.running →
    s.checkRelease = .ok () → Reads1 s a x s1 → x.getLsbD 63 = true → x.toNat % 32 = 0 →
    s1.checkAccess x.toNat 32 32 needR = .ok (.sram i, s2) → poisonIn s2.sramPoison i 32 = false →
    s2.checkPort (.sram i) 32 false = .ok () → s2.pendingStores s2.issueFlight = [] →
    let w (j : Nat) : Nat := s2.readSram (i + 8 * j) 8
    w 0 % 16 = 0 → w 1 % 16 = 0 → w 2 < 2 ^ 32 → w 2 % 16 = 0 → 0 < w 2 → w 3 < 2 ^ 56 → w 3 % 4 = 0 → (xc = false → w 3 = 0) →
    (w 0 / 2 ^ 63 = w 1 / 2 ^ 63 → w 0 + w 2 ≤ w 1 ∨ w 1 + w 2 ≤ w 0) →
    s2.checkAccess (w 1) (w 2) 16 needR = .ok (src, s3) → s3.checkAccess (w 0) (w 2) 16 needW = .ok (dst, s4) →
    (if xc then s4.checkGlobal (w 3) 4 needW = .ok s5 else s5 = s4) →
    weirRegConflict (s5.cluster s5.cur).weir dst (w 2) true = none →
    weirRegConflict (s5.cluster s5.cur).weir src (w 2) false = none → s5.checkDest d = .ok () →
    let word : Instr := if xc then .xcopy sc d a else .copy sc d a
    let die := s.cur.die
    (s5.pickEngine die = none → exec word s = .next (s5.writeG d 1).commit) ∧
    (∀ e, s5.pickEngine die = some e →
      (∀ g < Config.engines die, (s5.engine die e).queue.length ≤ (s5.engine die g).queue.length) ∧
      (((List.range 32).filter (fun j => (vget (s5.cluster s5.cur).weir j none).isNone)).length < 2 →
        exec word s = .next (s5.writeG d 2).commit) ∧
      (2 ≤ ((List.range 32).filter (fun j => (vget (s5.cluster s5.cur).weir j none).isNone)).length →
        ∃ u c, exec word s = .next (u.writeG d 0).commit ∧ SameBytes s u ∧ u.me.g = s5.me.g ∧
          (u.engine die e).queue = (s5.engine die e).queue ++ [c] ∧ c.op = s5.nextOp ∧ c.dst = dst ∧ c.src = src ∧ c.len = w 2 ∧
          c.flag = (if xc then some (w 3) else none) ∧ c.ctx = s5.src.ctx ∧ c.from_ = 0 ∧ c.stopped = false ∧
          ∃ p q, vget (u.cluster s.cur).weir p none = some ⟨c.op, dst, w 2, true, []⟩ ∧
            vget (u.cluster s.cur).weir q none = some ⟨c.op, src, w 2, false, []⟩))) ∧
  (∀ (s : State) (sc : Scope), s.running →
    (s.copiesOf s.me.ctx = [] → exec (.cwait sc) s = .next s.commit) ∧
    (s.copiesOf s.me.ctx ≠ [] → exec (.cwait sc) s = .next (s.parkAfter (.ops (s.copiesOf s.me.ctx))))) ∧
  (∀ (s : State) (die e i j : Nat) (c : Copy) (gs : List Nat), s.runnable die e = some c → c.src = .sram i → c.dst = .sram j →
    c.len % 16 = 0 → (i + c.len ≤ j ∨ j + c.len ≤ i) → poisonIn s.sramPoison i c.len = false → s.pendingStores c.flight = [] →
    (∃ u, exec (.copyEngineStart die e gs) s = .next u ∧ u.mem = s.mem ∧ (∀ b < j, Memory.read u.sram b = Memory.read s.sram b) ∧
      ∀ a, Memory.read u.sram (j + a) = (if a < c.len ∧ a / 16 ∈ gs ∧ c.from_ ≤ a / 16 * 16 ∧
        a / 16 * 16 ∉ c.moved then Memory.read s.sram (i + a) else Memory.read s.sram (j + a))) ∧
    (c.flag = none → ∃ u, exec (.copyEngineComplete die e) s = .next u ∧ u.mem = s.mem ∧
      (∀ a, Memory.read u.sram (j + a) = (if a < c.len ∧ c.from_ ≤ a / 16 * 16 ∧ a / 16 * 16 ∉ c.moved then
        Memory.read s.sram (i + a) else Memory.read s.sram (j + a))) ∧
      (u.engine die e).queue = (s.engine die e).queue.filter (fun x => x.op != c.op) ∧
      ∀ k w, vget (u.clusterAt (Party.clusterKey c.party)).weir k none = some w → w.op ≠ c.op)) ∧
  (∀ (s s1 : State) (die e o k a : Nat) (c : Copy) (moved : List Nat) (p : Party) (t : Thread), s.runnable die e = some c →
    s.moveGranules c c.left [] = (some (o, k, a), moved, s1) → s1.thread? p = some t → t.ctx = c.ctx →
    t.quitting = false → ∃ u v, exec (.copyEngineFault die e) s = .next u ∧ SameBytes s1 u ∧ u.thread? p = some v ∧
      v.held = t.held ++ [⟨.copy c.op o c.iaddr a, k, c.op, 16⟩] ∧ v.g = t.g ∧
      (t.owed = [] → ∃ q, v.owed = [q] ∧ (q.cause = 0x07 ∨ q.cause = 0x0A)) ∧
      ∀ x ∈ (u.engine die e).queue, x.op = c.op → x.stopped = true ∧ x.from_ = o)

/-- Barriers (19 R270, R275 to R280). BARM joins or leaves; BARA arrives and gives the phase; BARW waits for the last arrival's status, or
gives it; BARR arrives and waits; BTO sets a limit; CSUM asks for a count record. BARRIER_COMPLETE, once every member has arrived and its
earlier accesses are over, begins the next phase with the joins and leaves that waited for it, makes the pending SLOTTAB of each member's
core its table (03 R42), stores the sums of the sixteen counters of the members' cores and the number of cores for a CSUM of the phase,
and gives each arrival its status, which wakes the slots that wait; before that it changes nothing. A wait beyond its limit traps with
cause 0x15 and reason 1 (its EADDR is free, log 21), in BARR before its arrival too, and an arrival stands. -/
def Obligations.Barriers : Prop :=
  (∀ (s s1 : State) (d a : Reg) (n : Fin 16) (x : Word), s.running →
    let b := s.barrier s.cur.die n.val
    let ctx := s.src.ctx
    (s.checkRelease = .ok () → Reads1 s a x s1 → x.toNat < 2 →
      (x = 0 ∨ (b.members = [] ∧ b.changed.members = []) ∨ b.dom = s.src.dom) →
      ∃ u, exec (.barm a n) s = .next u ∧ u.issue.last = .done ∧ SameBytes s1 u ∧ u.me.g = s1.me.g ∧
        (b.arrived = [] → x = 1 → (u.barrier s.cur.die n.val).member ctx = true ∧ (u.barrier s.cur.die n.val).dom = s.src.dom) ∧
        (b.arrived = [] → x = 0 → (u.barrier s.cur.die n.val).members = b.members.filter (fun m => m.ctx != ctx)) ∧
        (b.arrived ≠ [] → (u.barrier s.cur.die n.val).members = b.members ∧
          (u.barrier s.cur.die n.val).changes = b.changes ++ [(⟨s.cur, ctx⟩, decide (x = 1))]) ∧
        (x = 1 → b.members = [] → (u.barrier s.cur.die n.val).dom = s.src.dom)) ∧
    (s.checkRelease = .ok () → b.member ctx = true → b.hasArrived ctx = false →
      (s.checkDest d = .ok () → ∃ u, exec (.bara d n) s = .next (u.writeG d (w64 b.phase)).commit ∧ SameBytes s u ∧
        u.me.g = s.me.g ∧ (u.barrier s.cur.die n.val).hasArrived ctx = true ∧ (u.barrier s.cur.die n.val).phase = b.phase) ∧
      (s.checkAsync d = .ok () → ∃ u, exec (.barr d n) s = .next u ∧ SameBytes s u ∧ u.me.g = s.me.g ∧
        u.me.park = some ⟨.barw n.val b.phase d.val, true, 0, s.issue.second⟩ ∧
        (u.barrier s.cur.die n.val).hasArrived ctx = true)) ∧
    (s.checkRelease = .ok () → s.checkAsync d = .ok () →
      (tget s.me.arrived n.val = none → exec (.barw d n) s = .next (s.writeG d 0).commit) ∧
      (∀ r v, tget s.me.arrived n.val = some r → r.status = some v → exec (.barw d n) s = .next (s.writeG d (w64 v)).commit) ∧
      (∀ r, tget s.me.arrived n.val = some r → r.status = none →
        exec (.barw d n) s = .next (s.parkAfter (.barw n.val r.phase d.val)))) ∧
    (s.checkRelease = .ok () → Reads1 s a x s1 → x.toNat < 2 ^ 32 →
      exec (.bto false a) s = .next (s1.setMe { s1.me with btoDie := x.toNat }).commit ∧
      exec (.bto true a) s = .next (s1.setMe { s1.me with btoPkg := x.toNat }).commit) ∧
    (∀ s2 l, s.checkRelease = .ok () → Reads1 s a x s1 → x.getLsbD 63 = false →
      s1.checkAccess x.toNat 136 8 needW = .ok (l, s2) → b.member ctx = true → ∃ u r, exec (.csum a n) s = .next u ∧
        u.issue.last = .done ∧ SameBytes s u ∧ (u.barrier s.cur.die n.val).csums = b.csums ++ [r] ∧ r.addr = x.toNat ∧
        r.phase = b.phase ∧ r.member.ctx = ctx)) ∧
  (∀ (s : State) (die n : Nat), n < 16 →
    let b := s.barrier die n
    (s.phaseDone b = false → exec (.barrierComplete die n) s = .next s) ∧
    (s.phaseDone b = true → ∃ u, exec (.barrierComplete die n) s = .next u ∧ (b.csums = [] → SameBytes s u) ∧
      (u.barrier die n).phase = (b.phase + 1) % 2 ^ 32 ∧ (u.barrier die n).arrived = [] ∧ (u.barrier die n).lost = false ∧
      (u.barrier die n).csums = [] ∧ (u.barrier die n).changes = [] ∧ (u.barrier die n).members = b.changed.members ∧
      (b.changes = [] → (u.barrier die n).members = b.members) ∧
      (∀ m join, b.changes = [(m, join)] → (u.barrier die n).member m.ctx = join ∧
        ∀ ctx, ctx ≠ m.ctx → (u.barrier die n).member ctx = b.member ctx) ∧
      (∀ k, let taken := ∃ m ∈ b.members, Party.coreKey m.party = k
        (taken → (u.coreAt k).slottab = (s.coreAt k).slottabNext.getD (s.coreAt k).slottab ∧ (u.coreAt k).slottabNext = none) ∧
        (¬ taken → (u.coreAt k).slottab = (s.coreAt k).slottab ∧ (u.coreAt k).slottabNext = (s.coreAt k).slottabNext)) ∧
      (∀ r, b.csums = [r] → r.phase = b.phase → s.revs = [] →
        let cs := (s.takeCounts b).counts
        (∃ f : Flight, f.kind = .store ∧ f.ctx = r.member.ctx ∧ f.dom = r.dom ∧ f.rev = r.rev ∧ StoresInTurn s u f r.addr 8
          ((List.range 16).map (fun i => (cs.map (fun e => nth e.2 i 0)).sum) ++ [cs.length])) ∧
        (b.counts = [] → (cs.map (·.1)).Nodup ∧ ∀ k v, (k, v) ∈ cs ↔
          (∃ m ∈ b.members, Party.coreKey m.party = k) ∧ v = (s.coreAt k).ev.toList)) ∧
      ∀ p t op, b.csums = [] → s.thread? p = some t → ((⟨p, t.ctx⟩ : Member), op) ∈ b.arrived → tget t.arrived n = some ⟨op, b.phase, none⟩ →
        (∀ e ∈ s.threads, e.2.ctx = t.ctx → e = (Party.key p, t)) → (∀ e ∈ s.saved, e.thread.ctx ≠ t.ctx) →
        ∃ v, u.thread? p = some v ∧ tget v.arrived n = some ⟨op, b.phase, some (if b.lost then 1 else 0)⟩ ∧
          ∀ d waited second, t.park = some ⟨.barw n b.phase d, true, waited, second⟩ → tget s.rest (Party.key p) = none →
            v.park = none ∧ v.pc = t.pc + 4 ∧
            (0 < d → d < 32 → vget v.g d (.val 0) = .val (if b.lost then 1 else 0)))) ∧
  (∀ (s : State) (p : Party) (t : Thread) (n phase d waited : Nat) (second : Bool), s.thread? p = some t →
    t.park = some ⟨.barw n phase d, true, waited, second⟩ →
    let limit := if n < 12 then t.btoDie else t.btoPkg
    ((limit = 0 ∨ waited ≤ limit) → exec (.barrierTimeout p) s = .next s) ∧
    (limit ≠ 0 → limit < waited → ∃ ea : Word, ∃ s1 : State, exec (.barrierTimeout p) s =
      .next (s1.takeTrap p 0x15 (if second then 1 else 0) t.pc ea (w64 (n * 16 + 1))) ∧ s1 = { s with freeCount := s1.freeCount })) ∧
  (∀ (s : State) (p : Party) (t : Thread) (n phase waited : Nat) (second again : Bool), s.thread? p = some t →
    t.park = some ⟨.barrier n phase again, false, waited, second⟩ →
    let limit := if n < 12 then t.btoDie else t.btoPkg
    ((again = false ∨ limit = 0 ∨ waited ≤ limit) → exec (.barrierTimeout p) s = .next s) ∧
    (again = true → limit ≠ 0 → limit < waited → s.wakes p t (.barrier n phase again) = false → ∃ ea : Word, ∃ s1 : State,
      exec (.barrierTimeout p) s = .next (s1.takeTrap p 0x15 (if second then 1 else 0) t.pc ea (w64 (n * 16 + 1))) ∧
        s1 = { s with freeCount := s1.freeCount }))

/-- Token routing (19 R282 to R286). ROUTE of a row by a bias word takes replica (bias mod count) of its entry and sends the token, or
gives 3 for an entry without replicas and 4 for a malformed word; TOKEN_ARRIVAL places it in the buffer of the queue named (0) where a
row is free and the spillway empty, else stores its 128 bytes at the tail of the spillway and counts SPILL (1), or refuses it where the
spillway is full or such a store fails (2; the latter is the model's reading, log 27), and where no queue is bound (5), with the
replica's number in the status; a replica word names the queue
bound at its core; TOKEN_DRAINED sets DRAINED when no token of an earlier bank is on its way to the queue; SPTAKE and RTSWAP start, RTSWAP
in supervisor mode alone, and an image that is well formed becomes the next bank. -/
def Obligations.TokenRouting : Prop :=
  (∀ (s s0 s1 : State) (d a b : Reg) (x : Word) (row : Row), s.running →
    (s.src.tile.isSome = true ∨ (s.aliasStream b).isSome = true) → s.checkPoisonGV [a] [b] = .ok () →
    (s.readG a = .ok (x, s0) → s0.readV b = .ok (row, s1) → s1.checkAsync d = .ok () →
      let bank := (s.dieAt s.cur.die).bank
      let e := x.toNat % 256
      let c := ((List.range 4).takeWhile (fun j => (nth bank (4 * e + j) 0).testBit 63)).length
      let j := x.toNat / 2 ^ 8 % 2 ^ 32 % c
      (2 ^ 40 ≤ x.toNat → exec (.route d a b) s = .next (s1.writeG d 4).commit) ∧
      (x.toNat < 2 ^ 40 → c = 0 → exec (.route d a b) s = .next (s1.writeG d 3).commit) ∧
      (x.toNat < 2 ^ 40 → 0 < c → ∃ t, exec (.route d a b) s = .next t ∧ SameBytes s1 t ∧
        Starts s1 t (some d) (.token row (nth bank (4 * e + j) 0) j d.val s1.swaps) [] .rlx .pkg))) ∧
  (∀ (s s1 s2 : State) (d a : Reg) (k : Reg8) (x : Word) (v : Stream), s.running →
    (s.src.sup = false → exec (.rtswap d a) s = .next (s.trapNow 0x03 (if s.issue.second then 1 else 0) s.issue.pc 0 0)) ∧
    (s.src.sup = true → Reads1 s a x s1 → s1.checkAsync d = .ok () →
      (x.getLsbD 63 = true ∨ x.toNat % 256 ≠ 0 ∨ 2 ^ 56 ≤ x.toNat → exec (.rtswap d a) s = .next (s1.writeG d 3).commit) ∧
      (x.toNat < 2 ^ 56 → x.toNat % 256 = 0 → s1.checkGlobal x.toNat 8192 needR = .ok s2 →
        ∃ t, exec (.rtswap d a) s = .next t ∧ Starts s2 t (some d) (.status (.rtswap x.toNat) d.val) [] .rlx .pkg)) ∧
    (s.me.stream? k.val = some v → v.outbound = false → v.words.isSome = true → v.qid.isSome = true → s.checkAsync d = .ok () →
      ∃ t, exec (.sptake d k) s = .next t ∧ Starts s t (some d) (.status (.sptake k.val) d.val) [] .rlx .pkg)) ∧
  (∀ (s s1 : State) (f : Flight) (row : Row) (w k d gen j v : Nat) (p : Party) (x : Stream) (t : Thread),
    s.flight? f.id = some f → f.kind = .token row w k d gen → f.moved = false → s.mayPerform f 0 = true →
    s.earlierToken f w gen = false → 0 < d → d < 32 →
    let gets (s0 u : State) (n : Nat) : Prop := exec (.tokenArrival f.id) s = .next u ∧ u.flight? f.id = none ∧ SameBytes s0 u ∧
      ∀ y : Thread, s0.thread? f.party = some y → y.ctx = f.ctx → vget y.g d (.val 0) = .empty f.id →
        ∃ z, u.thread? f.party = some z ∧ vget z.g d (.val 0) = .val (w64 (n + k * 256))
    (s.queueAt w f.dom gen = none → s.queueSaved w f.dom gen = false → ∃ u, gets s u 5) ∧
    (s.queueAt w f.dom gen = some (p, j, x) → s.placeToken p j x row = (v, s1) → (∃ u, gets s1 u v) ∧ v < 3 ∧
      (v = 0 ↔ x.filled - x.moved < x.depth ∧ x.spHead = x.spTail ∧ x.bad = []) ∧
      (v = 1 → x.spTail - x.spHead < x.spRows ∧ (s.revs = [] →
        ∃ e : Flight, e.kind = .store ∧ e.party = p ∧ e.dom = x.dom ∧ e.rev = 0 ∧ StoresInTurn s s1 e
          ((x.word 5) % 2 ^ 56 + 128 * (x.spTail % x.spRows)) 16
          ((List.range 8).map (fun i => row.toNat / 2 ^ (128 * i) % 2 ^ 128))) ∧
        (s1.core p).ev[11] = satAdd32 (s.core p).ev[11] 1 ∧
        (j < 8 → s.thread? p = some t → ∃ z y, s1.thread? p = some z ∧ z.stream? j = some y ∧ y.spTail = x.spTail + 1 ∧
          y.filled = x.filled)) ∧
      (v = 2 → (x.spRows ≤ x.spTail - x.spHead → s1 = s) ∧
        (x.spTail - x.spHead < x.spRows → (s.spill p (s.thread p).ctx x row).1 = false)) ∧
      (v = 0 → j < 8 → x.claims = [] → s.thread? p = some t → s1.readSram (x.rowByte x.filled) 128 = row.toNat ∧
        s1.mem = s.mem ∧ ∃ z y, s1.thread? p = some z ∧ z.stream? j = some y ∧ y.filled = x.filled + 1))) ∧
  (∀ (s : State) (die core qid k : Nat) (p : Party) (x : Stream), s.tokenQueue die core qid = some (p, k, x) → k < 8 →
    ∃ u, exec (.tokenDrained die core qid) s = .next u ∧ SameBytes s u ∧
      let early (f : Flight) : Prop := ∃ row w n d gen y, f.kind = .token row w n d gen ∧ gen < s.swaps ∧
        s.tokenTarget w gen = some (p, k, y)
      ((∀ f ∈ s.flights, ¬ early f) → ∃ t y, u.thread? p = some t ∧ t.stream? k = some y ∧ y = { x with drained := true }) ∧
      ((∃ f ∈ s.flights, early f) → u = s)) ∧
  (∀ (s : State) (w gen : Nat),
    (s.queuesBeyond w gen = [] → s.tokenTarget w gen = s.tokenQueue (w / 2 ^ 8 % 2 ^ 4) (w % 256) (w / 2 ^ 12 % 4)) ∧
    (∀ op (p : Party) (t : Thread) k y, s.queuesBeyond w gen = [op] → s.queueMoving w gen = false → (p, t) ∈ s.contexts → k < 8 →
      t.stream? k = some y → y.op = op → y.qid = some (w / 2 ^ 12 % 4) → ∃ z, s.tokenTarget w gen = some z ∧ z.2.2.op = op)) ∧
  (∀ (s s1 : State) (f : Flight) (a d : Nat) (rows : List Nat), s.flight? f.id = some f →
    f.kind = .status (.rtswap a) d → s.mayPerform f 0 = true → s.swapPending = false →
    s.readRows f a (List.range 64) = (.ok rows, s1) →
    let bank := rows.flatMap (fun v => (List.range 16).map (fun i => v / 2 ^ (64 * i) % 2 ^ 64))
    ∃ u, exec (.loadReply f.id 0) s = .next u ∧ SameBytes s1 u ∧ u.flight? f.id = none ∧
      (bankOk bank = true → u.swapPending = true ∧ ∀ die, (s1.dieAt die).started = true → (u.dieAt die).bankNext = some bank) ∧
      (bankOk bank = false → u.swapPending = s1.swapPending ∧ u.dies = s1.dies))

/-- Revisions (21 R294 to R296, R298 to R303, R308). REGION reads its descriptor once the thread's earlier accesses are over, traps on one
outside Tables 21.1 and 21.2, and starts; its status enters or removes the region, or is 1 to 4 and leaves the domain's table as it was.
FORK starts; its status is the lowest number not held, whose record names the parent, or the code of the limit met, and nothing is forked.
JOIN of a child that its thread holds parks while anything uses it, and then ends its life and starts the stitch of the elements that it
changed; of anything else it gives all ones. JOIN_STITCH writes one element's result by Table 21.2 into the parent's view and counts its
conflict, or poisons its granule where a value has an error; JOIN_COMPLETE, once every element is stitched, gives the conflicts and frees
the number. REVQ reads a record or the capacity. REVISION_DISCARD drops an abandoned revision that nothing uses. The model's readings:
which numbers and lines FORK has (log 28), REGION's descriptor and a free EADDR (log 64), which elements a stitch visits (log 68). -/
def Obligations.Revisions : Prop :=
  (∀ (s s1 s2 s3 s4 : State) (d a : Reg) (x : Word) (l : Loc) (v : Nat), s.running →
    let traps (cause : Nat) (ea info : Word) : Host.Outcome State Fault Refusal :=
      .next (s.trapNow cause (if s.issue.second then 1 else 0) s.issue.pc ea info)
    (Reads1 s a x s1 →
      (x.toNat % 32 ≠ 0 → exec (.region d a) s = traps 0x06 x 0x04) ∧
      (x.toNat % 32 = 0 → s1.checkAccess x.toNat 32 32 needR = .ok (l, s2) →
        (s2.earlierDone s2.src.ctx s2.nextOp true true = false →
          exec (.region d a) s = .next (s.parkBefore (.earlier true true s2.nextOp))) ∧
        (s2.earlierDone s2.src.ctx s2.nextOp true true = true →
          s2.readPart s2.issueFlight (s2.loadPart x.toNat l 32) = (.ok v, s3) →
          let w (i : Nat) : Nat := v / 2 ^ (64 * i) % 2 ^ 64
          let r : Region := ⟨w 0 % 2 ^ 56, w 1 % 2 ^ 37, w 1 / 2 ^ 40 % 16, w 1 / 2 ^ 44 % 4⟩
          let formed := w 0 < 2 ^ 56 ∧ r.base % 64 = 0 ∧ w 1 / 2 ^ 37 % 8 = 0 ∧ w 1 < 2 ^ 46 ∧ w 2 = 0 ∧ w 3 = 0 ∧
            r.len % 64 = 0 ∧ 64 ≤ r.len ∧ r.len ≤ 2 ^ 36
          let typed := r.stitch < 10 ∧ ((r.stitch = 4 ∨ r.stitch = 9) → r.esize ≠ 0)
          (¬ formed → exec (.region d a) s = traps 0x06 x 0x04) ∧
          (formed → ¬ typed → ∃ ea, exec (.region d a) s = traps 0x19 ea (w64 (r.stitch + r.esize * 16))) ∧
          (formed → typed → (if r.stitch = 0 then s4 = s3 else s3.checkGlobal r.base r.len (needR + needW) = .ok s4) →
            s4.checkAsync d = .ok () → ∃ t, exec (.region d a) s = .next t ∧
              Starts s4 t (some d) (.status (.region [w 0, w 1, w 2, w 3]) d.val) [] .rlx .pkg)))) ∧
    (s.checkRelease = .ok () → s.checkAsync d = .ok () → ∃ t, exec (.fork d) s = .next t ∧
      Starts s t (some d) (.status .fork d.val) [] .rlx .pkg) ∧
    (Reads1 s a x s1 →
      (x.toNat < 2 ^ 13 → s1.checkAsync d = .ok () → ∃ t, exec (.revq d a) s = .next t ∧
        Starts s1 t (some d) (.status (.revq x.toNat) d.val) [] .rlx .pkg) ∧
      (2 ^ 13 ≤ x.toNat → exec (.revq d a) s = traps 0x06 x 0x04) ∧
      (2 ^ 12 ≤ x.toNat → exec (.join d a) s = traps 0x06 x 0x04)) ∧
    (Reads1 s a x s1 → x.toNat < 2 ^ 12 →
      let mine := x ≠ 0 ∧ ∃ r, tget s1.revs x.toNat = some r ∧ r.hold = true ∧ r.owner = s1.src.ctx
      (mine → s1.uses x.toNat ≠ 0 → exec (.join d a) s = .next (s.parkBefore (.joinUses x.toNat))) ∧
      (s1.checkRelease = .ok () → s1.checkAsync d = .ok () →
        (¬ mine → exec (.join d a) s = .next (s1.writeG d 0xFFFFFFFFFFFFFFFF).commit) ∧
        (∀ r0, mine → s1.uses x.toNat = 0 → tget s1.revs x.toNat = some r0 → ∃ t f r j, exec (.join d a) s = .next t ∧
          t.issue.last = .done ∧ SameBytes s1 t ∧ (d ≠ 0 → t.me.g[d] = .empty s1.nextOp) ∧ t.flights = s1.flights ++ [f] ∧
          f.kind = .status (.join x.toNat) d.val ∧ f.id = s1.nextOp ∧ f.ctx = s1.src.ctx ∧ tget t.revs x.toNat = some r ∧
          r = { r0 with live := false, hold := false, joining := some j } ∧ j.op = s1.nextOp ∧ j.conflicts = 0 ∧
          j.todo = none ∧ ∀ k, k ≠ x.toNat → tget t.revs k = tget s1.revs k))) ∧
    (∀ r j, s.joinTodo r j = j.todo.getD (s.changedIn r)) ∧
    (∀ r e, e ∈ s.changedIn r ↔ ∃ y ∈ r.view, ∃ g i, s.regionOf r.dom (y.2.line * 64) = some g ∧
      let n := 2 ^ g.esize
      let old := (tget r.anc y.1).getD (s.lineIn r.parent y.1)
      i < 64 / n ∧ e = (y.2.line * 64 + i * n, y.1 * 64 + i * n, n, g.stitch) ∧
        (y.2.poison.testBit (i * n / 16) = true ∨ old.poison.testBit (i * n / 16) = true ∨
          y.2.data / 2 ^ (8 * n * i) % 2 ^ (8 * n) ≠ old.data / 2 ^ (8 * n * i) % 2 ^ (8 * n))) ∧
    (∀ c, s.uses c = 0 ↔ (∀ e ∈ s.threads, e.2.revNo ≠ c) ∧ (∀ e ∈ s.saved, e.thread.revNo ≠ c) ∧
      (∀ e ∈ s.launches, e.2.dead = false → nth e.2.words 5 0 / 2 ^ 44 % 2 ^ 12 ≠ c) ∧
      (∀ e ∈ s.pendingRevs, e.2.2.2 ≠ c) ∧ ∀ e ∈ s.revs, e.2.parent ≠ c)) ∧
  (∀ (s : State) (f : Flight) (d : Reg) (ws : List Nat) (q : Nat), s.flight? f.id = some f → s.mayPerform f 0 = true →
    let answers (t : State) (v : Nat) : Prop := exec (.loadReply f.id 0) s = .next t ∧ t.flight? f.id = none ∧ SameBytes s t ∧
      ∀ u, s.thread? f.party = some u → u.ctx = f.ctx → d ≠ 0 → u.g[d] = .empty f.id →
        ∃ w, t.thread? f.party = some w ∧ w.g[d] = .val (w64 v)
    let reserved := (s.revs.map (fun e => e.2.reserved)).sum
    let left := portWord s 3 % 2 ^ 48 / 64 - reserved
    let need := 2 * (s.revisionedBytes (tgetD s.regions f.dom []) / 64)
    let depth := if f.rev = 0 then 0 else ((tget s.revs f.rev).map (fun r => r.depth)).getD 0
    (f.kind = .status .fork d.val →
      let none_ (v : Nat) : Prop := ∃ t, answers t v ∧ t.revs = s.revs
      (depth = 15 → none_ (2 ^ 64 - 3)) ∧
      (depth ≠ 15 → 4096 ≤ s.revs.length + 1 → none_ (2 ^ 64 - 2)) ∧
      (depth ≠ 15 → s.revs.length + 1 < 4096 → left < need → none_ (2 ^ 64 - 1)) ∧
      (depth ≠ 15 → s.revs.length + 1 < 4096 → need ≤ left → ∃ t c, answers t c ∧ 0 < c ∧ c < 4096 ∧ tget s.revs c = none ∧
        (∀ k, 0 < k → k < c → (tget s.revs k).isSome = true) ∧ (∀ k, k ≠ c → tget t.revs k = tget s.revs k) ∧
        tget t.revs c = some ⟨f.dom, f.rev, depth + 1, f.ctx, f.id, true, true, false, need, [], [], none⟩)) ∧
    (f.kind = .status (.region ws) d.val →
      let r := Region.ofWords ws
      let rs := tgetD s.regions f.dom []
      let gives (v : Nat) (l : List Region) : Prop := ∃ t, answers t v ∧ tgetD t.regions f.dom [] = l ∧
        ∀ k, k ≠ f.dom → tgetD t.regions k [] = tgetD s.regions k []
      let busy := f.rev ≠ 0 ∨ ∃ e ∈ s.revs, e.2.dom = f.dom
      let meets := ∃ x ∈ rs, overlap r.base r.len x.base x.len = true
      (busy → gives 3 rs) ∧
      (¬ busy → r.stitch = 0 →
        ((∃ x ∈ rs, x.base = r.base) → gives 0 (rs.filter (fun x => x.base != r.base))) ∧
        ((∀ x ∈ rs, x.base ≠ r.base) → gives 2 rs)) ∧
      (¬ busy → r.stitch ≠ 0 →
        (meets → gives 2 rs) ∧ (¬ meets → 16 ≤ rs.length → gives 1 rs) ∧
        (¬ meets → rs.length < 16 → 2 ^ 36 < s.revisionedBytes (rs ++ [r]) → gives 4 rs) ∧
        (¬ meets → rs.length < 16 → s.revisionedBytes (rs ++ [r]) ≤ 2 ^ 36 → gives 0 (rs ++ [r])))) ∧
    (f.kind = .status (.revq q) d.val →
      let c := q % 4096
      let kids (mine : Rev → Bool) : Nat := (s.revs.filter (fun e => decide (e.2.parent = c) && e.2.hold && mine e.2)).length
      let flag (b : Bool) (n : Nat) : Nat := if b then 2 ^ n else 0
      (q.testBit 12 = true → ∃ t, answers t left ∧ t.revs = s.revs) ∧
      (q.testBit 12 = false → c = 0 → ∃ t, t.revs = s.revs ∧
        answers t (2 ^ 63 + 2 ^ 62 + f.dom % 128 * 2 ^ 32 + kids (fun e => decide (e.owner = f.ctx)))) ∧
      (q.testBit 12 = false → c ≠ 0 → tget s.revs c = none → ∃ t, answers t 0 ∧ t.revs = s.revs) ∧
      (∀ r, q.testBit 12 = false → c ≠ 0 → tget s.revs c = some r →
        (f.sup = false → r.dom ≠ f.dom → ∃ t, answers t 0 ∧ t.revs = s.revs) ∧
        (f.sup = true ∨ r.dom = f.dom → ∃ t, t.revs = s.revs ∧
          answers t (flag r.live 63 + 2 ^ 62 + flag (decide (r.owner = f.ctx)) 61 + flag r.abandoned 60 + r.depth % 16 * 2 ^ 56 +
            r.parent % 4096 * 2 ^ 44 + r.dom % 128 * 2 ^ 32 + Min.min (s.uses c + if r.hold then 1 else 0) 65535 * 2 ^ 16 +
            kids (fun _ => true)))))) ∧
  (∀ (s : State) (rs : List Region), (∀ r ∈ rs, r.len % 64 = 0) →
    ((∀ r ∈ rs, ∀ va, r.base ≤ va → va < r.base + r.len → ∃ l, s.walk va = .ok l ∧ l.revd = true ∧ l.attr ≠ 3) →
      s.revisionedBytes rs = (rs.map (fun r => r.len)).sum) ∧
    ((∀ r ∈ rs, ∀ va l, r.base ≤ va → va < r.base + r.len → s.walk va = .ok l → l.revd = false ∨ l.attr = 3) →
      s.revisionedBytes rs = 0)) ∧
  (∀ (s s1 : State) (c va pa n st : Nat) (r : Rev) (j : Joining) (f : Flight), tget s.revs c = some r → r.joining = some j →
    s.flight? j.op = some f →
    let runs := s.mayPerform f 0 = true ∧
      (∀ e ∈ s.revs, e.2.parent = r.parent → ∀ k, e.2.joining = some k → k.order < j.order → k.todo = some []) ∧
      ∀ t, s.ctxThread j.ctx = some t → ∀ h ∈ t.held, ∀ q w z, h.what = .stitch q w z → q ≠ c
    (¬ runs → exec (.joinStitch c va) s = .next s ∧ exec (.joinComplete c) s = .next s) ∧
    let list := s.joinTodo r j
    let place := ((s.findCtx j.ctx).map (fun e => e.1)).getD j.party
    (list ≠ [] → exec (.joinComplete c) s = .next s) ∧
    (runs → list = [] → ∃ t, exec (.joinComplete c) s = .next t ∧ SameBytes s t ∧ tget t.revs c = none ∧
      (∀ k, k ≠ c → tget t.revs k = tget s.revs k) ∧ t.flight? f.id = none ∧ ∀ (d : Reg) w, f.kind = .status (.join c) d.val →
        d ≠ 0 → s.thread? place = some w → w.ctx = f.ctx → w.g[d] = .empty f.id →
          ∃ v, t.thread? place = some v ∧ v.g[d] = .val (w64 j.conflicts)) ∧
    (runs → list.find? (fun e => e.1 == va) = some (va, pa, n, st) →
      (∀ k u, s.translate (Party.clusterKey place) va r.parent true (s.launchOf place) = (.error k, s1) →
        s1.ctxThread j.ctx = some u → u.quitting = false → ∃ t v, exec (.joinStitch c va) s = .next t ∧ SameBytes s1 t ∧
          t.revs = s1.revs ∧ t.ctxThread j.ctx = some v ∧ v.held.take (u.held.length + 1) = u.held ++ [⟨.stitch c f.iaddr va, k, f.id, 16⟩]) ∧
      (∀ y, s.translate (Party.clusterKey place) va r.parent true (s.launchOf place) = (.ok y, s1) →
        (n = 1 ∨ n = 2 ∨ n = 4 ∨ n = 8) → pa % n = 0 → 0 < c → c ≠ r.parent → tget s1.revs c = some r →
        (r.parent = 0 ∨ (tget s1.revs r.parent).isSome = true) →
        let pl := pa / 64
        let i := pa % 64 / 16
        let p := s1.lineIn r.parent pl
        let a := (tget r.anc pl).getD p
        let x := s1.lineIn c pl
        let elem (z : VLine) : Nat := z.data / 2 ^ (8 * (pa % 64)) % 2 ^ (8 * n)
        let good := p.poison.testBit i = false ∧ a.poison.testBit i = false ∧ x.poison.testBit i = false
        let clash := (st = 1 ∨ st = 2) ∧ elem p ≠ elem a ∧ elem p ≠ elem x
        let stitched (t : State) (k : Nat) : Prop := exec (.joinStitch c va) s = .next t ∧
          ∃ y, tget t.revs c = some y ∧ y.joining = some { j with todo := some (list.filter (fun e => e.1 != va)), conflicts := k }
        (good → ∃ t, stitched t (j.conflicts + (if clash then 1 else 0)) ∧
          elem (t.lineIn r.parent pl) = (stitchOf st n (elem a) (elem p) (elem x)).1 % 2 ^ (8 * n) ∧
          ∀ k < 64, (k < pa % 64 ∨ pa % 64 + n ≤ k) →
            (t.lineIn r.parent pl).data / 2 ^ (8 * k) % 256 = p.data / 2 ^ (8 * k) % 256) ∧
        (¬ good → ∃ t u, stitched t j.conflicts ∧ SameBytes s1 u ∧ (u.lineIn r.parent pl).poison.testBit i = true ∧
          SameBytes (u.postMemError r.dom 0x14 none (some (pa / 16 * 16))) t)))) ∧
  (∀ (n a p c : Nat), (n = 1 ∨ n = 2 ∨ n = 4 ∨ n = 8) → a < 2 ^ (8 * n) → p < 2 ^ (8 * n) → c < 2 ^ (8 * n) →
    stitchOf 1 n a p c = (c, []) ∧ stitchOf 2 n a p c = (if p = a then c else p, []) ∧
    ((stitchOf 3 n a p c).1 : Int) = ((p : Int) + c - a) % 2 ^ (8 * n) ∧ (stitchOf 3 n a p c).1 < 2 ^ (8 * n) ∧
    ((stitchOf 5 n a p c).1 = p ∨ (stitchOf 5 n a p c).1 = c) ∧ ((stitchOf 6 n a p c).1 = p ∨ (stitchOf 6 n a p c).1 = c) ∧
    signedOf (8 * n) (stitchOf 5 n a p c).1 = Max.max (signedOf (8 * n) p) (signedOf (8 * n) c) ∧
    signedOf (8 * n) (stitchOf 6 n a p c).1 = Min.min (signedOf (8 * n) p) (signedOf (8 * n) c) ∧
    stitchOf 7 n a p c = (Max.max p c, []) ∧
    (∀ i, ((stitchOf 8 n a p c).1).testBit i = if a.testBit i = c.testBit i then p.testBit i else c.testBit i) ∧
    ∀ F : FpShape, ((n = 2 ∧ F = .bf16) ∨ (n = 4 ∧ F = .fp32) ∨ (n = 8 ∧ F = .fp64)) →
      let d := F.sub .rne 0 (F.read c) (F.read a)
      (stitchOf 4 n a p c).1 = (F.add .rne 0 (F.read p) (F.read d.1)).1 ∧
      (stitchOf 4 n a p c).2 = d.2 ++ (F.add .rne 0 (F.read p) (F.read d.1)).2 ∧
      stitchOf 9 n a p c = F.minMax true p c) ∧
  (∀ (s : State) (c : Nat) (r : Rev), tget s.revs c = some r →
    (r.abandoned = true → s.uses c = 0 → exec (.revisionDiscard c) s = .next { s with revs := terase s.revs c }) ∧
    (r.abandoned = false ∨ s.uses c ≠ 0 → exec (.revisionDiscard c) s = .next s))

/-! ### Launches, gangs, rings and codelets -/

/-- Launches (03 R29 to R37; 09 R124, R125). LAUNCH starts an append, which gives …FFFD for a malformed operand, …FFFE for a SIZE above
12, …FFFF where the ring is full, …FFFC without the right to the place, and else writes the record at TAIL, adds 1 to TAIL and gives the
old TAIL. SCHEDULER_ACCEPT takes the record at HEAD and adds 1 to HEAD, rejects what it cannot read (reason 0x0A), an overfull ring (0x0B)
and a malformed entry (0x01), and leaves an empty ring. WAIT_WORD_READ marks an entry whose word has reached its value, and clears one
whose word no longer has until the launch is eligible. HOST_REASON_WRITE of 0 tries the ring again and of 0xFF drops the record.
BLOCK_DISPATCH starts the block of the head that Select names where it fits; each thread of a gang starts in a free slot of its core at
the record's PC with its WID, ARG, DOMAIN and REV and with all else as a start gives it, and the gang's polders, zeroed, are windows 1
and up of its first core; a block that has failed to fit 64 times in a row bars every other of the partition. GANG_RETIRE counts a gang
that is over and retires the launch of the last. That a stopped queue still accepts (log 72) and bars no other (log 101) is the model's
reading. -/
def Obligations.LaunchesAndGangs : Prop :=
  (∀ (s s1 s2 s3 : State) (d a b : Reg) (x y : Word) (l : Loc), s.running → s.checkRelease = .ok () → Reads2 s a b x y s1 →
    x.getLsbD 63 = false → s1.checkGlobal (x.toNat / 128 * 128 + 16 * (x.toNat % 4)) 16 (needR + needW) = .ok s2 →
    s2.checkAccess y.toNat 96 1 needR = .ok (l, s3) → s3.checkAsync d = .ok () →
    ∃ t, exec (.launch d a b) s = .next t ∧
      Starts s3 t (some d) (.status (.launch x.toNat y.toNat) d.val) [mkPart y.toNat l 96 0] .rlx .sys) ∧
  (∀ (s s1 s2 s3 s4 s5 : State) (f : Flight) (ga gb d v w : Nat) (q : Part), s.flight? f.id = some f →
    f.kind = .status (.launch ga gb) d → s.mayPerform f 0 = true → f.parts = [q] →
    let gives (u : State) (n : Nat) : Prop := exec (.loadReply f.id 0) s = .next (u.statusArrive f d (.val (w64 n)))
    let own : Flight := { f with kind := .load (.tile 0) }
    let base : Flight := { own with rev := 0 }
    let e := ga / 128 * 128 + 16 * (ga % 4)
    let size := 2 ^ bits v 59 56
    let tail := bits v 95 64
    let due := (tail + 2 ^ 32 - bits v 127 96) % 2 ^ 32
    let at_ := bits v 55 0 + 96 * (tail % size)
    (bits ga 6 2 ≠ 0 ∨ gb % 32 ≠ 0 → gives s 0xFFFFFFFFFFFFFFFD) ∧
    (bits ga 6 2 = 0 → gb % 32 = 0 → s.readPart base (mkPart e (.va e) 16 0) = (.ok v, s1) →
      (12 < bits v 59 56 → gives s1 0xFFFFFFFFFFFFFFFE) ∧
      (bits v 59 56 ≤ 12 → size ≤ due → gives s1 0xFFFFFFFFFFFFFFFF) ∧
      (bits v 59 56 ≤ 12 → due < size → s1.readPieces own gb q.loc [0, 1, 2] = (.ok w, s2) →
        (s2.unitCheck (Party.coreKey f.party) f.dom f.sup needW at_ 96 4 = (false, s3) → gives s3 0xFFFFFFFFFFFFFFFC) ∧
        (s2.unitCheck (Party.coreKey f.party) f.dom f.sup needW at_ 96 4 = (true, s3) →
          s3.writePieces base at_ w [0, 1, 2] = (none, s4) → s4.homeWrite base (e + 8) 4 ((tail + 1) % 2 ^ 32) = (none, s5) →
          ∃ u, gives u tail ∧ { u with pendingRevs := s5.pendingRevs } = s5 ∧
            (recRev (wordsOf w 12) ≠ 0 → (ga / 128 * 128, ga % 4, tail, recRev (wordsOf w 12)) ∈ u.pendingRevs))))) ∧
  (∀ (s s2 : State) (qn prio e : Nat) (q : LQueue) (w : List Nat), s.queue qn = some q → prio < 4 →
    (∀ r ∈ q.rejects, r.prio ≠ prio) → s.acceptedOn q.die < 64 → s.schedRead (q.qcb + 16 * prio) 16 = .ok e →
    bits e 59 56 ≤ 12 → bits e 63 60 = 0 →
    let head := bits e 127 96
    let due := (bits e 95 64 + 2 ^ 32 - head) % 2 ^ 32
    let entry := bits e 55 0 + 96 * (head % 2 ^ bits e 59 56)
    let turnsDown (reason : Nat) : Prop :=
      exec (.schedulerAccept qn prio) s = .next ((s.keepHead qn prio head).reject qn prio reason head none)
    (due = 0 → exec (.schedulerAccept qn prio) s = .next s) ∧
    (0 < due → s.readRecord entry = none → turnsDown 0x0A) ∧
    (s.readRecord entry = some w → 2 ^ bits e 59 56 < due → turnsDown 0x0B) ∧
    (0 < due → due ≤ 2 ^ bits e 59 56 → s.readRecord entry = some w →
      s.schedWrite (q.qcb + 16 * prio + 12) 4 ((head + 1) % 2 ^ 32) = some s2 →
      let q1 : LQueue := { q with launches := q.launches ++ [s2.nextLaunch], heads := tset q.heads prio ((head + 1) % 2 ^ 32) }
      ∃ u, u.queue qn = some q1 ∧
        tget u.launches s2.nextLaunch = some ⟨qn, prio, head, w, [], 0, 0, false⟩ ∧ u.mem = s2.mem ∧ u.threads = s2.threads ∧
        (∀ r, u.recordReason q1 w = some r →
          exec (.schedulerAccept qn prio) s = .next (u.reject qn prio r head (some s2.nextLaunch))) ∧
        (u.recordReason q1 w = none → usedWaits w = [] → exec (.schedulerAccept qn prio) s = .next u))) ∧
  (∀ (s : State) (qn prio k h e : Nat) (q : LQueue), s.queue qn = some q → prio < 4 →
    (∀ r ∈ q.rejects, r.prio ≠ prio) → s.acceptedOn q.die < 64 →
    (s.schedRead (q.qcb + 16 * prio) 16 = .error k → tget q.heads prio = some h →
      exec (.schedulerAccept qn prio) s = .next (s.reject qn prio 0x0A h none)) ∧
    (s.schedRead (q.qcb + 16 * prio) 16 = .ok e → bits e 95 64 ≠ bits e 127 96 → (12 < bits e 59 56 ∨ bits e 63 60 ≠ 0) →
      exec (.schedulerAccept qn prio) s =
        .next ((s.keepHead qn prio (bits e 127 96)).reject qn prio 0x01 (bits e 127 96) none))) ∧
  (∀ (s : State) (id i v : Nat) (l : Launch), tget s.launches id = some l → l.dead = false → i < 4 → recWait l.words i ≠ 0 →
    (l.eligible = true → exec (.waitWordRead id i) s = .next s) ∧
    (l.eligible = false → s.regionRights (recDom l.words) false needR 2 (recWait l.words i) (recWait l.words i + 4) = true →
      s.schedRead (recWait l.words i) 4 = .ok v →
      ((v + 2 ^ 32 - recVal l.words i) % 2 ^ 32 < 2 ^ 31 →
        (i ∈ l.matched → exec (.waitWordRead id i) s = .next s) ∧
        (i ∉ l.matched → exec (.waitWordRead id i) s =
          .next { s with launches := tset s.launches id { l with matched := l.matched ++ [i] } })) ∧
      (2 ^ 31 ≤ (v + 2 ^ 32 - recVal l.words i) % 2 ^ 32 →
        (i ∉ l.matched → exec (.waitWordRead id i) s = .next s) ∧
        (i ∈ l.matched → exec (.waitWordRead id i) s =
          .next { s with launches := tset s.launches id { l with matched := l.matched.erase i } })))) ∧
  (∀ (s s1 s2 s3 : State) (qn : Nat) (q : LQueue) (r : Reject), s.queue qn = some q → q.rejects = [r] → r.reported = true →
    r.accepted = none →
      (s.schedWrite (q.qcb + 0x40) 1 0 = some s1 →
        exec (.hostReasonWrite qn 0) s = .next (s1.setQueue qn { q with rejects := [] })) ∧
      (∀ h, s.schedWrite (q.qcb + 0x40) 1 0xFF = some s1 →
        (s1.setQueue qn { q with rejects := [] }).schedRead (q.qcb + 16 * r.prio + 12) 4 = .ok h →
        ((s1.setQueue qn { q with rejects := [] }).keepHead qn r.prio ((h + 1) % 2 ^ 32)).schedWrite
          (q.qcb + 16 * r.prio + 12) 4 ((h + 1) % 2 ^ 32) = some s2 →
        s2.schedWrite (q.qcb + 0x40) 1 0 = some s3 → exec (.hostReasonWrite qn 0xFF) s = .next s3)) ∧
  (∀ (s s1 : State) (qn : Nat) (q : LQueue), s.queue qn = some q →
    let barred := ∃ e ∈ s.queues, e.1 ≠ qn ∧ e.2.stopped = false ∧ e.2.sharesWith q = true ∧ ∃ x ∈ e.2.fails, 64 ≤ x.2 ∧
      x.1 ∈ e.2.launches ∧ ∃ l, tget s.launches x.1 = some l ∧ l.dead = false
    (q.stopped = true ∨ q.current = false ∨ barred → exec (.blockDispatch qn) s = .next s) ∧
    (q.stopped = false → q.current = true → ¬ barred → q.fails = [] →
      (select q.selC (fun j => (s.headOf q j).isSome) = none → exec (.blockDispatch qn) s = .next s) ∧
      (∀ j id l, select q.selC (fun j => (s.headOf q j).isSome) = some j → s.headOf q j = some (id, l) →
        s.startBlock qn q id l l.blockLeft l.started = some s1 →
        ∃ u q1, exec (.blockDispatch qn) s = .next u ∧ u.threads = s1.threads ∧ SameBytes s1 u ∧ u.queue qn = some q1 ∧
          q1.selC = dispatched q.selC j ∧ tget u.launches id = some { l with started := l.started + l.blockLeft } ∧
          (∀ i, i ≠ id → (i ∈ q1.launches ↔ i ∈ q.launches)) ∧
          (id ∈ q1.launches → l.started + l.blockLeft < recCount l.words)))) ∧
  (∀ (s : State) (qn id gang die c g : Nat) (q : LQueue) (w : List Nat), c < 32 → (g + 1) * recCores w ≤ 8 →
    s.groupFits (recShape w) die c g = true → recPolders w ≤ (s.freePolders (die * 32 + c)).length →
    let u := s.startGang qn q id w gang die c g
    let core (i : Nat) : Nat := Config.coreAt c (g * recCores w + i)
    let taken := (s.freePolders (die * 32 + c)).take (recPolders w)
    (∀ i j, i < recCores w → j < recSlots w → ∃ sl v, (s.freeSlots die (core i))[j]? = some sl ∧
      u.thread? ⟨die, core i, sl⟩ = some v ∧ v.pc.toNat = bits (nth w 0 0) 55 0 ∧ v.wid.toNat = (gang * 128 + i * 16 + j) % 2 ^ 64 ∧
      v.wfmt.toNat = bits (nth w 4 0) 35 0 ∧ v.fmta.toNat = bits (nth w 0 0) 61 56 ∧ v.fmtb.toNat = bits (nth w 1 0) 61 56 ∧
      v.arg.toNat = bits (nth w 1 0) 55 0 ∧ v.domain.toNat = recDom w ∧ v.rev.toNat = recRev w ∧ v.tvec = q.tvec ∧
      v.sup = false ∧ wbit v.status stIe = false ∧ v.unit = s.nextUnit ∧ v.ctx = s.nextCtx + i * recSlots w + j ∧
      vget v.g 2 (.val 0) = .val (stackTop sl) ∧ (∀ r, r ≠ 2 → r < 32 → vget v.g r (.val 0) = .val 0) ∧
      (∀ r : Reg8, v.q[r] = .val 0) ∧ v.epc = 0 ∧ v.ecause = 0 ∧ v.eaddr = 0 ∧ v.einfo = 0 ∧ v.tcmp = 0 ∧ v.mfault = 0 ∧
      v.btoDie = 0 ∧ v.btoPkg = 0 ∧ v.tile = none ∧ (∀ k, v.stream? k = none ∧ v.chan? k = none) ∧ v.park = none ∧
      v.readyAt = s.clock die + 1) ∧
    (∀ k < recPolders w, ∃ n, taken[k]? = some n ∧
      u.window? ⟨die, core 0, 0⟩ (k + 1) = some ⟨.opened, n, recDom w, s.nextUnit, none⟩ ∧
      u.attachOf n = ⟨.attached, k + 1, Config.posOf (core 0), 0, false, 0, Config.posOf (core 0), 0, recDom w, (s.attachOf n).count⟩ ∧
      ∀ b < 65536, Memory.read u.sram (polderBase n + b) = 0) ∧
    (∀ a, (∀ n ∈ taken, a < polderBase n ∨ polderBase n + 65536 ≤ a) → Memory.read u.sram a = Memory.read s.sram a) ∧
    u.mem = s.mem ∧ u.wmem = s.wmem ∧
    ∃ y, u.work s.nextUnit = some y ∧ y.launch = some id ∧ y.queue = some qn ∧ y.index = gang ∧ y.st = .running ∧
      y.members.length = recCores w * recSlots w) ∧
  (∀ (s : State) (u : Nat) (w : Work), s.work u = some w →
    (s.unitDone u = false → exec (.gangRetire u) s = .next s) ∧
    (s.unitDone u = true →
      let s1 : State := { s.dropWindows u with units := terase s.units u }
      (w.launch = none → exec (.gangRetire u) s = .next s1) ∧
      (∀ id l, w.launch = some id → tget s.launches id = some l →
        let last := (if l.dead then l.started else recCount l.words) ≤ l.retired + 1
        (¬ last → exec (.gangRetire u) s =
          .next { s1 with launches := tset s1.launches id { l with retired := l.retired + 1 } }) ∧
        (last → ∃ t, exec (.gangRetire u) s = .next t ∧ tget t.launches id = none ∧ t.work u = none ∧
          t.eventSeq = (if l.dead then s1.harvestLaunch id else (s1.harvestLaunch id).addCflag l).eventSeq + 1 ∧
          SameBytes (if l.dead then s1.harvestLaunch id else (s1.harvestLaunch id).addCflag l) t))))

/-- Ready rings, codelets and tenants (03 R43 to R45, R48; 09 R126 to R129). RPUSH puts a descriptor's offset in its ring and gives 1, or
0 where the ring is full, counting no RINGOVF (log 104, the model's reading); RPOP gives the head of the ring named, or of the one that Select names, or 0. CDEC starts a decrement;
CDEC_PERFORM takes 1 from the count and pushes the descriptor where the count becomes 0, or sets OVF and reports a full ring.
CODELET_START pops a ring into an idle slot, in its place among the ring operations of the cycle, and starts the codelet with PC, g3, g4,
DOMAIN and REV of its descriptor, with a trap due where the descriptor is malformed. That a stopped queue starts no codelet is the model's
choice (log 101). TENANT_SLICE_END makes the other tenant current when the slice is over, and each slot that either uses changes;
TENANT_SLOT_CHANGE changes a slot that the rotation reaches, or has reached: it saves the outgoing context, which issues no more, waits
while it cannot be saved, and resumes the incoming one; at its turn, it takes the turn. An operand of these words that an earlier access
of the core is to change parks them before they issue (log 124, the model's reading). -/
def Obligations.RingsCodeletsTenants : Prop :=
  (∀ (s s1 : State) (d a : Reg) (x : Word), s.running → Reads1 s a x s1 → s1.checkDest d = .ok () →
    let ck := Party.coreKey s.cur
    (x.toNat < 65536 → x.toNat % 32 = 0 → 0x4000 ≤ x.toNat → s1.checkPort (.sram (homeByte s.cur x.toNat)) 8 false = .ok () →
      ∀ w s2 s3, s1.readNow (.sram (homeByte s.cur x.toNat)) 8 = (w, s2) → s2.popFirst = s3 →
      let i := bits w 57 56
      let r := vget (s3.coreAt ck).rings i (0, 0)
      let e := 0x200 * i + 8 * (r.2 % 64)
      (64 ≤ r.2 - r.1 → exec (.rpush d a) s = .next (s3.writeG d 0).commit) ∧
      (r.2 - r.1 < 64 → ∃ (u : State) (f g : Flight), exec (.rpush d a) s = .next (u.writeG d 1).commit ∧ u.me.g = s3.me.g ∧
        SameBytes s3 u ∧ vget (u.coreAt ck).rings i (0, 0) = (r.1, r.2 + 1) ∧ u.flights = s3.flights ++ [f, g] ∧
        (u.core s.cur).ringCycle = s.clock s.cur.die ∧ (u.core s.cur).ringStep = 4 ∧
        f.id < g.id ∧ f.kind = .store ∧ f.parts = [mkPart (2 ^ 63 + e) (.sram (homeByte s.cur e)) 8 x.toNat] ∧
        g.kind = .atomic .and 0xFB 0 0 ∧
        g.parts = [mkPart (2 ^ 63 + x.toNat + 7) (.sram (homeByte s.cur (x.toNat + 7))) 1 0])) ∧
    (∀ ring, ring = (if bit x.toNat 2 then select (s1.coreAt ck).ringC (s1.ringHas ck)
        else if s1.ringHas ck (x.toNat % 4) then some (x.toNat % 4) else none) →
      (ring = none → exec (.rpop d a) s = .next (s1.writeG d 0).commit) ∧
      (∀ i v s2, ring = some i →
        let r := vget (s1.coreAt ck).rings i (0, 0)
        s1.checkPort (.sram (homeByte s.cur (0x200 * i + 8 * (r.1 % 64)))) 2 false = .ok () →
        s1.readPort (s1.portFlight s1.cur) (.sram (homeByte s.cur (0x200 * i + 8 * (r.1 % 64)))) 2 = (v, s2) →
        ∃ u : State, exec (.rpop d a) s = .next (u.writeG d (w64 v)).commit ∧ SameBytes s1 u ∧ u.me.g = s1.me.g ∧
          vget (u.coreAt ck).rings i (0, 0) = (r.1 + 1, r.2) ∧ (u.coreAt ck).ringC = dispatched (s1.coreAt ck).ringC i))) ∧
  (∀ (s s1 : State) (a : Reg) (x : Word), s.running → s.checkRelease = .ok () → Reads1 s a x s1 →
    let off := x.toNat % 2 ^ 16
    let core := x.toNat / 2 ^ 16 % 256
    let die := x.toNat / 2 ^ 24
    die < 12 → off % 32 = 0 → 0x4000 ≤ off → s1.corePresent die core = true → s1.inPartition s1.cur s1.src die core = true →
      ∃ t, exec (.cdec a) s = .next t ∧ Starts s1 t none (.cdec die core off)
        [mkPart (2 ^ 63 + off + 16) (.sram (homeByte ⟨die, core, 0⟩ (off + 16))) 4 0] .rlx .pkg) ∧
  (∀ (s s1 : State) (f : Flight) (die core off n : Nat), s.flight? f.id = some f → f.kind = .cdec die core off → f.moved = false →
    let p : Party := ⟨die, core, 15⟩
    let a := homeByte p (off + 16)
    (s.mayPerform f 0 = false ∨ s.clearing p off = true → exec (.cdecPerform f.id) s = .next s) ∧
    (s.mayPerform f 0 = true → s.clearing p off = false → s.countOf p off = (n, s1) →
      let s2 := (s1.dropFlight f.id).writeSram a 4 ((n + 2 ^ 32 - 1) % 2 ^ 32)
      (n ≠ 1 → exec (.cdecPerform f.id) s = .next s2) ∧
      (n = 1 → s2.ringServe p 3 = none → exec (.cdecPerform f.id) s = .next s) ∧
      ∀ s3, n = 1 → s2.ringServe p 3 = some s3 →
        (∀ s4, s3.ringPush p off = some s4 → exec (.cdecPerform f.id) s = .next s4) ∧
        (s3.ringPush p off = none → exec (.cdecPerform f.id) s =
          .next (((s3.setOvf p off).addEv (die * 256 + core) evRingovf 1).message p 1 (w64 off))))) ∧
  (∀ (s t : State) (p : Party) (off n : Nat),
    let ck := Party.coreKey p
    let i := bits (s.readSram (homeByte p off) 8) 57 56
    let r := vget (s.coreAt ck).rings i (0, 0)
    (s.ringPush p off = none ↔ 64 ≤ r.2 - r.1) ∧
    (s.ringPush p off = some t → vget (t.coreAt ck).rings i (0, 0) = (r.1, r.2 + 1) ∧ t.mem = s.mem ∧
      (off < 2 ^ 64 → t.readSram (homeByte p (0x200 * i + 8 * (r.2 % 64))) 8 = off)) ∧
    -- in a cycle, what is served after the issue: no operation that comes before one served, and a pop for an idle slot once at most
    (s.ringServe p n = some t → s.owesOffer p.die p.core = false ∧ (t.core p).ringCycle = s.clock p.die ∧ (t.core p).ringStep = n ∧
      ((s.core p).ringCycle = s.clock p.die → (s.core p).ringStep ≤ n ∧ (n = 2 → (s.core p).ringStep < 2)))) ∧
  -- an RPUSH makes the pop of its cycle for an idle slot first
  (∀ s : State,
    let late := (s.core s.cur).ringCycle = s.clock s.cur.die ∧ 2 ≤ (s.core s.cur).ringStep
    (late ∨ s.popPlan s.cur.die s.cur.core = none → s.popFirst = s) ∧
    (∀ p qn x off s1, ¬ late → s.popPlan s.cur.die s.cur.core = some (p, qn, x, off, s1) →
      s.popFirst = (s1.ringMark p 2).loadCodelet p qn x off)) ∧
  (∀ (s s1 s2 : State) (p : Party) (qn i off v : Nat) (q : LQueue), s.corePresent p.die p.core = true → (s.dieAt p.die).halted = false →
    s.idleSlot p.die p.core = some p.slot → s.queueOf p.die p.core = some qn →
    (select (s.core p).ringC (s.ringHas (Party.coreKey p)) = none → exec (.codeletStart p) s = .next s) ∧
    (s.queue qn = some q → q.stopped = true → exec (.codeletStart p) s = .next s) ∧
    (s.ringServe p 2 = none → exec (.codeletStart p) s = .next s) ∧
    (∀ s0, select (s.core p).ringC (s.ringHas (Party.coreKey p)) = some i → s.queue qn = some q → q.stopped = false →
      let p0 : Party := ⟨p.die, p.core, 0⟩
      s.ringServe p 2 = some s0 → s0.portBusy p0 (s0.ringEntry p0 i) 2 false s0.nextOp = false → s0.ringPop p0 i = (off, s1) →
      s0.portBusy p0 (.sram (homeByte p0 off)) 32 false s0.nextOp = false → s1.readPort (s1.portFlight p) (.sram (homeByte p off)) 32 = (v, s2) →
      let w := wordsOf v 4
      ∃ t u y, exec (.codeletStart p) s = .next t ∧ SameBytes s2 t ∧ t.thread? p = some u ∧ u.pc.toNat = bits (nth w 0 0) 55 0 ∧
        vget u.g 2 (.val 0) = .val (stackTop p.slot) ∧ vget u.g 3 (.val 0) = .val (w64 (nth w 1 0)) ∧
        vget u.g 4 (.val 0) = .val (w64 (2 ^ 63 + off)) ∧ u.domain.toNat = bits (nth w 2 0) 38 32 ∧
        u.rev.toNat = bits (nth w 2 0) 50 39 ∧ u.tvec = q.tvec ∧ u.unit = s.nextUnit ∧
        (s2.codeletOk q w = true → u.firstTrap = none) ∧
        (s2.codeletOk q w = false → u.firstTrap = some ⟨0x06, w64 (2 ^ 63 + off), 4⟩) ∧
        t.work s.nextUnit = some y ∧ y.codelet = some off ∧ y.members = [p] ∧ y.queue = some qn)) ∧
  (∀ (s : State) (qn rn : Nat) (q r : LQueue), s.queue qn = some q →
    s.queues.find? (fun e => e.1 != qn && e.2.sharesWith q && e.2.slice != 0) = some (rn, r) → q.current = true → q.slice ≠ 0 →
    q.changing = [] → r.changing = [] →
    (s.clock q.die < q.sliceAt + q.slice → exec (.tenantSliceEnd qn) s = .next s) ∧
    (q.sliceAt + q.slice ≤ s.clock q.die → ∃ t x, exec (.tenantSliceEnd qn) s = .next t ∧ t.threads = s.threads ∧ SameBytes s t ∧
      t.queue qn = some x ∧ x.current = false ∧ t.queue rn = some { r with current := true, sliceAt := s.clock q.die } ∧
      ∀ p, p ∈ x.changing ↔ (p ∈ s.placesOfQueue qn ∨ ∃ y ∈ s.saved, y.queue = rn ∧ y.cause ≠ 0x09 ∧ y.party = p))) ∧
  (∀ (s s1 : State) (p : Party) (qn : Nat) (q : LQueue),
    ((∀ e ∈ s.queues, e.2.stopped = false → p ∉ e.2.reached) →
      (s.reaches p = false ∨ s.comesTo p = false → exec (.tenantSlotChange p) s = .next s) ∧
      (s.reaches p = true → s.comesTo p = true → s.queues.find? (fun e => !e.2.stopped && e.2.changing.contains p) = some (qn, q) →
        let q1 : LQueue := { q with reached := q.reached ++ [p] }
        let u := (s.setQueue qn q1).changeSlot qn q1 p
        exec (.tenantSlotChange p) s = .next (if s.offerable p then
          u.setCore p { u.core p with lastCycle := some (u.clock p.die), lastSlot := p.slot } else u))) ∧
    (s.queues.find? (fun e => !e.2.stopped && e.2.reached.contains p) = some (qn, q) → s.queue qn = some q → p ∈ q.changing →
      s.ready p = false ∧
      (s.thread? p = none → exec (.tenantSlotChange p) s = .next ((s.changed qn p false).contextResume p)) ∧
      (∀ t, s.thread? p = some t → t.quitting = false → s.queueOfThread p t = some qn →
        (s.canSave p t false = false → exec (.tenantSlotChange p) s = .next s) ∧
        (s.canSave p t false = true → s.saveContext p t q.saveCause false = some s1 →
          exec (.tenantSlotChange p) s = .next ((s1.changed qn p false).contextResume p)))))

/-! ### Contexts: images, pre-emption, the watchdog, migration -/

/-- Contexts that leave and return (23 R316 to R326). SWAPOUT stores the 48 words of the image and parks until the stores are performed;
SWAPIN loads g1 to g31, q1 to q7, EPC and the registers of Table 23.2 and keeps MODE and IE; MIGRATE makes the gang one that is to move
where a die other than its own is named. PREEMPT_SAVE saves a slot of a stopped queue once its accesses are over; CONTEXT_RESUME gives it
back with the registers of its record, which it reads again from the save area without their reserved bits, after the record that holds
the gang's tiles and weight slots (23 R320; 11 R169; what it takes from the record and what as it was saved is the model's choice, log 29,
and so is a record that cannot be read, log 114; that a thread which is ending is not pre-empted is its reading, log 79).
WATCHDOG_STAGE1 stops a queue that has made no progress for its limit, and WATCHDOG_STAGE2 kills what is not saved after the delay.
MIGRATION_QUIESCE saves a moving gang with cause 0x09 when all of it can be saved; MIGRATION_RESUME places it anew, tries later, or kills
it where no die could take it. FORWARD_DELIVERY delivers a load, a word, a grant or a token to the new place; an atomic keeps its slot
from quiescing (log 100). -/
def Obligations.ContextsSaveAndReturn : Prop :=
  (∀ (s s1 s2 : State) (i : ImageRef) (a : Word) (l : Loc), s.running → s.src.sup = true → s.checkRelease = .ok () →
    s.imageAddr i = .ok (a, s1) → a.toNat % 128 = 0 → s1.checkAccess a.toNat 384 128 needW = .ok (l, s2) →
    s2.checkWeir a.toNat l 384 true = .ok () → s2.earlierDone s2.src.ctx s2.nextOp true true = true →
    (∀ m ∈ (s2.core s2.cur).mq, m.ctx ≠ s2.src.ctx) → s2.checkFilled = .ok () →
    ∃ t f, ∃ ws : List Nat, exec (.swapout i) s = .next t ∧ SameBytes s2 t ∧ t.me.g = s2.me.g ∧ t.flights = s2.flights ++ [f] ∧
      f.id = s2.nextOp ∧ f.kind = .store ∧ f.parts.length = 24 ∧
      (∀ k < 24, ∃ q, f.parts[k]? = some q ∧ q.addr = a.toNat + 16 * k ∧ q.loc = l.plus (16 * k) ∧ q.size = 16 ∧
        q.data = nth ws (2 * k) 0 + 2 ^ 64 * nth ws (2 * k + 1) 0) ∧
      t.me.park = some ⟨.stored s2.nextOp, true, 0, s2.issue.second⟩ ∧
      (∀ r : Reg, ∀ v, r ≠ 0 → s2.src.g[r] = .val v → nth ws (r.val - 1) 0 = v.toNat) ∧ nth ws 31 0 = s2.src.epc.toNat ∧
      nth ws 37 0 = s2.src.tvec.toNat ∧ nth ws 39 0 = s2.src.seed.toNat ∧ nth ws 47 0 = 0 ∧
      bit (nth ws 32 0) stMode = wbit s2.me.status stPmode ∧ bit (nth ws 32 0) stIe = wbit s2.me.status stPie) ∧
  (∀ (s s1 s2 s3 : State) (i : ImageRef) (a : Word) (l : Loc) (v : Nat), s.running → s.src.sup = true →
    (∀ r, i = .at r → s.checkPoison [r] = .ok ()) → s.imageAddr i = .ok (a, s1) → a.toNat % 128 = 0 →
    s1.earlierDone s1.src.ctx s1.nextOp true true = true → (s1.src.held = [] ∨ s1.checkRelease = .ok ()) →
    s1.checkAccess a.toNat 384 128 needR = .ok (l, s2) → s2.checkWeir a.toNat l 384 false = .ok () →
    s2.readPieces { s2.issueFlight with kind := .load (.tile 0) } a.toNat l (List.range 12) = (.ok v, s3) →
    let ws := wordsOf v 48
    imageOk ws = true → bit (nth ws 47 0) 56 = false → bit (nth ws 46 0) 63 = false →
    ∃ u : State, exec (.swapin i) s = .next u.commit ∧ SameBytes s3 u ∧ u.flights = s3.flights ∧
      (∀ r : Reg, r ≠ 0 → u.me.g[r] = .val (w64 (nth ws (r.val - 1) 0))) ∧
      (∀ q : Reg8, q ≠ 0 → u.me.q[q] = .val (bits (nth ws 44 0) (8 * q.val - 1) (8 * q.val - 8))) ∧
      u.me.epc.toNat = nth ws 31 0 ∧ u.me.tvec.toNat = nth ws 37 0 ∧ u.me.domain.toNat = bits (nth ws 43 0) 22 16 ∧
      wbit u.me.status stMode = wbit s3.me.status stMode ∧ wbit u.me.status stIe = wbit s3.me.status stIe ∧
      wbit u.me.status stPmode = bit (nth ws 32 0) stMode ∧ wbit u.me.status stPie = bit (nth ws 32 0) stIe) ∧
  (∀ (s s1 : State) (a : Reg) (x : Word), s.running → s.checkRelease = .ok () → Reads1 s a x s1 →
    let need := match s1.work s1.src.unit with
      | some w => Nat.lor w.featNeed w.need
      | none => 0
    x.toNat < 12 → (s1.dieAt x.toNat).started = true → (∃ k < 256, s1.inPartition s1.cur s1.src x.toNat k = true) →
    Nat.land need (Config.feat x.toNat) = need →
      (x.toNat = s.cur.die → exec (.migrate a) s = .next s1.commit) ∧
      (x.toNat ≠ s.cur.die → ∃ t : State, exec (.migrate a) s = .next t.commit ∧ { t with units := s1.units } = s1 ∧
        ∀ w, s1.work s1.src.unit = some w → w.st = .running →
          t.work s1.src.unit = some { w with st := .moving, target := some x.toNat })) ∧
  (∀ (s s1 : State) (p : Party) (qn : Nat) (q : LQueue) (t : Thread),
    s.queues.find? (fun e => e.2.stopped && e.2.changing.contains p) = some (qn, q) → s.thread? p = some t →
    (t.quitting = true → exec (.preemptSave p) s = .next (s.changed qn p false)) ∧
    (t.quitting = false → s.queueOfThread p t = some qn →
      (s.canSave p t false = false → exec (.preemptSave p) s = .next s) ∧
      (s.canSave p t false = true →
        (s.saveContext p t q.saveCause false = none →
          exec (.preemptSave p) s = .next ((s.saveFull p t q.saveCause).changed qn p true)) ∧
        (s.saveContext p t q.saveCause false = some s1 → exec (.preemptSave p) s = .next (s1.changed qn p false) ∧
          s1.thread? p = none ∧ s1.saved.length = s.saved.length + 1 ∧
          (∀ y ∈ s.saved, ∃ z ∈ s1.saved, z.thread = y.thread ∧ z.party = y.party) ∧
          ∃ x ∈ s1.saved, x.party = p ∧ x.queue = qn ∧ x.cause = q.saveCause ∧
            x.thread.g = t.g ∧ x.thread.q = t.q ∧ x.thread.pc = t.pc ∧ x.thread.status = t.status ∧ x.thread.ctx = t.ctx)))) ∧
  (∀ (s : State) (p : Party) (x : Saved),
    s.saved.find? (fun x => x.party == p && x.cause != 0x09 && s.unitRuns x.thread.unit &&
      (s.queue x.queue).any (fun q => !q.stopped && q.current)) = some x →
    (s.cluster p).quarantined = false → (s.dieAt p.die).halted = false →
      let w (i : Nat) : Nat := s.readPa (x.addr + 8 * i) 8
      (poisonIn s.memPoison x.addr x.len = true ∨ (∃ y ∈ s.saved, y.carriesFor x = true) →
        exec (.contextResume p) s = .next s) ∧
      (∀ y, s.rereadSaved x = some y → (∀ z ∈ s.saved, z.carriesFor x = false) →
        (s.restoreRead y p [] = none → exec (.contextResume p) s = .next s) ∧
        (∀ s1, 384 ≤ x.len → s.restoreRead y p [] = some s1 → exec (.contextResume p) s = .next s1 ∧
          (∀ z ∈ s1.saved, z.thread.ctx ≠ x.thread.ctx) ∧
          ∃ v, s1.thread? p = some v ∧ v.ctx = x.thread.ctx ∧ v.unit = x.thread.unit ∧
            v.pc = (if x.woken.isSome && x.rest.isNone then w64 (w 31) + 4 else w64 (w 31)) ∧ v.epc = w64 (w 33) ∧
            v.tvec = w64 (w 37 / 4 * 4) ∧ v.domain = w64 (w 43 / 2 ^ 16 % 2 ^ 7) ∧ v.park = x.thread.park ∧
            (∀ d z, x.woken = some (d, z) → 0 < d → d < 32 → vget v.g d (.val 0) = .val z) ∧
            (∀ r : Reg, r ≠ 0 → (∀ z, x.woken ≠ some (r.val, z)) → ∀ z, x.thread.g[r] = .val z →
              v.g[r] = .val (w64 (w (r.val - 1)))) ∧
            (∀ r : Reg, (∀ z, x.woken ≠ some (r.val, z)) → (∀ z, x.thread.g[r] ≠ .val z) → v.g[r] = x.thread.g[r]) ∧
            (∀ k : Reg8, k ≠ 0 → ∀ z, x.thread.q[k] = .val z → v.q[k] = .val (w 44 / 2 ^ (8 * k.val - 8) % 2 ^ 8))))) ∧
  (∀ (s : State) (qn : Nat) (q : LQueue), s.queue qn = some q →
    let limit := bits q.wdog.toNat 31 0 * 4096
    let delay := bits q.wdog.toNat 63 32 * 4096
    (limit = 0 ∨ q.stage1.isSome = true ∨ s.placesOfQueue qn = [] ∨ s.clock q.die < q.since + limit →
      exec (.watchdogStage1 qn) s = .next s) ∧
    (limit ≠ 0 → q.stage1 = none → s.placesOfQueue qn ≠ [] → q.since + limit ≤ s.clock q.die →
      ∃ u : State, ∃ x : LQueue, exec (.watchdogStage1 qn) s = .next (u.postHost 0x13 2 0 (some qn) none none none) ∧ u.queue qn = some x ∧
        x.stopped = true ∧ x.stage1 = some (s.clock q.die) ∧ x.changing = s.placesOfQueue qn ∧ u.threads = s.threads) ∧
    (q.stage1 = none ∨ delay = 0 ∨ (∃ t0, q.stage1 = some t0 ∧ s.clock q.die < t0 + delay) ∨ s.placesOfQueue qn = [] →
      exec (.watchdogStage2 qn) s = .next s) ∧
    (∀ t0 p t, q.stage1 = some t0 → delay ≠ 0 → t0 + delay ≤ s.clock q.die → s.placesOfQueue qn = [p] → s.thread? p = some t →
      exec (.watchdogStage2 qn) s = .next (s.killUnit t.unit 0x13 3 p t.pc.toNat))) ∧
  (∀ (s : State) (u : Nat) (w : Work), s.work u = some w →
    let es := s.contexts.filter (fun e => e.2.unit == u && !e.2.quitting)
    let saved := es.foldl (fun (o : Option State) e =>
      o.bind (fun s => (s.takeEntries e.1 e.2).saveContext e.1 e.2 0x09 true)) (some s)
    (w.st ≠ .moving ∨ (∃ e ∈ es, s.canSave e.1 e.2 true = false) ∨ s.entriesFree es = false →
      exec (.migrationQuiesce u) s = .next s) ∧
    (w.st = .moving → (∀ e ∈ es, s.canSave e.1 e.2 true = true) → s.entriesFree es = true →
      ∀ s1, saved = some s1 → exec (.migrationQuiesce u) s = .next (s1.setWork u { w with st := .saved 0x09 }) ∧
        ∀ e ∈ es, ∃ x ∈ s1.saved, x.thread.ctx = e.2.ctx ∧ x.thread.g = e.2.g ∧ x.thread.pc = e.2.pc ∧ x.cause = 0x09)) ∧
  (∀ (s s1 : State) (u qn : Nat) (w : Work) (q : LQueue), s.work u = some w → w.queue = some qn → s.queue qn = some q →
    (w.st ≠ .saved 0x09 ∨ q.stopped = true ∨ q.current = false → exec (.migrationResume u) s = .next s) ∧
    (w.st = .saved 0x09 → q.stopped = false → q.current = true →
      (s.dieCanTake q w = false → ∃ v y, exec (.migrationResume u) s = .next v ∧ v.work u = some y ∧ y.st = .dead) ∧
      (∀ d c g, s.dieCanTake q w = true → w.target = some d → s.findMove q u w [d] = some (d, c, g) →
        s.moveUnit u w d c g = some s1 → exec (.migrationResume u) s = .next s1 ∧ ∃ y, s1.work u = some y ∧ y.st = .running ∧
          y.target = none ∧ y.members.length = w.members.length ∧ ∀ m ∈ y.members, m.die = d) ∧
      (∀ d, s.dieCanTake q w = true → w.target = some d → s.findMove q u w [d] = none →
        exec (.migrationResume u) s = .next s))) ∧
  (∀ (s s1 : State) (f g : Flight) (p : Party) (t : Thread) (goal : Goal), s.flight? f.id = some f →
    (∀ n v, f.kind = .word n v → exec (.forwardDelivery f.id) s = exec (.channelWordArrival f.id) s) ∧
    (∀ n v, f.kind = .grant n v → exec (.forwardDelivery f.id) s = exec (.channelGrantArrival f.id) s) ∧
    (∀ r w k d n, f.kind = .token r w k d n → exec (.forwardDelivery f.id) s = exec (.tokenArrival f.id) s) ∧
    (f.kind = .load goal → (∀ k, goal ≠ .tile k) → f.moved = true → s.findCtx f.ctx = some (p, t) →
      (∀ i q, f.parts[i]? = some q → q.open_ = true → s.mayPerform { f with moved := false } i = true) →
      s.performMoved { f with moved := false } = (g, s1) → exec (.forwardDelivery f.id) s =
        .next (((s1.deliver { g with party := p } goal).dropFlight f.id).freeReply f)) ∧
    (∀ op x c d, f.kind = .atomic op x c d → exec (.forwardDelivery f.id) s = .next s))

/-! ### Terp registers, translation buffers and caches -/

/-- Terp registers, shoot-downs and the events of PLBs, translation buffers and caches (15 R193, R198, R204 to R215, R226 to R231). TERP
with a good range starts, and its register file gives the lowest free register, or its code where the domain holds four or none is free;
UNTERP gives the counts of a register of its domain, and frees it or zeroes its counts; HARVEST, TLBSD and PLBINV park a supervisor's
slot, and their completions write the gathered state of a range out, remove its entries and its L1 lines, or remove a domain's PLB
entries. PLB_FILL and TRANSLATION_WALK install what a parked slot or an access waits for; AD_WRITEBACK_TIMEOUT writes what was gathered
too long ago; an eviction removes its line and changes no byte, of a full set of an L2 slice the unpinned line that R208 names (sets of 16 lines
by the model's function, log 115, and an eviction that takes the victim of a full set alone, log 56, are its choice); L2_FILL
brings its sector; HOST_WRITE writes its bytes and HOST_READ changes none. -/
def Obligations.CachesAndTranslation : Prop :=
  (∀ (s s1 s2 : State) (d a b : Reg) (x y : Word), s.running →
    (Reads2 s a b x y s1 → x.toNat < 2 ^ 56 → x.toNat % 256 = 0 → y.toNat % 256 = 0 → 256 ≤ y.toNat → y.toNat ≤ 2 ^ 36 →
      s1.checkGlobal x.toNat y.toNat needR = .ok s2 → s2.checkWeir x.toNat (.va x.toNat) y.toNat false = .ok () →
      s2.checkAsync d = .ok () → ∃ t, exec (.terp d a b) s = .next t ∧
        Starts s2 t (some d) (.status (.terp x.toNat y.toNat) d.val) [] .rlx .die) ∧
    (Reads1 s a x s1 → x.toNat < 16 → s1.checkDest d = .ok () →
      let die := s1.dieAt s1.cur.die
      let reg := vget die.terps (x.toNat % 8) none
      (s1.src.sup = false → (∀ t, reg = some t → t.dom ≠ s1.src.dom) →
        exec (.unterp d a) s = .next (s1.writeG d 0xFFFFFFFFFFFFFFFF).commit) ∧
      (∀ t, reg = some t → t.dom = s1.src.dom ∨ s1.src.sup = true → ∃ u : State,
        exec (.unterp d a) s = .next (u.writeG d (w64 (t.missed * 2 ^ 32 + t.hits))).commit ∧ SameBytes s1 u ∧ u.me.g = s1.me.g ∧
        vget (u.dieAt s1.cur.die).terps (x.toNat % 8) none =
          (if x.getLsbD 3 then some { t with hits := 0, missed := 0 } else none))) ∧
    (s.src.sup = true →
      (Reads2 s a b x y s1 → x.toNat % 65536 = 0 → y.toNat % 65536 = 0 →
        exec (.harvest a b) s = .next (s1.parkAfter (.sys (.harvest x.toNat y.toNat))) ∧
        exec (.tlbsd a b) s = .next (s1.parkAfter (.sys (.tlbsd x.toNat y.toNat)))) ∧
      (Reads1 s a x s1 → x.toNat < 256 →
        exec (.plbinv a) s = .next (s1.parkAfter (.sys (.plbinv (x.getLsbD 7) (x.toNat % 128))))))) ∧
  (∀ (s : State) (f : Flight) (base len d i : Nat), s.flight? f.id = some f → f.kind = .status (.terp base len) d →
    s.mayPerform f 0 = true →
    let die := s.dieAt f.party.die
    let held := ((List.range 8).filter (fun i => (vget die.terps i none).any (fun t => t.dom == f.dom))).length
    let gives (u : State) (n : Nat) : Prop := exec (.loadReply f.id 0) s = .next (u.statusArrive f d (.val (w64 n)))
    (4 ≤ held → f.sup = false → gives s 0xFFFFFFFFFFFFFFFE) ∧
    (held < 4 ∨ f.sup = true →
      ((∀ j < 8, (vget die.terps j none).isSome = true) → gives s 0xFFFFFFFFFFFFFFFF) ∧
      (i < 8 → vget die.terps i none = none → (∀ j < i, (vget die.terps j none).isSome = true) → ∃ u, gives u i ∧
        vget (u.dieAt f.party.die).terps i none = some ⟨base, len, f.dom, 0, 0⟩ ∧ SameBytes s u ∧ u.threads = s.threads))) ∧
  (∀ (s : State) (p : Party) (t : Thread) (a n waited dom : Nat) (all second : Bool), s.thread? p = some t → tget s.rest (Party.key p) = none →
    (t.park = some ⟨.sys (.harvest a n), true, waited, second⟩ → ∃ u v, exec (.harvestComplete p) s = .next u ∧
      u.thread? p = some v ∧ v.park = none ∧ v.pc = t.pc + 4 ∧ v.g = t.g ∧
      ∀ k, ∀ e ∈ (u.clusterAt k).tlb, e.inRange a n = true → e.acc = false ∧ e.dirty = false) ∧
    (t.park = some ⟨.sys (.tlbsd a n), true, waited, second⟩ →
      (s.acked t.ctx = false ∨ s.noneInFlight a n = false → exec (.tlbsdComplete p) s = .next s) ∧
      (s.acked t.ctx = true → s.noneInFlight a n = true → ∃ u v, exec (.tlbsdComplete p) s = .next u ∧
        u.thread? p = some v ∧ v.park = none ∧ v.pc = t.pc + 4 ∧ v.g = t.g ∧
        (∀ k, ∀ e ∈ (u.clusterAt k).tlb, e.inRange a n = false) ∧
        ∀ k, ∀ l ∈ (u.coreAt k).l1, n ≠ 0 ∧ overlap (l.line * 64) 64 a n = false)) ∧
    (t.park = some ⟨.sys (.plbinv all dom), true, waited, second⟩ →
      (s.acked t.ctx = false → exec (.plbinvComplete p) s = .next s) ∧
      (s.acked t.ctx = true → ∃ u v, exec (.plbinvComplete p) s = .next u ∧ SameBytes s u ∧
        u.thread? p = some v ∧ v.park = none ∧ v.pc = t.pc + 4 ∧ v.g = t.g ∧
        ∀ k, ∀ e ∈ (u.coreAt k).plb, all = false ∧ e.dom ≠ dom))) ∧
  (∀ (s : State) (p : Party) (t : Thread) (a waited : Nat) (after second : Bool) (e : PlbEntry), s.thread? p = some t →
    t.park = some ⟨.plb a, after, waited, second⟩ → s.searchRegion t.dom a = .ok e → ∃ u, exec (.plbFill p a) s = .next u ∧
      (u.core p).plbFind t.dom a = some e ∧ SameBytes s u ∧ u.threads = s.threads ∧ u.clusters = s.clusters) ∧
  (∀ (s : State) (die cluster a rev : Nat) (l : Leaf),
    let ck := die * 32 + cluster
    (s.needsWalk ck a rev = false ∨ ((s.clusterAt ck).tlbFind a rev).isSome = true →
      exec (.translationWalk die cluster a rev) s = .next s) ∧
    (s.needsWalk ck a rev = true → (s.clusterAt ck).tlbFind a rev = none → s.walk a = .ok l →
      ∃ u e, exec (.translationWalk die cluster a rev) s = .next u ∧ e ∈ (u.clusterAt ck).tlb ∧ e.rev = rev ∧ e.vpage = l.vpage ∧
        e.size = l.size ∧ e.base = l.base ∧ e.attr = l.attr ∧ u.threads = s.threads ∧
        ((s.clusterAt ck).tlb.length < 2048 → u.mem = s.mem)) ∧
    (∃ u, exec (.adWritebackTimeout die cluster) s = .next u ∧ u.threads = s.threads ∧ u.sram = s.sram ∧
      (∀ e ∈ (u.clusterAt ck).tlb, ∀ t, e.since = some t → s.clock (ck / 32) < t + 4194304) ∧
      ((∀ e ∈ (s.clusterAt ck).tlb, ∀ t, e.since = some t → s.clock (ck / 32) < t + 4194304) → u = s))) ∧
  (∀ (s : State) (die core line pa h : Nat) (l : L2Line),
    (∃ u, exec (.l1Eviction die core line []) s = .next u ∧ SameBytes s u ∧ u.threads = s.threads ∧
      ∀ x, x ∈ (u.coreAt (die * 256 + core)).l1 ↔ x ∈ (s.coreAt (die * 256 + core)).l1 ∧ x.line ≠ line) ∧
    (∀ bad, ∃ u, exec (.l1Eviction die core line bad) s = .next u ∧ ∀ x ∈ (u.coreAt (die * 256 + core)).l1, x.line ≠ line) ∧
    (homeDie pa = some h → tget (s.dieAt h).l2 (pa / 256) = some l →
      let set := (s.dieAt h).l2.filter (fun e => decide (s.l2SetOf e.1 = s.l2SetOf (pa / 256)))
      (set.length < 16 ∨ l2Victim set ≠ some (pa / 256) → ∀ bad, exec (.l2Eviction pa bad) s = .next s) ∧
      (16 ≤ set.length → l2Victim set = some (pa / 256) → ∀ bad, (l.dirty = false ∨ bad = []) →
        exec (.l2Eviction pa bad) s = .next (s.setDie h { s.dieAt h with l2 := terase (s.dieAt h).l2 (pa / 256) }))) ∧
    (homeDie pa = some h → s.present pa = true → (∀ f ∈ s.flights, ∀ g, f.kind ≠ .load g) → ∃ u x,
      exec (.l2Fill pa) s = .next u ∧ tget (u.dieAt h).l2 (pa / 256) = some x ∧ bit x.sectors (pa / 64 % 4) = true ∧
      { u with dies := s.dies } = s)) ∧
  (∀ ls : List (Nat × L2Line),
    (l2Victim ls = none ↔ ∀ e ∈ ls, e.2.pins ≠ []) ∧
    (∀ v, l2Victim ls = some v → ∃ e ∈ ls, e.1 = v ∧ e.2.pins = [] ∧
      ((∃ x ∈ ls, x.2.pins = [] ∧ x.2.strm = true) → e.2.strm = true) ∧
      ∀ x ∈ ls, x.2.pins = [] → x.2.strm = e.2.strm → e.2.used ≤ x.2.used)) ∧
  (∀ (s : State) (pa : Nat) (data : List Byte), data ≠ [] → s.present pa = true → s.present (pa + data.length - 1) = true →
    ∃ u, exec (.hostWrite pa data) s = .next u ∧ u.threads = s.threads ∧ u.sram = s.sram ∧
      (∀ i < data.length, Memory.read u.mem (pa + i) = nth data i 0) ∧
      ∀ a, (a < pa ∨ pa + data.length ≤ a) → Memory.read u.mem a = Memory.read s.mem a) ∧
  (∀ (s : State) (pa size : Nat), ∃ u, exec (.hostRead pa size) s = .next u ∧ { u with cores := s.cores } = s)

/-! ### The device and the host -/

/-- Events of the device (01 R18 to R24; 19 R287, R288; 23 R333). BOOT starts the dies whose images verify, logs their hashes and records
the others as absent, or fails for good; POWER_THROTTLE lowers clocks and VOLTAGE_DROOP changes nothing; CLUSTER_QUARANTINE makes the
gangs of its cluster move; a lane that fails takes a spare, of four at reset (log 12), or halves its culvert; a replay delivers once;
KEY_LOAD brings a second key into use and KEY_RETIRE leaves it alone; each of the 17 culverts joins two neighbours of the grid, and each
two neighbours have one (numbering: log 113); a channel failure posts a record of KIND 9 with the range and the channel, and is held
unreported where none is posted (log 81). -/
def Obligations.DeviceEvents : Prop :=
  (∀ (s : State) (bad : Bool) (dies hashes : List Nat),
    (s.booted = true ∨ s.failed = true → exec (.boot bad dies hashes) s = .next s) ∧
    (s.booted = false → s.failed = false →
      exec (.boot true dies hashes) s = .next { s with failed := true } ∧
      ∃ u, exec (.boot false dies hashes) s = .next u ∧ u.booted = true ∧ SameBytes s u ∧ u.threads = s.threads ∧
        (∀ d < 12, (d = 8 ∨ d ∉ dies) → (u.dieAt d).started = true) ∧
        (∀ d, d ≠ 8 → d ∈ dies → (u.dieAt d).started = (s.dieAt d).started) ∧
        (∃ r, u.port.record = some r ∧ r.retired = [] ∧ ∀ d, d ∈ r.absent ↔ d < 12 ∧ d ≠ 8 ∧ d ∈ dies) ∧
        u.attest = s.attest ++ (nth hashes 0 0 ::
          ((List.range 12).filter (fun d => d != 8 && !dies.contains d)).map (fun d => nth hashes (d + 1) 0)))) ∧
  (∀ (s : State) (dies : List Nat) (die : Nat),
    (∃ u, exec (.powerThrottle dies) s = .next u ∧ { u with dies := s.dies } = s ∧
      ∀ d, (u.dieAt d).lowered = ((s.dieAt d).lowered || (decide (d < 12) && dies.contains d)) ∧
        { u.dieAt d with lowered := (s.dieAt d).lowered } = s.dieAt d) ∧
    exec (.voltageDroop die) s = .next s) ∧
  (∀ (s : State) (die cluster : Nat), Config.clusterPresent die cluster = true →
    let ck := die * 32 + cluster
    ∃ u, exec (.clusterQuarantine die cluster) s = .next u ∧ (u.clusterAt ck).quarantined = true ∧ SameBytes s u ∧
      u.threads = s.threads ∧ ∀ n w, s.work n = some w → w.st = .running → (∃ p ∈ w.members, Party.clusterKey p = ck) →
        ∃ y, u.work n = some y ∧ y.st = .moving ∧ { y with st := w.st, target := w.target } = w) ∧
  (∀ (s : State) (c key : Nat), c < 17 →
    let old := tgetD s.culverts c Culvert.reset
    let sets (i : Instr) (x : Culvert) : Prop := exec i s = .next { s with culverts := tset s.culverts c x }
    (0 < old.spares → sets (.laneSpareSwap c) { old with spares := old.spares - 1 }) ∧
    (old.spares = 0 → sets (.laneSpareSwap c) { old with half := true }) ∧
    (∀ ch < 4, sets (.flitReplay c ch) { old with resent := old.resent + 1 }) ∧
    (old.keys = [] → sets (.keyLoad c key) { old with keys := [(old.keyIndex, key)] }) ∧
    (∀ k, old.keys = [k] → sets (.keyLoad c key) { old with keyIndex := 1 - old.keyIndex, keys := [k, (1 - old.keyIndex, key)] }) ∧
    (2 ≤ old.keys.length → sets (.keyLoad c key) old) ∧
    sets (.keyRetire c) { old with keys := old.keys.filter (fun k => k.1 == old.keyIndex) }) ∧
  (∀ c a b, Config.culvertEnds c = some (a, b) → c < 17 ∧ Config.neighbours a b = true) ∧
  (∀ a b, Config.neighbours a b = true → ∃ c < 17, Config.culvertEnds c = some (a, b) ∨ Config.culvertEnds c = some (b, a)) ∧
  (∀ (s : State) (stack channel : Nat), stack < 16 → channel < 32 →
    let k := stack * 32 + channel
    ((tget s.channels k).isSome = true → exec (.hbmChannelFailure stack channel) s = .next s) ∧
    (tget s.channels k = none → ∃ u w : State, ∃ cause dom, { u with freeCount := s.freeCount } = s ∧
      w = u.postHost cause 9 dom none none (some (stack * 2 ^ 36 + (31 - s.retired stack) * 0x60000000))
        (some (stack + channel * 16)) ∧
      exec (.hbmChannelFailure stack channel) s =
        .next { w with channels := tset s.channels k (if w.eventSeq = s.eventSeq then 3 else 1) }))

/-- The host port and the host's commands (23 R327 to R333; 03 R46, R47). CTRL.ENABLE brings a booted port up with its control block; PCB
is written while the port is down, CMDTAIL always. The record at CMDHEAD of the command's own OP is performed: it ends with STATUS 1 and
its effect, or with STATUS 2 and none. QCREATE registers a queue whose number is free, QSTOP stops and pre-empts it and ends when every
slot has changed, QRESUME undoes it, QKILL kills its gangs, QDESTROY removes an idle one, QWDOG sets its limits; SPLIT and MERGE change
the tree of idle nodes; HALT and RUN stop and start dies; SNAP writes a halted slot's image; PATCH loads one; PCBLOAD reads the control
block; RETIRE removes a channel whose failure has been reported: the configuration record lists the channels left, each line of
the stack is homed at one of them, and lines whose home changes leave the slice. Which nodes SPLIT and MERGE refuse is log 85, PATCH of a
bad image log 86, the ring held by QSTOP log 78, and the new channel function log 82: the model's choices. -/
def Obligations.HostCommands : Prop :=
  (∀ (s : State) (v : Word),
    (s.booted = false ∨ s.port.enable = true → exec .hostCtrlEnable s = .next s) ∧
    (s.booted = true → s.port.enable = false → ∃ u, exec .hostCtrlEnable s = .next u ∧ { u with port := s.port } = s ∧
      { u.port with enable := false, block := s.port.block } = s.port ∧ u.port.enable = true ∧
      u.port.block = wordsOf (s.readPa s.port.pcb.toNat 64) 8) ∧
    (exec (.hostRegisterWrite 0x008 v) s = .next (if s.port.enable then s else { s with port := { s.port with pcb := v } })) ∧
    (exec (.hostRegisterWrite 0x018 v) s = .next { s with port := { s.port with cmdtail := v.toNat % 2 ^ 32 } }) ∧
    (v.getLsbD 0 = true → exec (.hostRegisterWrite 0x010 v) s = exec .hostCtrlEnable s) ∧
    (∀ o, o ≠ 0x008 → o ≠ 0x010 → o ≠ 0x018 → exec (.hostRegisterWrite o v) s = .next s)) ∧
  (∀ (s : State) (a n : Nat), (s.cmdPlace = some a → s.cmdDone n = s.recordDone a n) ∧
    ∃ u, s.recordDone a n = u ∧ u.port.cmdhead = (s.port.cmdhead + 1) % 2 ^ 32 ∧
    (Memory.read u.mem (a + 1)).toNat = n % 256 ∧ (∀ b, b ≠ a + 1 → Memory.read u.mem b = Memory.read s.mem b) ∧
    u.threads = s.threads ∧ u.queues = s.queues) ∧
  (∀ (s : State) (c : Cmd), s.cmdHead = some c →
    (c.op ≠ 2 → exec .qstop s = .next s) ∧
    (c.op = 1 → (s.queue c.queue).isSome = true → exec .qcreate s = .next (s.cmdDone 2)) ∧
    (s.queue c.queue = none →
      (c.op = 2 → exec .qstop s = .next (s.cmdDone 2)) ∧ (c.op = 3 → exec .qresume s = .next (s.cmdDone 2)) ∧
      (c.op = 4 → exec .qkill s = .next (s.cmdDone 2)) ∧ (c.op = 5 → exec .qdestroy s = .next (s.cmdDone 2)) ∧
      (c.op = 13 → exec .qwdog s = .next (s.cmdDone 2))) ∧
    (c.op = 1 → s.queue c.queue = none →
      let q := wordsOf (s.readPa (bits (portWord s 4) 51 6 * 64 + 64 * c.queue) 64) 8
      (∀ e ∈ s.queues, bits (nth e.2.entry 1 0) 23 0 ≠ bits (nth q 1 0) 23 0) →
        ∃ u : State, ∃ x : LQueue, exec .qcreate s = .next (u.cmdDone 1) ∧ { u with queues := s.queues } = s ∧ u.queue c.queue = some x ∧ x.entry = q ∧
          x.wdog = w64 (nth q 5 0) ∧ x.stopped = false ∧ x.current = true ∧ x.launches = [] ∧ x.progress = 0) ∧
    (∀ q, s.queue c.queue = some q →
      (c.op = 2 → s.port.begun = false → ∃ u : State, ∃ x : LQueue, exec .qstop s = .next u ∧ u.port.begun = true ∧ u.threads = s.threads ∧
        u.queue c.queue = some x ∧ x.stopped = true ∧ x.changing = s.placesOfQueue c.queue ∧ x.stage1 = q.stage1) ∧
      (c.op = 2 → s.port.begun = true → (q.changing ≠ [] → exec .qstop s = .next s) ∧
        (q.changing = [] → exec .qstop s = .next (s.cmdDone (if q.saveFailed then 2 else 1)))) ∧
      (c.op = 3 → ∃ u : State, ∃ x : LQueue, exec .qresume s = .next (u.cmdDone 1) ∧ { u with queues := s.queues } = s ∧ u.queue c.queue = some x ∧
        x.stopped = false ∧ x.stage1 = none ∧ x.launches = q.launches) ∧
      (c.op = 4 → ∃ u : State, ∃ x : LQueue, exec .qkill s = .next (u.cmdDone 1) ∧ u.queue c.queue = some x ∧ x.stopped = false ∧ x.launches = [] ∧
        (∀ e ∈ u.launches, e.2.queue = c.queue → e.2.dead = true) ∧
        ∀ n w, s.work n = some w → w.queue = some c.queue → (∃ y, u.work n = some y ∧ y.st = .dead)) ∧
      (c.op = 5 → (∀ e ∈ s.units, e.2.queue ≠ some c.queue) → (∀ e ∈ s.launches, e.2.queue ≠ c.queue) →
        (∀ x ∈ s.saved, x.queue ≠ c.queue) → (∀ e ∈ s.contexts, s.queueOfThread e.1 e.2 ≠ some c.queue) →
        ∃ u : State, exec .qdestroy s = .next (u.cmdDone 1) ∧ u.queue c.queue = none ∧ { u with queues := s.queues } = s) ∧
      (c.op = 5 → (∃ e ∈ s.launches, e.2.queue = c.queue) → exec .qdestroy s = .next (s.cmdDone 2)) ∧
      (c.op = 13 → exec .qwdog s = .next ((s.setQueue c.queue { q with wdog := w64 c.arg0 }).cmdDone 1))) ∧
    (c.op = 6 →
      (nodeCore c.arg0 = none ∨ nodeLevel c.arg0 = 5 ∨ s.nodeIdle c.arg0 = false → exec .split s = .next (s.cmdDone 2)) ∧
      ((nodeCore c.arg0).isSome = true → nodeLevel c.arg0 ≠ 5 → s.nodeIdle c.arg0 = true → ∃ u : State,
        exec .split s = .next (u.cmdDone 1) ∧ { u with nodes := s.nodes } = s ∧ ∀ m, m ∈ u.nodes ↔ m ∈ s.nodes ∨ m = c.arg0)) ∧
    (c.op = 7 →
      (nodeCore c.arg0 = none ∨ nodeLevel c.arg0 = 0 ∨ s.nodeIdle c.arg0 = false → exec .merge s = .next (s.cmdDone 2)) ∧
      (∀ k, nodeCore c.arg0 = some k → nodeLevel c.arg0 ≠ 0 →
        (∀ j < 256, nodeIndexOf (nodeLevel c.arg0 - 1) j = nodeIndexOf (nodeLevel c.arg0 - 1) k →
          s.nodeIdle (nodeCode (nodeDie c.arg0) (nodeLevel c.arg0) (nodeIndexOf (nodeLevel c.arg0) j)) = true) → ∃ u : State,
        exec .merge s = .next (u.cmdDone 1) ∧ { u with nodes := s.nodes } = s ∧ nodeAbove c.arg0 k (nodeLevel c.arg0 - 1) ∉ u.nodes ∧
        ∀ m ∈ u.nodes, m ∈ s.nodes)) ∧
    (c.op = 8 → ∃ u : State, ∃ dom, exec .halt s = .next ((u.postHost 0x17 6 dom none none none none).cmdDone 1) ∧
      u.threads = s.threads ∧ ∀ d < 12, (u.dieAt d).halted = ((s.dieAt d).halted || bit c.arg0 d)) ∧
    (c.op = 9 → ∃ u : State, exec .run s = .next (u.cmdDone 1) ∧ { u with dies := s.dies } = s ∧
      ∀ d < 12, (u.dieAt d).halted = ((s.dieAt d).halted && !bit c.arg0 d)) ∧
    (c.op = 10 ∨ c.op = 11 → s.haltedSlot c = none →
      exec (if c.op = 10 then .snap else .patch) s = .next (s.cmdDone 2)) ∧
    (∀ p t, s.haltedSlot c = some (p, t) →
      (c.op = 10 → ∃ u : State, exec .snap s = .next (u.cmdDone 1) ∧ u.threads = s.threads ∧ u.sram = s.sram ∧
        ∀ r : Reg, ∀ v, r ≠ 0 → t.g[r] = .val v → u.readPa (c.arg1 + 8 * (r.val - 1)) 8 = v.toNat) ∧
      (c.op = 11 →
        let ws := wordsOf (s.readPa c.arg1 384) 48
        (imageOk ws = false → exec .patch s = .next (s.cmdDone 2)) ∧
        (imageOk ws = true → ∃ u : State, ∃ v, exec .patch s = .next (u.cmdDone 1) ∧ SameBytes s u ∧ u.thread? p = some v ∧
          v.pc.toNat = nth ws 31 0 ∧ v.epc.toNat = nth ws 33 0 ∧ v.halted = false ∧ v.park = none ∧
          ∀ r : Reg, ∀ y, r ≠ 0 → t.g[r] = .val y → v.g[r] = .val (w64 (nth ws (r.val - 1) 0))))) ∧
    (c.op = 12 → ∀ a, s.cmdPlace = some a → exec .pcbload s =
      .next (({ s with port := { s.port with block := wordsOf (s.readPa s.port.pcb.toNat 64) 8 } } : State).recordDone a 1)) ∧
    (c.op = 14 →
      let k := c.arg0 * 32 + c.arg1
      (16 ≤ c.arg0 ∨ 32 ≤ c.arg1 ∨ tget s.channels k ≠ some 1 → exec .retire s = .next (s.cmdDone 2)) ∧
      (c.arg0 < 16 → c.arg1 < 32 → tget s.channels k = some 1 → ∃ u : State, exec .retire s = .next (u.cmdDone 1) ∧
        tget u.channels k = some 2 ∧ (∀ r, s.port.record = some r → u.port.record =
          some { r with retired := r.retired ++ [k], spread := tset r.spread c.arg0 (u.channelsIn c.arg0) }) ∧
        u.mem = s.mem ∧ u.threads = s.threads ∧ u.retired c.arg0 = s.retired c.arg0 + 1 ∧
        (∀ ch, ch ∈ u.channelsIn c.arg0 ↔ ch ∈ s.channelsIn c.arg0 ∧ ch ≠ c.arg1) ∧
        (∀ pa, pa / 2 ^ 36 = c.arg0 → u.channelsIn c.arg0 ≠ [] → u.channelOf pa ∈ u.channelsIn c.arg0) ∧
        ∀ e, e ∈ (u.dieAt (Config.stackDie c.arg0)).l2 ↔ e ∈ (s.dieAt (Config.stackDie c.arg0)).l2 ∧ u.present (e.1 * 256) = true ∧
          u.l2SetOf e.1 = s.l2SetOf e.1)))
end

