-- ==== Sys2Proof/Laws/Table.lean ====
section
/-! SUPPORT. Sparse tables and memories: a read after a write, other keys, and the canonical form. -/

namespace Sys2Proof.Machine

variable {α : Type}

@[simp] theorem tget_nil (k : Nat) : tget ([] : Table α) k = none := rfl

@[simp] theorem tget_tset_same (t : Table α) (k : Nat) (v : α) : tget (tset t k v) k = some v := by
  induction t with
  | nil => simp [tset, tget]
  | cons e r ih =>
    obtain ⟨j, a⟩ := e
    by_cases h : j = k
    · simp [tset, tget, h]
    · by_cases h2 : k < j
      · simp [tset, tget, h, h2]
      · simp [tset, tget, h, h2, ih]

theorem tget_tset_other (t : Table α) {k j : Nat} (v : α) (h : j ≠ k) : tget (tset t k v) j = tget t j := by
  induction t with
  | nil => simp [tset, tget, Ne.symm h]
  | cons e r ih =>
    obtain ⟨i, a⟩ := e
    by_cases h1 : i = k
    · subst h1; simp [tset, tget, Ne.symm h]
    · by_cases h2 : k < i
      · simp [tset, tget, h1, h2, Ne.symm h]
      · simp [tset, tget, h1, h2, ih]

theorem tget_tset (t : Table α) (k j : Nat) (v : α) : tget (tset t k v) j = if j = k then some v else tget t j := by
  split
  · next h => rw [h, tget_tset_same]
  · next h => exact tget_tset_other t v h

@[simp] theorem tgetD_tset_same (t : Table α) (k : Nat) (v d : α) : tgetD (tset t k v) k d = v := by simp [tgetD]

theorem tgetD_tset_other (t : Table α) {k j : Nat} (v d : α) (h : j ≠ k) : tgetD (tset t k v) j d = tgetD t j d := by
  simp [tgetD, tget_tset_other t v h]

@[simp] theorem tget_terase_same (t : Table α) (k : Nat) : tget (terase t k) k = none := by
  induction t with
  | nil => rfl
  | cons e r ih =>
    obtain ⟨j, a⟩ := e
    by_cases h : j = k
    · simpa [terase, h] using ih
    · simpa [terase, h, tget] using ih

theorem tget_terase_other (t : Table α) {k j : Nat} (h : j ≠ k) : tget (terase t k) j = tget t j := by
  induction t with
  | nil => rfl
  | cons e r ih =>
    obtain ⟨i, a⟩ := e
    by_cases h1 : i = k
    · have h2 : i ≠ j := fun x => h (x.symm.trans h1)
      simpa [terase, h1, tget, h2, Ne.symm h] using ih
    · have hf : terase ((i, a) :: r) k = (i, a) :: terase r k := by simp [terase, h1]
      rw [hf, tget, tget, ih]

/-! ### Keys strictly rising -/

theorem tset_all (p : Nat → Bool) (t : Table α) (k : Nat) (v : α) (hk : p k = true)
    (h : t.all (fun e => p e.1) = true) : (tset t k v).all (fun e => p e.1) = true := by
  induction t with
  | nil => simpa [tset] using hk
  | cons e r ih =>
    obtain ⟨j, a⟩ := e
    simp only [List.all_cons, Bool.and_eq_true] at h
    unfold tset
    split
    · simp [hk, h.2]
    · split
      · simp [hk, h.1, h.2]
      · simp [h.1, ih h.2]

theorem all_lt_of_lt {j k : Nat} {t : Table α} (h : k < j) (ht : t.all (fun e => decide (j < e.1)) = true) :
    t.all (fun e => decide (k < e.1)) = true := by
  simp only [List.all_eq_true, decide_eq_true_eq] at *
  exact fun e he => Nat.lt_trans h (ht e he)

theorem tsorted_tset (t : Table α) (k : Nat) (v : α) (h : tsorted t = true) : tsorted (tset t k v) = true := by
  induction t with
  | nil => simp [tset, tsorted]
  | cons e r ih =>
    obtain ⟨j, a⟩ := e
    simp only [tsorted, Bool.and_eq_true] at h
    unfold tset
    split
    · next e => subst e; simp [tsorted, h.1, h.2]
    · split
      · next _ lt => simp [tsorted, lt, h.1, h.2, all_lt_of_lt lt h.1]
      · next ne nlt =>
        have : j < k := by omega
        simp only [tsorted, Bool.and_eq_true]
        exact ⟨tset_all (fun i => decide (j < i)) r k v (by simpa using this) h.1, ih h.2⟩

theorem tsorted_filter (p : Nat × α → Bool) (t : Table α) (h : tsorted t = true) : tsorted (t.filter p) = true := by
  induction t with
  | nil => rfl
  | cons e r ih =>
    obtain ⟨j, a⟩ := e
    simp only [tsorted, Bool.and_eq_true] at h
    simp only [List.filter_cons]
    split
    · simp only [tsorted, Bool.and_eq_true]
      refine ⟨?_, ih h.2⟩
      simp only [List.all_eq_true] at *
      exact fun e he => h.1 e (List.mem_filter.mp he).1
    · exact ih h.2

theorem tsorted_terase (t : Table α) (k : Nat) (h : tsorted t = true) : tsorted (terase t k) = true :=
  tsorted_filter _ t h

/-! ### Memory -/

@[simp] theorem Memory.read_write_same (m : Memory) (a : Nat) (v : Byte) : Memory.read (Memory.write m a v) a = v := by
  unfold Memory.read Memory.write tput
  split
  · next h => simp [tgetD, h]
  · simp

theorem Memory.read_write_other (m : Memory) {a b : Nat} (v : Byte) (h : b ≠ a) :
    Memory.read (Memory.write m a v) b = Memory.read m b := by
  unfold Memory.read Memory.write tput
  split
  · simp [tgetD, tget_terase_other _ h]
  · exact tgetD_tset_other _ _ _ h

theorem Memory.wf_filter (p : Host.Cell → Bool) (m : Memory) (h : Memory.wf m = true) :
    Memory.wf (m.filter p) = true := by
  simp only [Memory.wf, Bool.and_eq_true] at *
  refine ⟨tsorted_filter p m h.1, ?_⟩
  simp only [List.all_eq_true] at *
  exact fun e he => h.2 e (List.mem_filter.mp he).1

theorem tset_all_snd (q : α → Bool) (t : Table α) (k : Nat) (v : α) (hv : q v = true)
    (h : t.all (fun e => q e.2) = true) : (tset t k v).all (fun e => q e.2) = true := by
  induction t with
  | nil => simpa [tset] using hv
  | cons e r ih =>
    obtain ⟨j, a⟩ := e
    simp only [List.all_cons, Bool.and_eq_true] at h
    unfold tset
    split
    · simp [hv, h.2]
    · split
      · simp [hv, h.1, h.2]
      · simp [h.1, ih h.2]

/-- A store keeps the canonical form. -/
theorem Memory.wf_write (m : Memory) (a : Nat) (v : Byte) (h : Memory.wf m = true) :
    Memory.wf (Memory.write m a v) = true := by
  unfold Memory.write tput
  split
  · exact Memory.wf_filter _ m h
  · next ne =>
    simp only [Memory.wf, Bool.and_eq_true] at *
    exact ⟨tsorted_tset m a v h.1, tset_all_snd (fun b => b != Memory.fill) m a v (by simpa using ne) h.2⟩

/-- A store of n bytes keeps the canonical form. -/
theorem Memory.wf_writeN (n : Nat) : ∀ (m : Memory) (a v : Nat), Memory.wf m = true →
    Memory.wf (Memory.writeN m a v n) = true := by
  induction n with
  | zero => intro m a v h; exact h
  | succ n ih => intro m a v h; exact ih _ _ _ (Memory.wf_write m a _ h)

/-- A store of n bytes leaves every byte outside them alone. -/
theorem Memory.read_writeN_other (n : Nat) : ∀ (m : Memory) (a v b : Nat), b < a ∨ a + n ≤ b →
    Memory.read (Memory.writeN m a v n) b = Memory.read m b := by
  induction n with
  | zero => intro m a v b _; rfl
  | succ n ih =>
    intro m a v b h
    rw [Memory.writeN, ih _ _ _ _ (by omega), Memory.read_write_other]
    omega

/-- The byte that a store of n bytes leaves at an offset. -/
theorem Memory.read_writeN_at (n : Nat) : ∀ (m : Memory) (a v i : Nat), i < n →
    Memory.read (Memory.writeN m a v n) (a + i) = BitVec.ofNat 8 (v / 256 ^ i) := by
  induction n with
  | zero => intro m a v i h; omega
  | succ n ih =>
    intro m a v i h
    rw [Memory.writeN]
    cases i with
    | zero => rw [Nat.add_zero, Memory.read_writeN_other n _ _ _ _ (by omega)]; simp
    | succ i =>
      rw [show a + (i + 1) = a + 1 + i by omega, ih _ _ _ _ (by omega)]
      simp [Nat.pow_succ, Nat.div_div_eq_div_mul, Nat.mul_comm]

/-- What was stored is read back. -/
theorem Memory.readN_writeN_same (n : Nat) : ∀ (m : Memory) (a v : Nat),
    Memory.readN (Memory.writeN m a v n) a n = v % 256 ^ n := by
  induction n with
  | zero => intro m a v; simp [Memory.readN, Nat.mod_one]
  | succ n ih =>
    intro m a v
    have h0 := Memory.read_writeN_at (n + 1) m a v 0 (by omega)
    simp only [Nat.add_zero, Nat.pow_zero, Nat.div_one] at h0
    rw [Memory.readN, h0, Memory.writeN, ih]
    rw [BitVec.toNat_ofNat, show (2 : Nat) ^ 8 = 256 from rfl, show (256 : Nat) ^ (n + 1) = 256 * 256 ^ n by
      rw [Nat.pow_succ, Nat.mul_comm], Nat.mod_mul]

/-- Reading n bytes depends on those bytes alone. -/
theorem Memory.readN_congr (n : Nat) : ∀ (m m' : Memory) (a : Nat),
    (∀ i, i < n → Memory.read m (a + i) = Memory.read m' (a + i)) → Memory.readN m a n = Memory.readN m' a n := by
  induction n with
  | zero => intro m m' a _; rfl
  | succ n ih =>
    intro m m' a h
    have h0 := h 0 (by omega)
    simp only [Nat.add_zero] at h0
    rw [Memory.readN, Memory.readN, h0, ih m m' (a + 1) (fun i hi => by
      have := h (i + 1) (by omega)
      rwa [show a + (i + 1) = a + 1 + i by omega] at this)]

theorem Memory.readN_writeN_other (m : Memory) (a v n b k : Nat) (h : b + k ≤ a ∨ a + n ≤ b) :
    Memory.readN (Memory.writeN m a v n) b k = Memory.readN m b k :=
  Memory.readN_congr k _ _ _ (fun i hi => Memory.read_writeN_other n m a v _ (by omega))

end Sys2Proof.Machine
end

