-- ==== Sys2Proof/Laws/State.lean ====
section
/-! SUPPORT. One lemma for each field after each update of State: what the update writes, and that it writes nothing else. -/

namespace Sys2Proof.Machine

variable (s : State)

@[simp] theorem State.setThread_threads (p : Party) (t : Thread) : (s.setThread p t).threads = tset s.threads (Party.key p) t := rfl
@[simp] theorem State.setThread_rest (p : Party) (t : Thread) : (s.setThread p t).rest = s.rest := rfl
@[simp] theorem State.setThread_cores (p : Party) (t : Thread) : (s.setThread p t).cores = s.cores := rfl
@[simp] theorem State.setThread_clusters (p : Party) (t : Thread) : (s.setThread p t).clusters = s.clusters := rfl
@[simp] theorem State.setThread_dies (p : Party) (t : Thread) : (s.setThread p t).dies = s.dies := rfl
@[simp] theorem State.setThread_mem (p : Party) (t : Thread) : (s.setThread p t).mem = s.mem := rfl
@[simp] theorem State.setThread_memPoison (p : Party) (t : Thread) : (s.setThread p t).memPoison = s.memPoison := rfl
@[simp] theorem State.setThread_sram (p : Party) (t : Thread) : (s.setThread p t).sram = s.sram := rfl
@[simp] theorem State.setThread_sramPoison (p : Party) (t : Thread) : (s.setThread p t).sramPoison = s.sramPoison := rfl
@[simp] theorem State.setThread_wmem (p : Party) (t : Thread) : (s.setThread p t).wmem = s.wmem := rfl
@[simp] theorem State.setThread_wmemPoison (p : Party) (t : Thread) : (s.setThread p t).wmemPoison = s.wmemPoison := rfl
@[simp] theorem State.setThread_units (p : Party) (t : Thread) : (s.setThread p t).units = s.units := rfl
@[simp] theorem State.setThread_launches (p : Party) (t : Thread) : (s.setThread p t).launches = s.launches := rfl
@[simp] theorem State.setThread_queues (p : Party) (t : Thread) : (s.setThread p t).queues = s.queues := rfl
@[simp] theorem State.setThread_saved (p : Party) (t : Thread) : (s.setThread p t).saved = s.saved := rfl
@[simp] theorem State.setThread_nodes (p : Party) (t : Thread) : (s.setThread p t).nodes = s.nodes := rfl
@[simp] theorem State.setThread_revs (p : Party) (t : Thread) : (s.setThread p t).revs = s.revs := rfl
@[simp] theorem State.setThread_regions (p : Party) (t : Thread) : (s.setThread p t).regions = s.regions := rfl
@[simp] theorem State.setThread_pendingRevs (p : Party) (t : Thread) : (s.setThread p t).pendingRevs = s.pendingRevs := rfl
@[simp] theorem State.setThread_bars (p : Party) (t : Thread) : (s.setThread p t).bars = s.bars := rfl
@[simp] theorem State.setThread_swapPending (p : Party) (t : Thread) : (s.setThread p t).swapPending = s.swapPending := rfl
@[simp] theorem State.setThread_swaps (p : Party) (t : Thread) : (s.setThread p t).swaps = s.swaps := rfl
@[simp] theorem State.setThread_flights (p : Party) (t : Thread) : (s.setThread p t).flights = s.flights := rfl
@[simp] theorem State.setThread_veils (p : Party) (t : Thread) : (s.setThread p t).veils = s.veils := rfl
@[simp] theorem State.setThread_latched (p : Party) (t : Thread) : (s.setThread p t).latched = s.latched := rfl
@[simp] theorem State.setThread_port (p : Party) (t : Thread) : (s.setThread p t).port = s.port := rfl
@[simp] theorem State.setThread_culverts (p : Party) (t : Thread) : (s.setThread p t).culverts = s.culverts := rfl
@[simp] theorem State.setThread_channels (p : Party) (t : Thread) : (s.setThread p t).channels = s.channels := rfl
@[simp] theorem State.setThread_attest (p : Party) (t : Thread) : (s.setThread p t).attest = s.attest := rfl
@[simp] theorem State.setThread_booted (p : Party) (t : Thread) : (s.setThread p t).booted = s.booted := rfl
@[simp] theorem State.setThread_failed (p : Party) (t : Thread) : (s.setThread p t).failed = s.failed := rfl
@[simp] theorem State.setThread_eventSeq (p : Party) (t : Thread) : (s.setThread p t).eventSeq = s.eventSeq := rfl
@[simp] theorem State.setThread_cur (p : Party) (t : Thread) : (s.setThread p t).cur = s.cur := rfl
@[simp] theorem State.setThread_issue (p : Party) (t : Thread) : (s.setThread p t).issue = s.issue := rfl
@[simp] theorem State.setThread_agenda (p : Party) (t : Thread) : (s.setThread p t).agenda = s.agenda := rfl
@[simp] theorem State.setThread_nextOp (p : Party) (t : Thread) : (s.setThread p t).nextOp = s.nextOp := rfl
@[simp] theorem State.setThread_nextCtx (p : Party) (t : Thread) : (s.setThread p t).nextCtx = s.nextCtx := rfl
@[simp] theorem State.setThread_nextUnit (p : Party) (t : Thread) : (s.setThread p t).nextUnit = s.nextUnit := rfl
@[simp] theorem State.setThread_nextLaunch (p : Party) (t : Thread) : (s.setThread p t).nextLaunch = s.nextLaunch := rfl
@[simp] theorem State.setThread_freeCount (p : Party) (t : Thread) : (s.setThread p t).freeCount = s.freeCount := rfl

@[simp] theorem State.dropThread_threads (p : Party) : (s.dropThread p).threads = terase s.threads (Party.key p) := rfl
@[simp] theorem State.dropThread_rest (p : Party) : (s.dropThread p).rest = s.rest := rfl
@[simp] theorem State.dropThread_cores (p : Party) : (s.dropThread p).cores = s.cores := rfl
@[simp] theorem State.dropThread_clusters (p : Party) : (s.dropThread p).clusters = s.clusters := rfl
@[simp] theorem State.dropThread_dies (p : Party) : (s.dropThread p).dies = s.dies := rfl
@[simp] theorem State.dropThread_mem (p : Party) : (s.dropThread p).mem = s.mem := rfl
@[simp] theorem State.dropThread_memPoison (p : Party) : (s.dropThread p).memPoison = s.memPoison := rfl
@[simp] theorem State.dropThread_sram (p : Party) : (s.dropThread p).sram = s.sram := rfl
@[simp] theorem State.dropThread_sramPoison (p : Party) : (s.dropThread p).sramPoison = s.sramPoison := rfl
@[simp] theorem State.dropThread_wmem (p : Party) : (s.dropThread p).wmem = s.wmem := rfl
@[simp] theorem State.dropThread_wmemPoison (p : Party) : (s.dropThread p).wmemPoison = s.wmemPoison := rfl
@[simp] theorem State.dropThread_units (p : Party) : (s.dropThread p).units = s.units := rfl
@[simp] theorem State.dropThread_launches (p : Party) : (s.dropThread p).launches = s.launches := rfl
@[simp] theorem State.dropThread_queues (p : Party) : (s.dropThread p).queues = s.queues := rfl
@[simp] theorem State.dropThread_saved (p : Party) : (s.dropThread p).saved = s.saved := rfl
@[simp] theorem State.dropThread_nodes (p : Party) : (s.dropThread p).nodes = s.nodes := rfl
@[simp] theorem State.dropThread_revs (p : Party) : (s.dropThread p).revs = s.revs := rfl
@[simp] theorem State.dropThread_regions (p : Party) : (s.dropThread p).regions = s.regions := rfl
@[simp] theorem State.dropThread_pendingRevs (p : Party) : (s.dropThread p).pendingRevs = s.pendingRevs := rfl
@[simp] theorem State.dropThread_bars (p : Party) : (s.dropThread p).bars = s.bars := rfl
@[simp] theorem State.dropThread_swapPending (p : Party) : (s.dropThread p).swapPending = s.swapPending := rfl
@[simp] theorem State.dropThread_swaps (p : Party) : (s.dropThread p).swaps = s.swaps := rfl
@[simp] theorem State.dropThread_flights (p : Party) : (s.dropThread p).flights = s.flights := rfl
@[simp] theorem State.dropThread_veils (p : Party) : (s.dropThread p).veils = s.veils := rfl
@[simp] theorem State.dropThread_latched (p : Party) : (s.dropThread p).latched = s.latched := rfl
@[simp] theorem State.dropThread_port (p : Party) : (s.dropThread p).port = s.port := rfl
@[simp] theorem State.dropThread_culverts (p : Party) : (s.dropThread p).culverts = s.culverts := rfl
@[simp] theorem State.dropThread_channels (p : Party) : (s.dropThread p).channels = s.channels := rfl
@[simp] theorem State.dropThread_attest (p : Party) : (s.dropThread p).attest = s.attest := rfl
@[simp] theorem State.dropThread_booted (p : Party) : (s.dropThread p).booted = s.booted := rfl
@[simp] theorem State.dropThread_failed (p : Party) : (s.dropThread p).failed = s.failed := rfl
@[simp] theorem State.dropThread_eventSeq (p : Party) : (s.dropThread p).eventSeq = s.eventSeq := rfl
@[simp] theorem State.dropThread_cur (p : Party) : (s.dropThread p).cur = s.cur := rfl
@[simp] theorem State.dropThread_issue (p : Party) : (s.dropThread p).issue = s.issue := rfl
@[simp] theorem State.dropThread_agenda (p : Party) : (s.dropThread p).agenda = s.agenda := rfl
@[simp] theorem State.dropThread_nextOp (p : Party) : (s.dropThread p).nextOp = s.nextOp := rfl
@[simp] theorem State.dropThread_nextCtx (p : Party) : (s.dropThread p).nextCtx = s.nextCtx := rfl
@[simp] theorem State.dropThread_nextUnit (p : Party) : (s.dropThread p).nextUnit = s.nextUnit := rfl
@[simp] theorem State.dropThread_nextLaunch (p : Party) : (s.dropThread p).nextLaunch = s.nextLaunch := rfl
@[simp] theorem State.dropThread_freeCount (p : Party) : (s.dropThread p).freeCount = s.freeCount := rfl

@[simp] theorem State.setCoreAt_threads (k : Nat) (c : CoreSt) : (s.setCoreAt k c).threads = s.threads := rfl
@[simp] theorem State.setCoreAt_rest (k : Nat) (c : CoreSt) : (s.setCoreAt k c).rest = s.rest := rfl
@[simp] theorem State.setCoreAt_cores (k : Nat) (c : CoreSt) : (s.setCoreAt k c).cores = tset s.cores k c := rfl
@[simp] theorem State.setCoreAt_clusters (k : Nat) (c : CoreSt) : (s.setCoreAt k c).clusters = s.clusters := rfl
@[simp] theorem State.setCoreAt_dies (k : Nat) (c : CoreSt) : (s.setCoreAt k c).dies = s.dies := rfl
@[simp] theorem State.setCoreAt_mem (k : Nat) (c : CoreSt) : (s.setCoreAt k c).mem = s.mem := rfl
@[simp] theorem State.setCoreAt_memPoison (k : Nat) (c : CoreSt) : (s.setCoreAt k c).memPoison = s.memPoison := rfl
@[simp] theorem State.setCoreAt_sram (k : Nat) (c : CoreSt) : (s.setCoreAt k c).sram = s.sram := rfl
@[simp] theorem State.setCoreAt_sramPoison (k : Nat) (c : CoreSt) : (s.setCoreAt k c).sramPoison = s.sramPoison := rfl
@[simp] theorem State.setCoreAt_wmem (k : Nat) (c : CoreSt) : (s.setCoreAt k c).wmem = s.wmem := rfl
@[simp] theorem State.setCoreAt_wmemPoison (k : Nat) (c : CoreSt) : (s.setCoreAt k c).wmemPoison = s.wmemPoison := rfl
@[simp] theorem State.setCoreAt_units (k : Nat) (c : CoreSt) : (s.setCoreAt k c).units = s.units := rfl
@[simp] theorem State.setCoreAt_launches (k : Nat) (c : CoreSt) : (s.setCoreAt k c).launches = s.launches := rfl
@[simp] theorem State.setCoreAt_queues (k : Nat) (c : CoreSt) : (s.setCoreAt k c).queues = s.queues := rfl
@[simp] theorem State.setCoreAt_saved (k : Nat) (c : CoreSt) : (s.setCoreAt k c).saved = s.saved := rfl
@[simp] theorem State.setCoreAt_nodes (k : Nat) (c : CoreSt) : (s.setCoreAt k c).nodes = s.nodes := rfl
@[simp] theorem State.setCoreAt_revs (k : Nat) (c : CoreSt) : (s.setCoreAt k c).revs = s.revs := rfl
@[simp] theorem State.setCoreAt_regions (k : Nat) (c : CoreSt) : (s.setCoreAt k c).regions = s.regions := rfl
@[simp] theorem State.setCoreAt_pendingRevs (k : Nat) (c : CoreSt) : (s.setCoreAt k c).pendingRevs = s.pendingRevs := rfl
@[simp] theorem State.setCoreAt_bars (k : Nat) (c : CoreSt) : (s.setCoreAt k c).bars = s.bars := rfl
@[simp] theorem State.setCoreAt_swapPending (k : Nat) (c : CoreSt) : (s.setCoreAt k c).swapPending = s.swapPending := rfl
@[simp] theorem State.setCoreAt_swaps (k : Nat) (c : CoreSt) : (s.setCoreAt k c).swaps = s.swaps := rfl
@[simp] theorem State.setCoreAt_flights (k : Nat) (c : CoreSt) : (s.setCoreAt k c).flights = s.flights := rfl
@[simp] theorem State.setCoreAt_veils (k : Nat) (c : CoreSt) : (s.setCoreAt k c).veils = s.veils := rfl
@[simp] theorem State.setCoreAt_latched (k : Nat) (c : CoreSt) : (s.setCoreAt k c).latched = s.latched := rfl
@[simp] theorem State.setCoreAt_port (k : Nat) (c : CoreSt) : (s.setCoreAt k c).port = s.port := rfl
@[simp] theorem State.setCoreAt_culverts (k : Nat) (c : CoreSt) : (s.setCoreAt k c).culverts = s.culverts := rfl
@[simp] theorem State.setCoreAt_channels (k : Nat) (c : CoreSt) : (s.setCoreAt k c).channels = s.channels := rfl
@[simp] theorem State.setCoreAt_attest (k : Nat) (c : CoreSt) : (s.setCoreAt k c).attest = s.attest := rfl
@[simp] theorem State.setCoreAt_booted (k : Nat) (c : CoreSt) : (s.setCoreAt k c).booted = s.booted := rfl
@[simp] theorem State.setCoreAt_failed (k : Nat) (c : CoreSt) : (s.setCoreAt k c).failed = s.failed := rfl
@[simp] theorem State.setCoreAt_eventSeq (k : Nat) (c : CoreSt) : (s.setCoreAt k c).eventSeq = s.eventSeq := rfl
@[simp] theorem State.setCoreAt_cur (k : Nat) (c : CoreSt) : (s.setCoreAt k c).cur = s.cur := rfl
@[simp] theorem State.setCoreAt_issue (k : Nat) (c : CoreSt) : (s.setCoreAt k c).issue = s.issue := rfl
@[simp] theorem State.setCoreAt_agenda (k : Nat) (c : CoreSt) : (s.setCoreAt k c).agenda = s.agenda := rfl
@[simp] theorem State.setCoreAt_nextOp (k : Nat) (c : CoreSt) : (s.setCoreAt k c).nextOp = s.nextOp := rfl
@[simp] theorem State.setCoreAt_nextCtx (k : Nat) (c : CoreSt) : (s.setCoreAt k c).nextCtx = s.nextCtx := rfl
@[simp] theorem State.setCoreAt_nextUnit (k : Nat) (c : CoreSt) : (s.setCoreAt k c).nextUnit = s.nextUnit := rfl
@[simp] theorem State.setCoreAt_nextLaunch (k : Nat) (c : CoreSt) : (s.setCoreAt k c).nextLaunch = s.nextLaunch := rfl
@[simp] theorem State.setCoreAt_freeCount (k : Nat) (c : CoreSt) : (s.setCoreAt k c).freeCount = s.freeCount := rfl

@[simp] theorem State.setClusterAt_threads (k : Nat) (c : ClusterSt) : (s.setClusterAt k c).threads = s.threads := rfl
@[simp] theorem State.setClusterAt_rest (k : Nat) (c : ClusterSt) : (s.setClusterAt k c).rest = s.rest := rfl
@[simp] theorem State.setClusterAt_cores (k : Nat) (c : ClusterSt) : (s.setClusterAt k c).cores = s.cores := rfl
@[simp] theorem State.setClusterAt_clusters (k : Nat) (c : ClusterSt) : (s.setClusterAt k c).clusters = tset s.clusters k c := rfl
@[simp] theorem State.setClusterAt_dies (k : Nat) (c : ClusterSt) : (s.setClusterAt k c).dies = s.dies := rfl
@[simp] theorem State.setClusterAt_mem (k : Nat) (c : ClusterSt) : (s.setClusterAt k c).mem = s.mem := rfl
@[simp] theorem State.setClusterAt_memPoison (k : Nat) (c : ClusterSt) : (s.setClusterAt k c).memPoison = s.memPoison := rfl
@[simp] theorem State.setClusterAt_sram (k : Nat) (c : ClusterSt) : (s.setClusterAt k c).sram = s.sram := rfl
@[simp] theorem State.setClusterAt_sramPoison (k : Nat) (c : ClusterSt) : (s.setClusterAt k c).sramPoison = s.sramPoison := rfl
@[simp] theorem State.setClusterAt_wmem (k : Nat) (c : ClusterSt) : (s.setClusterAt k c).wmem = s.wmem := rfl
@[simp] theorem State.setClusterAt_wmemPoison (k : Nat) (c : ClusterSt) : (s.setClusterAt k c).wmemPoison = s.wmemPoison := rfl
@[simp] theorem State.setClusterAt_units (k : Nat) (c : ClusterSt) : (s.setClusterAt k c).units = s.units := rfl
@[simp] theorem State.setClusterAt_launches (k : Nat) (c : ClusterSt) : (s.setClusterAt k c).launches = s.launches := rfl
@[simp] theorem State.setClusterAt_queues (k : Nat) (c : ClusterSt) : (s.setClusterAt k c).queues = s.queues := rfl
@[simp] theorem State.setClusterAt_saved (k : Nat) (c : ClusterSt) : (s.setClusterAt k c).saved = s.saved := rfl
@[simp] theorem State.setClusterAt_nodes (k : Nat) (c : ClusterSt) : (s.setClusterAt k c).nodes = s.nodes := rfl
@[simp] theorem State.setClusterAt_revs (k : Nat) (c : ClusterSt) : (s.setClusterAt k c).revs = s.revs := rfl
@[simp] theorem State.setClusterAt_regions (k : Nat) (c : ClusterSt) : (s.setClusterAt k c).regions = s.regions := rfl
@[simp] theorem State.setClusterAt_pendingRevs (k : Nat) (c : ClusterSt) : (s.setClusterAt k c).pendingRevs = s.pendingRevs := rfl
@[simp] theorem State.setClusterAt_bars (k : Nat) (c : ClusterSt) : (s.setClusterAt k c).bars = s.bars := rfl
@[simp] theorem State.setClusterAt_swapPending (k : Nat) (c : ClusterSt) : (s.setClusterAt k c).swapPending = s.swapPending := rfl
@[simp] theorem State.setClusterAt_swaps (k : Nat) (c : ClusterSt) : (s.setClusterAt k c).swaps = s.swaps := rfl
@[simp] theorem State.setClusterAt_flights (k : Nat) (c : ClusterSt) : (s.setClusterAt k c).flights = s.flights := rfl
@[simp] theorem State.setClusterAt_veils (k : Nat) (c : ClusterSt) : (s.setClusterAt k c).veils = s.veils := rfl
@[simp] theorem State.setClusterAt_latched (k : Nat) (c : ClusterSt) : (s.setClusterAt k c).latched = s.latched := rfl
@[simp] theorem State.setClusterAt_port (k : Nat) (c : ClusterSt) : (s.setClusterAt k c).port = s.port := rfl
@[simp] theorem State.setClusterAt_culverts (k : Nat) (c : ClusterSt) : (s.setClusterAt k c).culverts = s.culverts := rfl
@[simp] theorem State.setClusterAt_channels (k : Nat) (c : ClusterSt) : (s.setClusterAt k c).channels = s.channels := rfl
@[simp] theorem State.setClusterAt_attest (k : Nat) (c : ClusterSt) : (s.setClusterAt k c).attest = s.attest := rfl
@[simp] theorem State.setClusterAt_booted (k : Nat) (c : ClusterSt) : (s.setClusterAt k c).booted = s.booted := rfl
@[simp] theorem State.setClusterAt_failed (k : Nat) (c : ClusterSt) : (s.setClusterAt k c).failed = s.failed := rfl
@[simp] theorem State.setClusterAt_eventSeq (k : Nat) (c : ClusterSt) : (s.setClusterAt k c).eventSeq = s.eventSeq := rfl
@[simp] theorem State.setClusterAt_cur (k : Nat) (c : ClusterSt) : (s.setClusterAt k c).cur = s.cur := rfl
@[simp] theorem State.setClusterAt_issue (k : Nat) (c : ClusterSt) : (s.setClusterAt k c).issue = s.issue := rfl
@[simp] theorem State.setClusterAt_agenda (k : Nat) (c : ClusterSt) : (s.setClusterAt k c).agenda = s.agenda := rfl
@[simp] theorem State.setClusterAt_nextOp (k : Nat) (c : ClusterSt) : (s.setClusterAt k c).nextOp = s.nextOp := rfl
@[simp] theorem State.setClusterAt_nextCtx (k : Nat) (c : ClusterSt) : (s.setClusterAt k c).nextCtx = s.nextCtx := rfl
@[simp] theorem State.setClusterAt_nextUnit (k : Nat) (c : ClusterSt) : (s.setClusterAt k c).nextUnit = s.nextUnit := rfl
@[simp] theorem State.setClusterAt_nextLaunch (k : Nat) (c : ClusterSt) : (s.setClusterAt k c).nextLaunch = s.nextLaunch := rfl
@[simp] theorem State.setClusterAt_freeCount (k : Nat) (c : ClusterSt) : (s.setClusterAt k c).freeCount = s.freeCount := rfl

@[simp] theorem State.setDie_threads (d : Nat) (x : DieSt) : (s.setDie d x).threads = s.threads := rfl
@[simp] theorem State.setDie_rest (d : Nat) (x : DieSt) : (s.setDie d x).rest = s.rest := rfl
@[simp] theorem State.setDie_cores (d : Nat) (x : DieSt) : (s.setDie d x).cores = s.cores := rfl
@[simp] theorem State.setDie_clusters (d : Nat) (x : DieSt) : (s.setDie d x).clusters = s.clusters := rfl
@[simp] theorem State.setDie_dies (d : Nat) (x : DieSt) : (s.setDie d x).dies = tset s.dies d x := rfl
@[simp] theorem State.setDie_mem (d : Nat) (x : DieSt) : (s.setDie d x).mem = s.mem := rfl
@[simp] theorem State.setDie_memPoison (d : Nat) (x : DieSt) : (s.setDie d x).memPoison = s.memPoison := rfl
@[simp] theorem State.setDie_sram (d : Nat) (x : DieSt) : (s.setDie d x).sram = s.sram := rfl
@[simp] theorem State.setDie_sramPoison (d : Nat) (x : DieSt) : (s.setDie d x).sramPoison = s.sramPoison := rfl
@[simp] theorem State.setDie_wmem (d : Nat) (x : DieSt) : (s.setDie d x).wmem = s.wmem := rfl
@[simp] theorem State.setDie_wmemPoison (d : Nat) (x : DieSt) : (s.setDie d x).wmemPoison = s.wmemPoison := rfl
@[simp] theorem State.setDie_units (d : Nat) (x : DieSt) : (s.setDie d x).units = s.units := rfl
@[simp] theorem State.setDie_launches (d : Nat) (x : DieSt) : (s.setDie d x).launches = s.launches := rfl
@[simp] theorem State.setDie_queues (d : Nat) (x : DieSt) : (s.setDie d x).queues = s.queues := rfl
@[simp] theorem State.setDie_saved (d : Nat) (x : DieSt) : (s.setDie d x).saved = s.saved := rfl
@[simp] theorem State.setDie_nodes (d : Nat) (x : DieSt) : (s.setDie d x).nodes = s.nodes := rfl
@[simp] theorem State.setDie_revs (d : Nat) (x : DieSt) : (s.setDie d x).revs = s.revs := rfl
@[simp] theorem State.setDie_regions (d : Nat) (x : DieSt) : (s.setDie d x).regions = s.regions := rfl
@[simp] theorem State.setDie_pendingRevs (d : Nat) (x : DieSt) : (s.setDie d x).pendingRevs = s.pendingRevs := rfl
@[simp] theorem State.setDie_bars (d : Nat) (x : DieSt) : (s.setDie d x).bars = s.bars := rfl
@[simp] theorem State.setDie_swapPending (d : Nat) (x : DieSt) : (s.setDie d x).swapPending = s.swapPending := rfl
@[simp] theorem State.setDie_swaps (d : Nat) (x : DieSt) : (s.setDie d x).swaps = s.swaps := rfl
@[simp] theorem State.setDie_flights (d : Nat) (x : DieSt) : (s.setDie d x).flights = s.flights := rfl
@[simp] theorem State.setDie_veils (d : Nat) (x : DieSt) : (s.setDie d x).veils = s.veils := rfl
@[simp] theorem State.setDie_latched (d : Nat) (x : DieSt) : (s.setDie d x).latched = s.latched := rfl
@[simp] theorem State.setDie_port (d : Nat) (x : DieSt) : (s.setDie d x).port = s.port := rfl
@[simp] theorem State.setDie_culverts (d : Nat) (x : DieSt) : (s.setDie d x).culverts = s.culverts := rfl
@[simp] theorem State.setDie_channels (d : Nat) (x : DieSt) : (s.setDie d x).channels = s.channels := rfl
@[simp] theorem State.setDie_attest (d : Nat) (x : DieSt) : (s.setDie d x).attest = s.attest := rfl
@[simp] theorem State.setDie_booted (d : Nat) (x : DieSt) : (s.setDie d x).booted = s.booted := rfl
@[simp] theorem State.setDie_failed (d : Nat) (x : DieSt) : (s.setDie d x).failed = s.failed := rfl
@[simp] theorem State.setDie_eventSeq (d : Nat) (x : DieSt) : (s.setDie d x).eventSeq = s.eventSeq := rfl
@[simp] theorem State.setDie_cur (d : Nat) (x : DieSt) : (s.setDie d x).cur = s.cur := rfl
@[simp] theorem State.setDie_issue (d : Nat) (x : DieSt) : (s.setDie d x).issue = s.issue := rfl
@[simp] theorem State.setDie_agenda (d : Nat) (x : DieSt) : (s.setDie d x).agenda = s.agenda := rfl
@[simp] theorem State.setDie_nextOp (d : Nat) (x : DieSt) : (s.setDie d x).nextOp = s.nextOp := rfl
@[simp] theorem State.setDie_nextCtx (d : Nat) (x : DieSt) : (s.setDie d x).nextCtx = s.nextCtx := rfl
@[simp] theorem State.setDie_nextUnit (d : Nat) (x : DieSt) : (s.setDie d x).nextUnit = s.nextUnit := rfl
@[simp] theorem State.setDie_nextLaunch (d : Nat) (x : DieSt) : (s.setDie d x).nextLaunch = s.nextLaunch := rfl
@[simp] theorem State.setDie_freeCount (d : Nat) (x : DieSt) : (s.setDie d x).freeCount = s.freeCount := rfl

@[simp] theorem State.setWork_threads (u : Nat) (w : Work) : (s.setWork u w).threads = s.threads := rfl
@[simp] theorem State.setWork_rest (u : Nat) (w : Work) : (s.setWork u w).rest = s.rest := rfl
@[simp] theorem State.setWork_cores (u : Nat) (w : Work) : (s.setWork u w).cores = s.cores := rfl
@[simp] theorem State.setWork_clusters (u : Nat) (w : Work) : (s.setWork u w).clusters = s.clusters := rfl
@[simp] theorem State.setWork_dies (u : Nat) (w : Work) : (s.setWork u w).dies = s.dies := rfl
@[simp] theorem State.setWork_mem (u : Nat) (w : Work) : (s.setWork u w).mem = s.mem := rfl
@[simp] theorem State.setWork_memPoison (u : Nat) (w : Work) : (s.setWork u w).memPoison = s.memPoison := rfl
@[simp] theorem State.setWork_sram (u : Nat) (w : Work) : (s.setWork u w).sram = s.sram := rfl
@[simp] theorem State.setWork_sramPoison (u : Nat) (w : Work) : (s.setWork u w).sramPoison = s.sramPoison := rfl
@[simp] theorem State.setWork_wmem (u : Nat) (w : Work) : (s.setWork u w).wmem = s.wmem := rfl
@[simp] theorem State.setWork_wmemPoison (u : Nat) (w : Work) : (s.setWork u w).wmemPoison = s.wmemPoison := rfl
@[simp] theorem State.setWork_units (u : Nat) (w : Work) : (s.setWork u w).units = tset s.units u w := rfl
@[simp] theorem State.setWork_launches (u : Nat) (w : Work) : (s.setWork u w).launches = s.launches := rfl
@[simp] theorem State.setWork_queues (u : Nat) (w : Work) : (s.setWork u w).queues = s.queues := rfl
@[simp] theorem State.setWork_saved (u : Nat) (w : Work) : (s.setWork u w).saved = s.saved := rfl
@[simp] theorem State.setWork_nodes (u : Nat) (w : Work) : (s.setWork u w).nodes = s.nodes := rfl
@[simp] theorem State.setWork_revs (u : Nat) (w : Work) : (s.setWork u w).revs = s.revs := rfl
@[simp] theorem State.setWork_regions (u : Nat) (w : Work) : (s.setWork u w).regions = s.regions := rfl
@[simp] theorem State.setWork_pendingRevs (u : Nat) (w : Work) : (s.setWork u w).pendingRevs = s.pendingRevs := rfl
@[simp] theorem State.setWork_bars (u : Nat) (w : Work) : (s.setWork u w).bars = s.bars := rfl
@[simp] theorem State.setWork_swapPending (u : Nat) (w : Work) : (s.setWork u w).swapPending = s.swapPending := rfl
@[simp] theorem State.setWork_swaps (u : Nat) (w : Work) : (s.setWork u w).swaps = s.swaps := rfl
@[simp] theorem State.setWork_flights (u : Nat) (w : Work) : (s.setWork u w).flights = s.flights := rfl
@[simp] theorem State.setWork_veils (u : Nat) (w : Work) : (s.setWork u w).veils = s.veils := rfl
@[simp] theorem State.setWork_latched (u : Nat) (w : Work) : (s.setWork u w).latched = s.latched := rfl
@[simp] theorem State.setWork_port (u : Nat) (w : Work) : (s.setWork u w).port = s.port := rfl
@[simp] theorem State.setWork_culverts (u : Nat) (w : Work) : (s.setWork u w).culverts = s.culverts := rfl
@[simp] theorem State.setWork_channels (u : Nat) (w : Work) : (s.setWork u w).channels = s.channels := rfl
@[simp] theorem State.setWork_attest (u : Nat) (w : Work) : (s.setWork u w).attest = s.attest := rfl
@[simp] theorem State.setWork_booted (u : Nat) (w : Work) : (s.setWork u w).booted = s.booted := rfl
@[simp] theorem State.setWork_failed (u : Nat) (w : Work) : (s.setWork u w).failed = s.failed := rfl
@[simp] theorem State.setWork_eventSeq (u : Nat) (w : Work) : (s.setWork u w).eventSeq = s.eventSeq := rfl
@[simp] theorem State.setWork_cur (u : Nat) (w : Work) : (s.setWork u w).cur = s.cur := rfl
@[simp] theorem State.setWork_issue (u : Nat) (w : Work) : (s.setWork u w).issue = s.issue := rfl
@[simp] theorem State.setWork_agenda (u : Nat) (w : Work) : (s.setWork u w).agenda = s.agenda := rfl
@[simp] theorem State.setWork_nextOp (u : Nat) (w : Work) : (s.setWork u w).nextOp = s.nextOp := rfl
@[simp] theorem State.setWork_nextCtx (u : Nat) (w : Work) : (s.setWork u w).nextCtx = s.nextCtx := rfl
@[simp] theorem State.setWork_nextUnit (u : Nat) (w : Work) : (s.setWork u w).nextUnit = s.nextUnit := rfl
@[simp] theorem State.setWork_nextLaunch (u : Nat) (w : Work) : (s.setWork u w).nextLaunch = s.nextLaunch := rfl
@[simp] theorem State.setWork_freeCount (u : Nat) (w : Work) : (s.setWork u w).freeCount = s.freeCount := rfl

@[simp] theorem State.setQueue_threads (q : Nat) (x : LQueue) : (s.setQueue q x).threads = s.threads := rfl
@[simp] theorem State.setQueue_rest (q : Nat) (x : LQueue) : (s.setQueue q x).rest = s.rest := rfl
@[simp] theorem State.setQueue_cores (q : Nat) (x : LQueue) : (s.setQueue q x).cores = s.cores := rfl
@[simp] theorem State.setQueue_clusters (q : Nat) (x : LQueue) : (s.setQueue q x).clusters = s.clusters := rfl
@[simp] theorem State.setQueue_dies (q : Nat) (x : LQueue) : (s.setQueue q x).dies = s.dies := rfl
@[simp] theorem State.setQueue_mem (q : Nat) (x : LQueue) : (s.setQueue q x).mem = s.mem := rfl
@[simp] theorem State.setQueue_memPoison (q : Nat) (x : LQueue) : (s.setQueue q x).memPoison = s.memPoison := rfl
@[simp] theorem State.setQueue_sram (q : Nat) (x : LQueue) : (s.setQueue q x).sram = s.sram := rfl
@[simp] theorem State.setQueue_sramPoison (q : Nat) (x : LQueue) : (s.setQueue q x).sramPoison = s.sramPoison := rfl
@[simp] theorem State.setQueue_wmem (q : Nat) (x : LQueue) : (s.setQueue q x).wmem = s.wmem := rfl
@[simp] theorem State.setQueue_wmemPoison (q : Nat) (x : LQueue) : (s.setQueue q x).wmemPoison = s.wmemPoison := rfl
@[simp] theorem State.setQueue_units (q : Nat) (x : LQueue) : (s.setQueue q x).units = s.units := rfl
@[simp] theorem State.setQueue_launches (q : Nat) (x : LQueue) : (s.setQueue q x).launches = s.launches := rfl
@[simp] theorem State.setQueue_queues (q : Nat) (x : LQueue) : (s.setQueue q x).queues = tset s.queues q x := rfl
@[simp] theorem State.setQueue_saved (q : Nat) (x : LQueue) : (s.setQueue q x).saved = s.saved := rfl
@[simp] theorem State.setQueue_nodes (q : Nat) (x : LQueue) : (s.setQueue q x).nodes = s.nodes := rfl
@[simp] theorem State.setQueue_revs (q : Nat) (x : LQueue) : (s.setQueue q x).revs = s.revs := rfl
@[simp] theorem State.setQueue_regions (q : Nat) (x : LQueue) : (s.setQueue q x).regions = s.regions := rfl
@[simp] theorem State.setQueue_pendingRevs (q : Nat) (x : LQueue) : (s.setQueue q x).pendingRevs = s.pendingRevs := rfl
@[simp] theorem State.setQueue_bars (q : Nat) (x : LQueue) : (s.setQueue q x).bars = s.bars := rfl
@[simp] theorem State.setQueue_swapPending (q : Nat) (x : LQueue) : (s.setQueue q x).swapPending = s.swapPending := rfl
@[simp] theorem State.setQueue_swaps (q : Nat) (x : LQueue) : (s.setQueue q x).swaps = s.swaps := rfl
@[simp] theorem State.setQueue_flights (q : Nat) (x : LQueue) : (s.setQueue q x).flights = s.flights := rfl
@[simp] theorem State.setQueue_veils (q : Nat) (x : LQueue) : (s.setQueue q x).veils = s.veils := rfl
@[simp] theorem State.setQueue_latched (q : Nat) (x : LQueue) : (s.setQueue q x).latched = s.latched := rfl
@[simp] theorem State.setQueue_port (q : Nat) (x : LQueue) : (s.setQueue q x).port = s.port := rfl
@[simp] theorem State.setQueue_culverts (q : Nat) (x : LQueue) : (s.setQueue q x).culverts = s.culverts := rfl
@[simp] theorem State.setQueue_channels (q : Nat) (x : LQueue) : (s.setQueue q x).channels = s.channels := rfl
@[simp] theorem State.setQueue_attest (q : Nat) (x : LQueue) : (s.setQueue q x).attest = s.attest := rfl
@[simp] theorem State.setQueue_booted (q : Nat) (x : LQueue) : (s.setQueue q x).booted = s.booted := rfl
@[simp] theorem State.setQueue_failed (q : Nat) (x : LQueue) : (s.setQueue q x).failed = s.failed := rfl
@[simp] theorem State.setQueue_eventSeq (q : Nat) (x : LQueue) : (s.setQueue q x).eventSeq = s.eventSeq := rfl
@[simp] theorem State.setQueue_cur (q : Nat) (x : LQueue) : (s.setQueue q x).cur = s.cur := rfl
@[simp] theorem State.setQueue_issue (q : Nat) (x : LQueue) : (s.setQueue q x).issue = s.issue := rfl
@[simp] theorem State.setQueue_agenda (q : Nat) (x : LQueue) : (s.setQueue q x).agenda = s.agenda := rfl
@[simp] theorem State.setQueue_nextOp (q : Nat) (x : LQueue) : (s.setQueue q x).nextOp = s.nextOp := rfl
@[simp] theorem State.setQueue_nextCtx (q : Nat) (x : LQueue) : (s.setQueue q x).nextCtx = s.nextCtx := rfl
@[simp] theorem State.setQueue_nextUnit (q : Nat) (x : LQueue) : (s.setQueue q x).nextUnit = s.nextUnit := rfl
@[simp] theorem State.setQueue_nextLaunch (q : Nat) (x : LQueue) : (s.setQueue q x).nextLaunch = s.nextLaunch := rfl
@[simp] theorem State.setQueue_freeCount (q : Nat) (x : LQueue) : (s.setQueue q x).freeCount = s.freeCount := rfl

@[simp] theorem State.writePa_threads (a n v : Nat) : (s.writePa a n v).threads = s.threads := rfl
@[simp] theorem State.writePa_rest (a n v : Nat) : (s.writePa a n v).rest = s.rest := rfl
@[simp] theorem State.writePa_cores (a n v : Nat) : (s.writePa a n v).cores = s.cores := rfl
@[simp] theorem State.writePa_clusters (a n v : Nat) : (s.writePa a n v).clusters = s.clusters := rfl
@[simp] theorem State.writePa_dies (a n v : Nat) : (s.writePa a n v).dies = s.dies := rfl
@[simp] theorem State.writePa_mem (a n v : Nat) : (s.writePa a n v).mem = Memory.writeN s.mem a v n := rfl
@[simp] theorem State.writePa_sram (a n v : Nat) : (s.writePa a n v).sram = s.sram := rfl
@[simp] theorem State.writePa_sramPoison (a n v : Nat) : (s.writePa a n v).sramPoison = s.sramPoison := rfl
@[simp] theorem State.writePa_wmem (a n v : Nat) : (s.writePa a n v).wmem = s.wmem := rfl
@[simp] theorem State.writePa_wmemPoison (a n v : Nat) : (s.writePa a n v).wmemPoison = s.wmemPoison := rfl
@[simp] theorem State.writePa_units (a n v : Nat) : (s.writePa a n v).units = s.units := rfl
@[simp] theorem State.writePa_launches (a n v : Nat) : (s.writePa a n v).launches = s.launches := rfl
@[simp] theorem State.writePa_queues (a n v : Nat) : (s.writePa a n v).queues = s.queues := rfl
@[simp] theorem State.writePa_saved (a n v : Nat) : (s.writePa a n v).saved = s.saved := rfl
@[simp] theorem State.writePa_nodes (a n v : Nat) : (s.writePa a n v).nodes = s.nodes := rfl
@[simp] theorem State.writePa_revs (a n v : Nat) : (s.writePa a n v).revs = s.revs := rfl
@[simp] theorem State.writePa_regions (a n v : Nat) : (s.writePa a n v).regions = s.regions := rfl
@[simp] theorem State.writePa_pendingRevs (a n v : Nat) : (s.writePa a n v).pendingRevs = s.pendingRevs := rfl
@[simp] theorem State.writePa_bars (a n v : Nat) : (s.writePa a n v).bars = s.bars := rfl
@[simp] theorem State.writePa_swapPending (a n v : Nat) : (s.writePa a n v).swapPending = s.swapPending := rfl
@[simp] theorem State.writePa_swaps (a n v : Nat) : (s.writePa a n v).swaps = s.swaps := rfl
@[simp] theorem State.writePa_flights (a n v : Nat) : (s.writePa a n v).flights = s.flights := rfl
@[simp] theorem State.writePa_veils (a n v : Nat) : (s.writePa a n v).veils = s.veils := rfl
@[simp] theorem State.writePa_latched (a n v : Nat) : (s.writePa a n v).latched = s.latched := rfl
@[simp] theorem State.writePa_port (a n v : Nat) : (s.writePa a n v).port = s.port := rfl
@[simp] theorem State.writePa_culverts (a n v : Nat) : (s.writePa a n v).culverts = s.culverts := rfl
@[simp] theorem State.writePa_channels (a n v : Nat) : (s.writePa a n v).channels = s.channels := rfl
@[simp] theorem State.writePa_attest (a n v : Nat) : (s.writePa a n v).attest = s.attest := rfl
@[simp] theorem State.writePa_booted (a n v : Nat) : (s.writePa a n v).booted = s.booted := rfl
@[simp] theorem State.writePa_failed (a n v : Nat) : (s.writePa a n v).failed = s.failed := rfl
@[simp] theorem State.writePa_eventSeq (a n v : Nat) : (s.writePa a n v).eventSeq = s.eventSeq := rfl
@[simp] theorem State.writePa_cur (a n v : Nat) : (s.writePa a n v).cur = s.cur := rfl
@[simp] theorem State.writePa_issue (a n v : Nat) : (s.writePa a n v).issue = s.issue := rfl
@[simp] theorem State.writePa_agenda (a n v : Nat) : (s.writePa a n v).agenda = s.agenda := rfl
@[simp] theorem State.writePa_nextOp (a n v : Nat) : (s.writePa a n v).nextOp = s.nextOp := rfl
@[simp] theorem State.writePa_nextCtx (a n v : Nat) : (s.writePa a n v).nextCtx = s.nextCtx := rfl
@[simp] theorem State.writePa_nextUnit (a n v : Nat) : (s.writePa a n v).nextUnit = s.nextUnit := rfl
@[simp] theorem State.writePa_nextLaunch (a n v : Nat) : (s.writePa a n v).nextLaunch = s.nextLaunch := rfl
@[simp] theorem State.writePa_freeCount (a n v : Nat) : (s.writePa a n v).freeCount = s.freeCount := rfl

@[simp] theorem State.poisonPa_threads (a n : Nat) : (s.poisonPa a n).threads = s.threads := rfl
@[simp] theorem State.poisonPa_rest (a n : Nat) : (s.poisonPa a n).rest = s.rest := rfl
@[simp] theorem State.poisonPa_cores (a n : Nat) : (s.poisonPa a n).cores = s.cores := rfl
@[simp] theorem State.poisonPa_clusters (a n : Nat) : (s.poisonPa a n).clusters = s.clusters := rfl
@[simp] theorem State.poisonPa_dies (a n : Nat) : (s.poisonPa a n).dies = s.dies := rfl
@[simp] theorem State.poisonPa_mem (a n : Nat) : (s.poisonPa a n).mem = s.mem := rfl
@[simp] theorem State.poisonPa_sram (a n : Nat) : (s.poisonPa a n).sram = s.sram := rfl
@[simp] theorem State.poisonPa_sramPoison (a n : Nat) : (s.poisonPa a n).sramPoison = s.sramPoison := rfl
@[simp] theorem State.poisonPa_wmem (a n : Nat) : (s.poisonPa a n).wmem = s.wmem := rfl
@[simp] theorem State.poisonPa_wmemPoison (a n : Nat) : (s.poisonPa a n).wmemPoison = s.wmemPoison := rfl
@[simp] theorem State.poisonPa_units (a n : Nat) : (s.poisonPa a n).units = s.units := rfl
@[simp] theorem State.poisonPa_launches (a n : Nat) : (s.poisonPa a n).launches = s.launches := rfl
@[simp] theorem State.poisonPa_queues (a n : Nat) : (s.poisonPa a n).queues = s.queues := rfl
@[simp] theorem State.poisonPa_saved (a n : Nat) : (s.poisonPa a n).saved = s.saved := rfl
@[simp] theorem State.poisonPa_nodes (a n : Nat) : (s.poisonPa a n).nodes = s.nodes := rfl
@[simp] theorem State.poisonPa_revs (a n : Nat) : (s.poisonPa a n).revs = s.revs := rfl
@[simp] theorem State.poisonPa_regions (a n : Nat) : (s.poisonPa a n).regions = s.regions := rfl
@[simp] theorem State.poisonPa_pendingRevs (a n : Nat) : (s.poisonPa a n).pendingRevs = s.pendingRevs := rfl
@[simp] theorem State.poisonPa_bars (a n : Nat) : (s.poisonPa a n).bars = s.bars := rfl
@[simp] theorem State.poisonPa_swapPending (a n : Nat) : (s.poisonPa a n).swapPending = s.swapPending := rfl
@[simp] theorem State.poisonPa_swaps (a n : Nat) : (s.poisonPa a n).swaps = s.swaps := rfl
@[simp] theorem State.poisonPa_flights (a n : Nat) : (s.poisonPa a n).flights = s.flights := rfl
@[simp] theorem State.poisonPa_veils (a n : Nat) : (s.poisonPa a n).veils = s.veils := rfl
@[simp] theorem State.poisonPa_latched (a n : Nat) : (s.poisonPa a n).latched = s.latched := rfl
@[simp] theorem State.poisonPa_port (a n : Nat) : (s.poisonPa a n).port = s.port := rfl
@[simp] theorem State.poisonPa_culverts (a n : Nat) : (s.poisonPa a n).culverts = s.culverts := rfl
@[simp] theorem State.poisonPa_channels (a n : Nat) : (s.poisonPa a n).channels = s.channels := rfl
@[simp] theorem State.poisonPa_attest (a n : Nat) : (s.poisonPa a n).attest = s.attest := rfl
@[simp] theorem State.poisonPa_booted (a n : Nat) : (s.poisonPa a n).booted = s.booted := rfl
@[simp] theorem State.poisonPa_failed (a n : Nat) : (s.poisonPa a n).failed = s.failed := rfl
@[simp] theorem State.poisonPa_eventSeq (a n : Nat) : (s.poisonPa a n).eventSeq = s.eventSeq := rfl
@[simp] theorem State.poisonPa_cur (a n : Nat) : (s.poisonPa a n).cur = s.cur := rfl
@[simp] theorem State.poisonPa_issue (a n : Nat) : (s.poisonPa a n).issue = s.issue := rfl
@[simp] theorem State.poisonPa_agenda (a n : Nat) : (s.poisonPa a n).agenda = s.agenda := rfl
@[simp] theorem State.poisonPa_nextOp (a n : Nat) : (s.poisonPa a n).nextOp = s.nextOp := rfl
@[simp] theorem State.poisonPa_nextCtx (a n : Nat) : (s.poisonPa a n).nextCtx = s.nextCtx := rfl
@[simp] theorem State.poisonPa_nextUnit (a n : Nat) : (s.poisonPa a n).nextUnit = s.nextUnit := rfl
@[simp] theorem State.poisonPa_nextLaunch (a n : Nat) : (s.poisonPa a n).nextLaunch = s.nextLaunch := rfl
@[simp] theorem State.poisonPa_freeCount (a n : Nat) : (s.poisonPa a n).freeCount = s.freeCount := rfl

@[simp] theorem State.writeSram_threads (i n v : Nat) : (s.writeSram i n v).threads = s.threads := rfl
@[simp] theorem State.writeSram_rest (i n v : Nat) : (s.writeSram i n v).rest = s.rest := rfl
@[simp] theorem State.writeSram_cores (i n v : Nat) : (s.writeSram i n v).cores = s.cores := rfl
@[simp] theorem State.writeSram_clusters (i n v : Nat) : (s.writeSram i n v).clusters = s.clusters := rfl
@[simp] theorem State.writeSram_dies (i n v : Nat) : (s.writeSram i n v).dies = s.dies := rfl
@[simp] theorem State.writeSram_mem (i n v : Nat) : (s.writeSram i n v).mem = s.mem := rfl
@[simp] theorem State.writeSram_memPoison (i n v : Nat) : (s.writeSram i n v).memPoison = s.memPoison := rfl
@[simp] theorem State.writeSram_sram (i n v : Nat) : (s.writeSram i n v).sram = Memory.writeN s.sram i v n := rfl
@[simp] theorem State.writeSram_wmem (i n v : Nat) : (s.writeSram i n v).wmem = s.wmem := rfl
@[simp] theorem State.writeSram_wmemPoison (i n v : Nat) : (s.writeSram i n v).wmemPoison = s.wmemPoison := rfl
@[simp] theorem State.writeSram_units (i n v : Nat) : (s.writeSram i n v).units = s.units := rfl
@[simp] theorem State.writeSram_launches (i n v : Nat) : (s.writeSram i n v).launches = s.launches := rfl
@[simp] theorem State.writeSram_queues (i n v : Nat) : (s.writeSram i n v).queues = s.queues := rfl
@[simp] theorem State.writeSram_saved (i n v : Nat) : (s.writeSram i n v).saved = s.saved := rfl
@[simp] theorem State.writeSram_nodes (i n v : Nat) : (s.writeSram i n v).nodes = s.nodes := rfl
@[simp] theorem State.writeSram_revs (i n v : Nat) : (s.writeSram i n v).revs = s.revs := rfl
@[simp] theorem State.writeSram_regions (i n v : Nat) : (s.writeSram i n v).regions = s.regions := rfl
@[simp] theorem State.writeSram_pendingRevs (i n v : Nat) : (s.writeSram i n v).pendingRevs = s.pendingRevs := rfl
@[simp] theorem State.writeSram_bars (i n v : Nat) : (s.writeSram i n v).bars = s.bars := rfl
@[simp] theorem State.writeSram_swapPending (i n v : Nat) : (s.writeSram i n v).swapPending = s.swapPending := rfl
@[simp] theorem State.writeSram_swaps (i n v : Nat) : (s.writeSram i n v).swaps = s.swaps := rfl
@[simp] theorem State.writeSram_flights (i n v : Nat) : (s.writeSram i n v).flights = s.flights := rfl
@[simp] theorem State.writeSram_veils (i n v : Nat) : (s.writeSram i n v).veils = s.veils := rfl
@[simp] theorem State.writeSram_latched (i n v : Nat) : (s.writeSram i n v).latched = s.latched := rfl
@[simp] theorem State.writeSram_port (i n v : Nat) : (s.writeSram i n v).port = s.port := rfl
@[simp] theorem State.writeSram_culverts (i n v : Nat) : (s.writeSram i n v).culverts = s.culverts := rfl
@[simp] theorem State.writeSram_channels (i n v : Nat) : (s.writeSram i n v).channels = s.channels := rfl
@[simp] theorem State.writeSram_attest (i n v : Nat) : (s.writeSram i n v).attest = s.attest := rfl
@[simp] theorem State.writeSram_booted (i n v : Nat) : (s.writeSram i n v).booted = s.booted := rfl
@[simp] theorem State.writeSram_failed (i n v : Nat) : (s.writeSram i n v).failed = s.failed := rfl
@[simp] theorem State.writeSram_eventSeq (i n v : Nat) : (s.writeSram i n v).eventSeq = s.eventSeq := rfl
@[simp] theorem State.writeSram_cur (i n v : Nat) : (s.writeSram i n v).cur = s.cur := rfl
@[simp] theorem State.writeSram_issue (i n v : Nat) : (s.writeSram i n v).issue = s.issue := rfl
@[simp] theorem State.writeSram_agenda (i n v : Nat) : (s.writeSram i n v).agenda = s.agenda := rfl
@[simp] theorem State.writeSram_nextOp (i n v : Nat) : (s.writeSram i n v).nextOp = s.nextOp := rfl
@[simp] theorem State.writeSram_nextCtx (i n v : Nat) : (s.writeSram i n v).nextCtx = s.nextCtx := rfl
@[simp] theorem State.writeSram_nextUnit (i n v : Nat) : (s.writeSram i n v).nextUnit = s.nextUnit := rfl
@[simp] theorem State.writeSram_nextLaunch (i n v : Nat) : (s.writeSram i n v).nextLaunch = s.nextLaunch := rfl
@[simp] theorem State.writeSram_freeCount (i n v : Nat) : (s.writeSram i n v).freeCount = s.freeCount := rfl

@[simp] theorem State.poisonSram_threads (i n : Nat) : (s.poisonSram i n).threads = s.threads := rfl
@[simp] theorem State.poisonSram_rest (i n : Nat) : (s.poisonSram i n).rest = s.rest := rfl
@[simp] theorem State.poisonSram_cores (i n : Nat) : (s.poisonSram i n).cores = s.cores := rfl
@[simp] theorem State.poisonSram_clusters (i n : Nat) : (s.poisonSram i n).clusters = s.clusters := rfl
@[simp] theorem State.poisonSram_dies (i n : Nat) : (s.poisonSram i n).dies = s.dies := rfl
@[simp] theorem State.poisonSram_mem (i n : Nat) : (s.poisonSram i n).mem = s.mem := rfl
@[simp] theorem State.poisonSram_memPoison (i n : Nat) : (s.poisonSram i n).memPoison = s.memPoison := rfl
@[simp] theorem State.poisonSram_sram (i n : Nat) : (s.poisonSram i n).sram = s.sram := rfl
@[simp] theorem State.poisonSram_wmem (i n : Nat) : (s.poisonSram i n).wmem = s.wmem := rfl
@[simp] theorem State.poisonSram_wmemPoison (i n : Nat) : (s.poisonSram i n).wmemPoison = s.wmemPoison := rfl
@[simp] theorem State.poisonSram_units (i n : Nat) : (s.poisonSram i n).units = s.units := rfl
@[simp] theorem State.poisonSram_launches (i n : Nat) : (s.poisonSram i n).launches = s.launches := rfl
@[simp] theorem State.poisonSram_queues (i n : Nat) : (s.poisonSram i n).queues = s.queues := rfl
@[simp] theorem State.poisonSram_saved (i n : Nat) : (s.poisonSram i n).saved = s.saved := rfl
@[simp] theorem State.poisonSram_nodes (i n : Nat) : (s.poisonSram i n).nodes = s.nodes := rfl
@[simp] theorem State.poisonSram_revs (i n : Nat) : (s.poisonSram i n).revs = s.revs := rfl
@[simp] theorem State.poisonSram_regions (i n : Nat) : (s.poisonSram i n).regions = s.regions := rfl
@[simp] theorem State.poisonSram_pendingRevs (i n : Nat) : (s.poisonSram i n).pendingRevs = s.pendingRevs := rfl
@[simp] theorem State.poisonSram_bars (i n : Nat) : (s.poisonSram i n).bars = s.bars := rfl
@[simp] theorem State.poisonSram_swapPending (i n : Nat) : (s.poisonSram i n).swapPending = s.swapPending := rfl
@[simp] theorem State.poisonSram_swaps (i n : Nat) : (s.poisonSram i n).swaps = s.swaps := rfl
@[simp] theorem State.poisonSram_flights (i n : Nat) : (s.poisonSram i n).flights = s.flights := rfl
@[simp] theorem State.poisonSram_veils (i n : Nat) : (s.poisonSram i n).veils = s.veils := rfl
@[simp] theorem State.poisonSram_latched (i n : Nat) : (s.poisonSram i n).latched = s.latched := rfl
@[simp] theorem State.poisonSram_port (i n : Nat) : (s.poisonSram i n).port = s.port := rfl
@[simp] theorem State.poisonSram_culverts (i n : Nat) : (s.poisonSram i n).culverts = s.culverts := rfl
@[simp] theorem State.poisonSram_channels (i n : Nat) : (s.poisonSram i n).channels = s.channels := rfl
@[simp] theorem State.poisonSram_attest (i n : Nat) : (s.poisonSram i n).attest = s.attest := rfl
@[simp] theorem State.poisonSram_booted (i n : Nat) : (s.poisonSram i n).booted = s.booted := rfl
@[simp] theorem State.poisonSram_failed (i n : Nat) : (s.poisonSram i n).failed = s.failed := rfl
@[simp] theorem State.poisonSram_eventSeq (i n : Nat) : (s.poisonSram i n).eventSeq = s.eventSeq := rfl
@[simp] theorem State.poisonSram_cur (i n : Nat) : (s.poisonSram i n).cur = s.cur := rfl
@[simp] theorem State.poisonSram_issue (i n : Nat) : (s.poisonSram i n).issue = s.issue := rfl
@[simp] theorem State.poisonSram_agenda (i n : Nat) : (s.poisonSram i n).agenda = s.agenda := rfl
@[simp] theorem State.poisonSram_nextOp (i n : Nat) : (s.poisonSram i n).nextOp = s.nextOp := rfl
@[simp] theorem State.poisonSram_nextCtx (i n : Nat) : (s.poisonSram i n).nextCtx = s.nextCtx := rfl
@[simp] theorem State.poisonSram_nextUnit (i n : Nat) : (s.poisonSram i n).nextUnit = s.nextUnit := rfl
@[simp] theorem State.poisonSram_nextLaunch (i n : Nat) : (s.poisonSram i n).nextLaunch = s.nextLaunch := rfl
@[simp] theorem State.poisonSram_freeCount (i n : Nat) : (s.poisonSram i n).freeCount = s.freeCount := rfl

@[simp] theorem State.zeroSram_threads (a n : Nat) : (s.zeroSram a n).threads = s.threads := rfl
@[simp] theorem State.zeroSram_rest (a n : Nat) : (s.zeroSram a n).rest = s.rest := rfl
@[simp] theorem State.zeroSram_cores (a n : Nat) : (s.zeroSram a n).cores = s.cores := rfl
@[simp] theorem State.zeroSram_clusters (a n : Nat) : (s.zeroSram a n).clusters = s.clusters := rfl
@[simp] theorem State.zeroSram_dies (a n : Nat) : (s.zeroSram a n).dies = s.dies := rfl
@[simp] theorem State.zeroSram_mem (a n : Nat) : (s.zeroSram a n).mem = s.mem := rfl
@[simp] theorem State.zeroSram_memPoison (a n : Nat) : (s.zeroSram a n).memPoison = s.memPoison := rfl
@[simp] theorem State.zeroSram_wmem (a n : Nat) : (s.zeroSram a n).wmem = s.wmem := rfl
@[simp] theorem State.zeroSram_wmemPoison (a n : Nat) : (s.zeroSram a n).wmemPoison = s.wmemPoison := rfl
@[simp] theorem State.zeroSram_units (a n : Nat) : (s.zeroSram a n).units = s.units := rfl
@[simp] theorem State.zeroSram_launches (a n : Nat) : (s.zeroSram a n).launches = s.launches := rfl
@[simp] theorem State.zeroSram_queues (a n : Nat) : (s.zeroSram a n).queues = s.queues := rfl
@[simp] theorem State.zeroSram_saved (a n : Nat) : (s.zeroSram a n).saved = s.saved := rfl
@[simp] theorem State.zeroSram_nodes (a n : Nat) : (s.zeroSram a n).nodes = s.nodes := rfl
@[simp] theorem State.zeroSram_revs (a n : Nat) : (s.zeroSram a n).revs = s.revs := rfl
@[simp] theorem State.zeroSram_regions (a n : Nat) : (s.zeroSram a n).regions = s.regions := rfl
@[simp] theorem State.zeroSram_pendingRevs (a n : Nat) : (s.zeroSram a n).pendingRevs = s.pendingRevs := rfl
@[simp] theorem State.zeroSram_bars (a n : Nat) : (s.zeroSram a n).bars = s.bars := rfl
@[simp] theorem State.zeroSram_swapPending (a n : Nat) : (s.zeroSram a n).swapPending = s.swapPending := rfl
@[simp] theorem State.zeroSram_swaps (a n : Nat) : (s.zeroSram a n).swaps = s.swaps := rfl
@[simp] theorem State.zeroSram_flights (a n : Nat) : (s.zeroSram a n).flights = s.flights := rfl
@[simp] theorem State.zeroSram_veils (a n : Nat) : (s.zeroSram a n).veils = s.veils := rfl
@[simp] theorem State.zeroSram_latched (a n : Nat) : (s.zeroSram a n).latched = s.latched := rfl
@[simp] theorem State.zeroSram_port (a n : Nat) : (s.zeroSram a n).port = s.port := rfl
@[simp] theorem State.zeroSram_culverts (a n : Nat) : (s.zeroSram a n).culverts = s.culverts := rfl
@[simp] theorem State.zeroSram_channels (a n : Nat) : (s.zeroSram a n).channels = s.channels := rfl
@[simp] theorem State.zeroSram_attest (a n : Nat) : (s.zeroSram a n).attest = s.attest := rfl
@[simp] theorem State.zeroSram_booted (a n : Nat) : (s.zeroSram a n).booted = s.booted := rfl
@[simp] theorem State.zeroSram_failed (a n : Nat) : (s.zeroSram a n).failed = s.failed := rfl
@[simp] theorem State.zeroSram_eventSeq (a n : Nat) : (s.zeroSram a n).eventSeq = s.eventSeq := rfl
@[simp] theorem State.zeroSram_cur (a n : Nat) : (s.zeroSram a n).cur = s.cur := rfl
@[simp] theorem State.zeroSram_issue (a n : Nat) : (s.zeroSram a n).issue = s.issue := rfl
@[simp] theorem State.zeroSram_agenda (a n : Nat) : (s.zeroSram a n).agenda = s.agenda := rfl
@[simp] theorem State.zeroSram_nextOp (a n : Nat) : (s.zeroSram a n).nextOp = s.nextOp := rfl
@[simp] theorem State.zeroSram_nextCtx (a n : Nat) : (s.zeroSram a n).nextCtx = s.nextCtx := rfl
@[simp] theorem State.zeroSram_nextUnit (a n : Nat) : (s.zeroSram a n).nextUnit = s.nextUnit := rfl
@[simp] theorem State.zeroSram_nextLaunch (a n : Nat) : (s.zeroSram a n).nextLaunch = s.nextLaunch := rfl
@[simp] theorem State.zeroSram_freeCount (a n : Nat) : (s.zeroSram a n).freeCount = s.freeCount := rfl

@[simp] theorem State.goTo_threads (x : Word) : (s.goTo x).threads = s.threads := rfl
@[simp] theorem State.goTo_rest (x : Word) : (s.goTo x).rest = s.rest := rfl
@[simp] theorem State.goTo_cores (x : Word) : (s.goTo x).cores = s.cores := rfl
@[simp] theorem State.goTo_clusters (x : Word) : (s.goTo x).clusters = s.clusters := rfl
@[simp] theorem State.goTo_dies (x : Word) : (s.goTo x).dies = s.dies := rfl
@[simp] theorem State.goTo_mem (x : Word) : (s.goTo x).mem = s.mem := rfl
@[simp] theorem State.goTo_memPoison (x : Word) : (s.goTo x).memPoison = s.memPoison := rfl
@[simp] theorem State.goTo_sram (x : Word) : (s.goTo x).sram = s.sram := rfl
@[simp] theorem State.goTo_sramPoison (x : Word) : (s.goTo x).sramPoison = s.sramPoison := rfl
@[simp] theorem State.goTo_wmem (x : Word) : (s.goTo x).wmem = s.wmem := rfl
@[simp] theorem State.goTo_wmemPoison (x : Word) : (s.goTo x).wmemPoison = s.wmemPoison := rfl
@[simp] theorem State.goTo_units (x : Word) : (s.goTo x).units = s.units := rfl
@[simp] theorem State.goTo_launches (x : Word) : (s.goTo x).launches = s.launches := rfl
@[simp] theorem State.goTo_queues (x : Word) : (s.goTo x).queues = s.queues := rfl
@[simp] theorem State.goTo_saved (x : Word) : (s.goTo x).saved = s.saved := rfl
@[simp] theorem State.goTo_nodes (x : Word) : (s.goTo x).nodes = s.nodes := rfl
@[simp] theorem State.goTo_revs (x : Word) : (s.goTo x).revs = s.revs := rfl
@[simp] theorem State.goTo_regions (x : Word) : (s.goTo x).regions = s.regions := rfl
@[simp] theorem State.goTo_pendingRevs (x : Word) : (s.goTo x).pendingRevs = s.pendingRevs := rfl
@[simp] theorem State.goTo_bars (x : Word) : (s.goTo x).bars = s.bars := rfl
@[simp] theorem State.goTo_swapPending (x : Word) : (s.goTo x).swapPending = s.swapPending := rfl
@[simp] theorem State.goTo_swaps (x : Word) : (s.goTo x).swaps = s.swaps := rfl
@[simp] theorem State.goTo_flights (x : Word) : (s.goTo x).flights = s.flights := rfl
@[simp] theorem State.goTo_veils (x : Word) : (s.goTo x).veils = s.veils := rfl
@[simp] theorem State.goTo_latched (x : Word) : (s.goTo x).latched = s.latched := rfl
@[simp] theorem State.goTo_port (x : Word) : (s.goTo x).port = s.port := rfl
@[simp] theorem State.goTo_culverts (x : Word) : (s.goTo x).culverts = s.culverts := rfl
@[simp] theorem State.goTo_channels (x : Word) : (s.goTo x).channels = s.channels := rfl
@[simp] theorem State.goTo_attest (x : Word) : (s.goTo x).attest = s.attest := rfl
@[simp] theorem State.goTo_booted (x : Word) : (s.goTo x).booted = s.booted := rfl
@[simp] theorem State.goTo_failed (x : Word) : (s.goTo x).failed = s.failed := rfl
@[simp] theorem State.goTo_eventSeq (x : Word) : (s.goTo x).eventSeq = s.eventSeq := rfl
@[simp] theorem State.goTo_cur (x : Word) : (s.goTo x).cur = s.cur := rfl
@[simp] theorem State.goTo_issue (x : Word) : (s.goTo x).issue = { s.issue with next := x } := rfl
@[simp] theorem State.goTo_agenda (x : Word) : (s.goTo x).agenda = s.agenda := rfl
@[simp] theorem State.goTo_nextOp (x : Word) : (s.goTo x).nextOp = s.nextOp := rfl
@[simp] theorem State.goTo_nextCtx (x : Word) : (s.goTo x).nextCtx = s.nextCtx := rfl
@[simp] theorem State.goTo_nextUnit (x : Word) : (s.goTo x).nextUnit = s.nextUnit := rfl
@[simp] theorem State.goTo_nextLaunch (x : Word) : (s.goTo x).nextLaunch = s.nextLaunch := rfl
@[simp] theorem State.goTo_freeCount (x : Word) : (s.goTo x).freeCount = s.freeCount := rfl

@[simp] theorem State.dropFlight_threads (id : Nat) : (s.dropFlight id).threads = s.threads := rfl
@[simp] theorem State.dropFlight_rest (id : Nat) : (s.dropFlight id).rest = s.rest := rfl
@[simp] theorem State.dropFlight_cores (id : Nat) : (s.dropFlight id).cores = s.cores := rfl
@[simp] theorem State.dropFlight_clusters (id : Nat) : (s.dropFlight id).clusters = s.clusters := rfl
@[simp] theorem State.dropFlight_dies (id : Nat) : (s.dropFlight id).dies = s.dies := rfl
@[simp] theorem State.dropFlight_mem (id : Nat) : (s.dropFlight id).mem = s.mem := rfl
@[simp] theorem State.dropFlight_memPoison (id : Nat) : (s.dropFlight id).memPoison = s.memPoison := rfl
@[simp] theorem State.dropFlight_sram (id : Nat) : (s.dropFlight id).sram = s.sram := rfl
@[simp] theorem State.dropFlight_sramPoison (id : Nat) : (s.dropFlight id).sramPoison = s.sramPoison := rfl
@[simp] theorem State.dropFlight_wmem (id : Nat) : (s.dropFlight id).wmem = s.wmem := rfl
@[simp] theorem State.dropFlight_wmemPoison (id : Nat) : (s.dropFlight id).wmemPoison = s.wmemPoison := rfl
@[simp] theorem State.dropFlight_units (id : Nat) : (s.dropFlight id).units = s.units := rfl
@[simp] theorem State.dropFlight_launches (id : Nat) : (s.dropFlight id).launches = s.launches := rfl
@[simp] theorem State.dropFlight_queues (id : Nat) : (s.dropFlight id).queues = s.queues := rfl
@[simp] theorem State.dropFlight_saved (id : Nat) : (s.dropFlight id).saved = s.saved := rfl
@[simp] theorem State.dropFlight_nodes (id : Nat) : (s.dropFlight id).nodes = s.nodes := rfl
@[simp] theorem State.dropFlight_revs (id : Nat) : (s.dropFlight id).revs = s.revs := rfl
@[simp] theorem State.dropFlight_regions (id : Nat) : (s.dropFlight id).regions = s.regions := rfl
@[simp] theorem State.dropFlight_pendingRevs (id : Nat) : (s.dropFlight id).pendingRevs = s.pendingRevs := rfl
@[simp] theorem State.dropFlight_bars (id : Nat) : (s.dropFlight id).bars = s.bars := rfl
@[simp] theorem State.dropFlight_swapPending (id : Nat) : (s.dropFlight id).swapPending = s.swapPending := rfl
@[simp] theorem State.dropFlight_swaps (id : Nat) : (s.dropFlight id).swaps = s.swaps := rfl
@[simp] theorem State.dropFlight_flights (id : Nat) : (s.dropFlight id).flights = s.flights.filter (fun e => e.id != id) := rfl
@[simp] theorem State.dropFlight_veils (id : Nat) : (s.dropFlight id).veils = s.veils := rfl
@[simp] theorem State.dropFlight_latched (id : Nat) : (s.dropFlight id).latched = s.latched := rfl
@[simp] theorem State.dropFlight_port (id : Nat) : (s.dropFlight id).port = s.port := rfl
@[simp] theorem State.dropFlight_culverts (id : Nat) : (s.dropFlight id).culverts = s.culverts := rfl
@[simp] theorem State.dropFlight_channels (id : Nat) : (s.dropFlight id).channels = s.channels := rfl
@[simp] theorem State.dropFlight_attest (id : Nat) : (s.dropFlight id).attest = s.attest := rfl
@[simp] theorem State.dropFlight_booted (id : Nat) : (s.dropFlight id).booted = s.booted := rfl
@[simp] theorem State.dropFlight_failed (id : Nat) : (s.dropFlight id).failed = s.failed := rfl
@[simp] theorem State.dropFlight_eventSeq (id : Nat) : (s.dropFlight id).eventSeq = s.eventSeq := rfl
@[simp] theorem State.dropFlight_cur (id : Nat) : (s.dropFlight id).cur = s.cur := rfl
@[simp] theorem State.dropFlight_issue (id : Nat) : (s.dropFlight id).issue = s.issue := rfl
@[simp] theorem State.dropFlight_agenda (id : Nat) : (s.dropFlight id).agenda = s.agenda := rfl
@[simp] theorem State.dropFlight_nextOp (id : Nat) : (s.dropFlight id).nextOp = s.nextOp := rfl
@[simp] theorem State.dropFlight_nextCtx (id : Nat) : (s.dropFlight id).nextCtx = s.nextCtx := rfl
@[simp] theorem State.dropFlight_nextUnit (id : Nat) : (s.dropFlight id).nextUnit = s.nextUnit := rfl
@[simp] theorem State.dropFlight_nextLaunch (id : Nat) : (s.dropFlight id).nextLaunch = s.nextLaunch := rfl
@[simp] theorem State.dropFlight_freeCount (id : Nat) : (s.dropFlight id).freeCount = s.freeCount := rfl

@[simp] theorem State.launchFlight_threads (kd : FlightKind) (ps : List Part) (o : Ordering) (sc : Scope) : (s.launchFlight kd ps o sc).threads = s.threads := rfl
@[simp] theorem State.launchFlight_rest (kd : FlightKind) (ps : List Part) (o : Ordering) (sc : Scope) : (s.launchFlight kd ps o sc).rest = s.rest := rfl
@[simp] theorem State.launchFlight_cores (kd : FlightKind) (ps : List Part) (o : Ordering) (sc : Scope) : (s.launchFlight kd ps o sc).cores = s.cores := rfl
@[simp] theorem State.launchFlight_clusters (kd : FlightKind) (ps : List Part) (o : Ordering) (sc : Scope) : (s.launchFlight kd ps o sc).clusters = s.clusters := rfl
@[simp] theorem State.launchFlight_dies (kd : FlightKind) (ps : List Part) (o : Ordering) (sc : Scope) : (s.launchFlight kd ps o sc).dies = s.dies := rfl
@[simp] theorem State.launchFlight_mem (kd : FlightKind) (ps : List Part) (o : Ordering) (sc : Scope) : (s.launchFlight kd ps o sc).mem = s.mem := rfl
@[simp] theorem State.launchFlight_memPoison (kd : FlightKind) (ps : List Part) (o : Ordering) (sc : Scope) : (s.launchFlight kd ps o sc).memPoison = s.memPoison := rfl
@[simp] theorem State.launchFlight_sram (kd : FlightKind) (ps : List Part) (o : Ordering) (sc : Scope) : (s.launchFlight kd ps o sc).sram = s.sram := rfl
@[simp] theorem State.launchFlight_sramPoison (kd : FlightKind) (ps : List Part) (o : Ordering) (sc : Scope) : (s.launchFlight kd ps o sc).sramPoison = s.sramPoison := rfl
@[simp] theorem State.launchFlight_wmem (kd : FlightKind) (ps : List Part) (o : Ordering) (sc : Scope) : (s.launchFlight kd ps o sc).wmem = s.wmem := rfl
@[simp] theorem State.launchFlight_wmemPoison (kd : FlightKind) (ps : List Part) (o : Ordering) (sc : Scope) : (s.launchFlight kd ps o sc).wmemPoison = s.wmemPoison := rfl
@[simp] theorem State.launchFlight_units (kd : FlightKind) (ps : List Part) (o : Ordering) (sc : Scope) : (s.launchFlight kd ps o sc).units = s.units := rfl
@[simp] theorem State.launchFlight_launches (kd : FlightKind) (ps : List Part) (o : Ordering) (sc : Scope) : (s.launchFlight kd ps o sc).launches = s.launches := rfl
@[simp] theorem State.launchFlight_queues (kd : FlightKind) (ps : List Part) (o : Ordering) (sc : Scope) : (s.launchFlight kd ps o sc).queues = s.queues := rfl
@[simp] theorem State.launchFlight_saved (kd : FlightKind) (ps : List Part) (o : Ordering) (sc : Scope) : (s.launchFlight kd ps o sc).saved = s.saved := rfl
@[simp] theorem State.launchFlight_nodes (kd : FlightKind) (ps : List Part) (o : Ordering) (sc : Scope) : (s.launchFlight kd ps o sc).nodes = s.nodes := rfl
@[simp] theorem State.launchFlight_revs (kd : FlightKind) (ps : List Part) (o : Ordering) (sc : Scope) : (s.launchFlight kd ps o sc).revs = s.revs := rfl
@[simp] theorem State.launchFlight_regions (kd : FlightKind) (ps : List Part) (o : Ordering) (sc : Scope) : (s.launchFlight kd ps o sc).regions = s.regions := rfl
@[simp] theorem State.launchFlight_pendingRevs (kd : FlightKind) (ps : List Part) (o : Ordering) (sc : Scope) : (s.launchFlight kd ps o sc).pendingRevs = s.pendingRevs := rfl
@[simp] theorem State.launchFlight_bars (kd : FlightKind) (ps : List Part) (o : Ordering) (sc : Scope) : (s.launchFlight kd ps o sc).bars = s.bars := rfl
@[simp] theorem State.launchFlight_swapPending (kd : FlightKind) (ps : List Part) (o : Ordering) (sc : Scope) : (s.launchFlight kd ps o sc).swapPending = s.swapPending := rfl
@[simp] theorem State.launchFlight_swaps (kd : FlightKind) (ps : List Part) (o : Ordering) (sc : Scope) : (s.launchFlight kd ps o sc).swaps = s.swaps := rfl
@[simp] theorem State.launchFlight_veils (kd : FlightKind) (ps : List Part) (o : Ordering) (sc : Scope) : (s.launchFlight kd ps o sc).veils = s.veils := rfl
@[simp] theorem State.launchFlight_latched (kd : FlightKind) (ps : List Part) (o : Ordering) (sc : Scope) : (s.launchFlight kd ps o sc).latched = s.latched := rfl
@[simp] theorem State.launchFlight_port (kd : FlightKind) (ps : List Part) (o : Ordering) (sc : Scope) : (s.launchFlight kd ps o sc).port = s.port := rfl
@[simp] theorem State.launchFlight_culverts (kd : FlightKind) (ps : List Part) (o : Ordering) (sc : Scope) : (s.launchFlight kd ps o sc).culverts = s.culverts := rfl
@[simp] theorem State.launchFlight_channels (kd : FlightKind) (ps : List Part) (o : Ordering) (sc : Scope) : (s.launchFlight kd ps o sc).channels = s.channels := rfl
@[simp] theorem State.launchFlight_attest (kd : FlightKind) (ps : List Part) (o : Ordering) (sc : Scope) : (s.launchFlight kd ps o sc).attest = s.attest := rfl
@[simp] theorem State.launchFlight_booted (kd : FlightKind) (ps : List Part) (o : Ordering) (sc : Scope) : (s.launchFlight kd ps o sc).booted = s.booted := rfl
@[simp] theorem State.launchFlight_failed (kd : FlightKind) (ps : List Part) (o : Ordering) (sc : Scope) : (s.launchFlight kd ps o sc).failed = s.failed := rfl
@[simp] theorem State.launchFlight_eventSeq (kd : FlightKind) (ps : List Part) (o : Ordering) (sc : Scope) : (s.launchFlight kd ps o sc).eventSeq = s.eventSeq := rfl
@[simp] theorem State.launchFlight_cur (kd : FlightKind) (ps : List Part) (o : Ordering) (sc : Scope) : (s.launchFlight kd ps o sc).cur = s.cur := rfl
@[simp] theorem State.launchFlight_issue (kd : FlightKind) (ps : List Part) (o : Ordering) (sc : Scope) : (s.launchFlight kd ps o sc).issue = s.issue := rfl
@[simp] theorem State.launchFlight_agenda (kd : FlightKind) (ps : List Part) (o : Ordering) (sc : Scope) : (s.launchFlight kd ps o sc).agenda = s.agenda := rfl
@[simp] theorem State.launchFlight_nextOp (kd : FlightKind) (ps : List Part) (o : Ordering) (sc : Scope) : (s.launchFlight kd ps o sc).nextOp = s.nextOp + 1 := rfl
@[simp] theorem State.launchFlight_nextCtx (kd : FlightKind) (ps : List Part) (o : Ordering) (sc : Scope) : (s.launchFlight kd ps o sc).nextCtx = s.nextCtx := rfl
@[simp] theorem State.launchFlight_nextUnit (kd : FlightKind) (ps : List Part) (o : Ordering) (sc : Scope) : (s.launchFlight kd ps o sc).nextUnit = s.nextUnit := rfl
@[simp] theorem State.launchFlight_nextLaunch (kd : FlightKind) (ps : List Part) (o : Ordering) (sc : Scope) : (s.launchFlight kd ps o sc).nextLaunch = s.nextLaunch := rfl
@[simp] theorem State.launchFlight_freeCount (kd : FlightKind) (ps : List Part) (o : Ordering) (sc : Scope) : (s.launchFlight kd ps o sc).freeCount = s.freeCount := rfl

/-! ### Reads through the updates -/

@[simp] theorem State.thread?_setThread_same (p : Party) (t : Thread) : (s.setThread p t).thread? p = some t := by
  simp [State.thread?]

theorem State.thread?_setThread_other {p q : Party} (t : Thread) (h : Party.key q ≠ Party.key p) :
    (s.setThread p t).thread? q = s.thread? q := by
  simp [State.thread?, tget_tset_other _ _ h]

@[simp] theorem State.thread_setThread_same (p : Party) (t : Thread) : (s.setThread p t).thread p = t := by
  simp [State.thread]

theorem State.setThread_sameOthers (p : Party) (t : Thread) : SameOthers p s (s.setThread p t) :=
  fun _ h => s.thread?_setThread_other t h

@[simp] theorem State.coreAt_setCoreAt_same (k : Nat) (c : CoreSt) : (s.setCoreAt k c).coreAt k = c := by
  simp [State.coreAt]

theorem State.coreAt_setCoreAt_other {k j : Nat} (c : CoreSt) (h : j ≠ k) : (s.setCoreAt k c).coreAt j = s.coreAt j := by
  simp [State.coreAt, tgetD_tset_other _ _ _ h]

@[simp] theorem State.clusterAt_setClusterAt_same (k : Nat) (c : ClusterSt) : (s.setClusterAt k c).clusterAt k = c := by
  simp [State.clusterAt]

theorem State.clusterAt_setClusterAt_other {k j : Nat} (c : ClusterSt) (h : j ≠ k) :
    (s.setClusterAt k c).clusterAt j = s.clusterAt j := by
  simp [State.clusterAt, tgetD_tset_other _ _ _ h]

@[simp] theorem State.dieAt_setDie_same (d : Nat) (x : DieSt) : (s.setDie d x).dieAt d = x := by simp [State.dieAt]

theorem State.dieAt_setDie_other {d e : Nat} (x : DieSt) (h : e ≠ d) : (s.setDie d x).dieAt e = s.dieAt e := by
  simp [State.dieAt, tgetD_tset_other _ _ _ h]

@[simp] theorem State.queue_setQueue_same (q : Nat) (x : LQueue) : (s.setQueue q x).queue q = some x := by
  simp [State.queue]

@[simp] theorem State.work_setWork_same (u : Nat) (w : Work) : (s.setWork u w).work u = some w := by simp [State.work]

end Sys2Proof.Machine
end

