-- ==== Sys2Proof/Laws/Ops.lean ====
section
/-! SUPPORT. How a word ends: running a meaning, committing, trapping and parking; taking a trap. -/

namespace Sys2Proof.Machine

variable (s : State)

/-! ### Changing a context in place -/

@[simp] theorem State.mapThread_rest (p : Party) (g : Thread → Thread) : (s.mapThread p g).rest = s.rest := by
  unfold State.mapThread; split <;> rfl
@[simp] theorem State.mapThread_cores (p : Party) (g : Thread → Thread) : (s.mapThread p g).cores = s.cores := by
  unfold State.mapThread; split <;> rfl
@[simp] theorem State.mapThread_clusters (p : Party) (g : Thread → Thread) : (s.mapThread p g).clusters = s.clusters := by
  unfold State.mapThread; split <;> rfl
@[simp] theorem State.mapThread_dies (p : Party) (g : Thread → Thread) : (s.mapThread p g).dies = s.dies := by
  unfold State.mapThread; split <;> rfl
@[simp] theorem State.mapThread_mem (p : Party) (g : Thread → Thread) : (s.mapThread p g).mem = s.mem := by
  unfold State.mapThread; split <;> rfl
@[simp] theorem State.mapThread_memPoison (p : Party) (g : Thread → Thread) : (s.mapThread p g).memPoison = s.memPoison := by
  unfold State.mapThread; split <;> rfl
@[simp] theorem State.mapThread_sram (p : Party) (g : Thread → Thread) : (s.mapThread p g).sram = s.sram := by
  unfold State.mapThread; split <;> rfl
@[simp] theorem State.mapThread_sramPoison (p : Party) (g : Thread → Thread) : (s.mapThread p g).sramPoison = s.sramPoison := by
  unfold State.mapThread; split <;> rfl
@[simp] theorem State.mapThread_wmem (p : Party) (g : Thread → Thread) : (s.mapThread p g).wmem = s.wmem := by
  unfold State.mapThread; split <;> rfl
@[simp] theorem State.mapThread_wmemPoison (p : Party) (g : Thread → Thread) : (s.mapThread p g).wmemPoison = s.wmemPoison := by
  unfold State.mapThread; split <;> rfl
@[simp] theorem State.mapThread_units (p : Party) (g : Thread → Thread) : (s.mapThread p g).units = s.units := by
  unfold State.mapThread; split <;> rfl
@[simp] theorem State.mapThread_launches (p : Party) (g : Thread → Thread) : (s.mapThread p g).launches = s.launches := by
  unfold State.mapThread; split <;> rfl
@[simp] theorem State.mapThread_queues (p : Party) (g : Thread → Thread) : (s.mapThread p g).queues = s.queues := by
  unfold State.mapThread; split <;> rfl
@[simp] theorem State.mapThread_saved (p : Party) (g : Thread → Thread) : (s.mapThread p g).saved = s.saved := by
  unfold State.mapThread; split <;> rfl
@[simp] theorem State.mapThread_nodes (p : Party) (g : Thread → Thread) : (s.mapThread p g).nodes = s.nodes := by
  unfold State.mapThread; split <;> rfl
@[simp] theorem State.mapThread_revs (p : Party) (g : Thread → Thread) : (s.mapThread p g).revs = s.revs := by
  unfold State.mapThread; split <;> rfl
@[simp] theorem State.mapThread_regions (p : Party) (g : Thread → Thread) : (s.mapThread p g).regions = s.regions := by
  unfold State.mapThread; split <;> rfl
@[simp] theorem State.mapThread_pendingRevs (p : Party) (g : Thread → Thread) : (s.mapThread p g).pendingRevs = s.pendingRevs := by
  unfold State.mapThread; split <;> rfl
@[simp] theorem State.mapThread_bars (p : Party) (g : Thread → Thread) : (s.mapThread p g).bars = s.bars := by
  unfold State.mapThread; split <;> rfl
@[simp] theorem State.mapThread_swapPending (p : Party) (g : Thread → Thread) : (s.mapThread p g).swapPending = s.swapPending := by
  unfold State.mapThread; split <;> rfl
@[simp] theorem State.mapThread_swaps (p : Party) (g : Thread → Thread) : (s.mapThread p g).swaps = s.swaps := by
  unfold State.mapThread; split <;> rfl
@[simp] theorem State.mapThread_flights (p : Party) (g : Thread → Thread) : (s.mapThread p g).flights = s.flights := by
  unfold State.mapThread; split <;> rfl
@[simp] theorem State.mapThread_port (p : Party) (g : Thread → Thread) : (s.mapThread p g).port = s.port := by
  unfold State.mapThread; split <;> rfl
@[simp] theorem State.mapThread_culverts (p : Party) (g : Thread → Thread) : (s.mapThread p g).culverts = s.culverts := by
  unfold State.mapThread; split <;> rfl
@[simp] theorem State.mapThread_channels (p : Party) (g : Thread → Thread) : (s.mapThread p g).channels = s.channels := by
  unfold State.mapThread; split <;> rfl
@[simp] theorem State.mapThread_attest (p : Party) (g : Thread → Thread) : (s.mapThread p g).attest = s.attest := by
  unfold State.mapThread; split <;> rfl
@[simp] theorem State.mapThread_booted (p : Party) (g : Thread → Thread) : (s.mapThread p g).booted = s.booted := by
  unfold State.mapThread; split <;> rfl
@[simp] theorem State.mapThread_failed (p : Party) (g : Thread → Thread) : (s.mapThread p g).failed = s.failed := by
  unfold State.mapThread; split <;> rfl
@[simp] theorem State.mapThread_eventSeq (p : Party) (g : Thread → Thread) : (s.mapThread p g).eventSeq = s.eventSeq := by
  unfold State.mapThread; split <;> rfl
@[simp] theorem State.mapThread_cur (p : Party) (g : Thread → Thread) : (s.mapThread p g).cur = s.cur := by
  unfold State.mapThread; split <;> rfl
@[simp] theorem State.mapThread_issue (p : Party) (g : Thread → Thread) : (s.mapThread p g).issue = s.issue := by
  unfold State.mapThread; split <;> rfl
@[simp] theorem State.mapThread_agenda (p : Party) (g : Thread → Thread) : (s.mapThread p g).agenda = s.agenda := by
  unfold State.mapThread; split <;> rfl
@[simp] theorem State.mapThread_nextOp (p : Party) (g : Thread → Thread) : (s.mapThread p g).nextOp = s.nextOp := by
  unfold State.mapThread; split <;> rfl
@[simp] theorem State.mapThread_nextCtx (p : Party) (g : Thread → Thread) : (s.mapThread p g).nextCtx = s.nextCtx := by
  unfold State.mapThread; split <;> rfl
@[simp] theorem State.mapThread_nextUnit (p : Party) (g : Thread → Thread) : (s.mapThread p g).nextUnit = s.nextUnit := by
  unfold State.mapThread; split <;> rfl
@[simp] theorem State.mapThread_nextLaunch (p : Party) (g : Thread → Thread) : (s.mapThread p g).nextLaunch = s.nextLaunch := by
  unfold State.mapThread; split <;> rfl
@[simp] theorem State.mapThread_freeCount (p : Party) (g : Thread → Thread) : (s.mapThread p g).freeCount = s.freeCount := by
  unfold State.mapThread; split <;> rfl

theorem State.mapThread_some {p : Party} {t : Thread} (g : Thread → Thread) (h : s.thread? p = some t) :
    s.mapThread p g = s.setThread p (g t) := by simp [State.mapThread, h]

theorem State.mapThread_sameOthers (p : Party) (g : Thread → Thread) : SameOthers p s (s.mapThread p g) := by
  intro q h
  cases ht : s.thread? p with
  | none => simp [State.mapThread, ht]
  | some t => rw [s.mapThread_some g ht]; exact s.setThread_sameOthers p _ q h

/-! ### Ends of a word -/

@[simp] theorem State.commit_rest : s.commit.rest = s.rest := by simp [State.commit]
@[simp] theorem State.parkBefore_rest (w : ParkWhy) : (s.parkBefore w).rest = s.rest := by simp [State.parkBefore]
@[simp] theorem State.parkAfter_rest (w : ParkWhy) : (s.parkAfter w).rest = s.rest := by simp [State.parkAfter]
@[simp] theorem State.commit_cores : s.commit.cores = s.cores := by simp [State.commit]
@[simp] theorem State.parkBefore_cores (w : ParkWhy) : (s.parkBefore w).cores = s.cores := by simp [State.parkBefore]
@[simp] theorem State.parkAfter_cores (w : ParkWhy) : (s.parkAfter w).cores = s.cores := by simp [State.parkAfter]
@[simp] theorem State.commit_clusters : s.commit.clusters = s.clusters := by simp [State.commit]
@[simp] theorem State.parkBefore_clusters (w : ParkWhy) : (s.parkBefore w).clusters = s.clusters := by simp [State.parkBefore]
@[simp] theorem State.parkAfter_clusters (w : ParkWhy) : (s.parkAfter w).clusters = s.clusters := by simp [State.parkAfter]
@[simp] theorem State.commit_dies : s.commit.dies = s.dies := by simp [State.commit]
@[simp] theorem State.parkBefore_dies (w : ParkWhy) : (s.parkBefore w).dies = s.dies := by simp [State.parkBefore]
@[simp] theorem State.parkAfter_dies (w : ParkWhy) : (s.parkAfter w).dies = s.dies := by simp [State.parkAfter]
@[simp] theorem State.commit_mem : s.commit.mem = s.mem := by simp [State.commit]
@[simp] theorem State.parkBefore_mem (w : ParkWhy) : (s.parkBefore w).mem = s.mem := by simp [State.parkBefore]
@[simp] theorem State.parkAfter_mem (w : ParkWhy) : (s.parkAfter w).mem = s.mem := by simp [State.parkAfter]
@[simp] theorem State.commit_memPoison : s.commit.memPoison = s.memPoison := by simp [State.commit]
@[simp] theorem State.parkBefore_memPoison (w : ParkWhy) : (s.parkBefore w).memPoison = s.memPoison := by simp [State.parkBefore]
@[simp] theorem State.parkAfter_memPoison (w : ParkWhy) : (s.parkAfter w).memPoison = s.memPoison := by simp [State.parkAfter]
@[simp] theorem State.commit_sram : s.commit.sram = s.sram := by simp [State.commit]
@[simp] theorem State.parkBefore_sram (w : ParkWhy) : (s.parkBefore w).sram = s.sram := by simp [State.parkBefore]
@[simp] theorem State.parkAfter_sram (w : ParkWhy) : (s.parkAfter w).sram = s.sram := by simp [State.parkAfter]
@[simp] theorem State.commit_sramPoison : s.commit.sramPoison = s.sramPoison := by simp [State.commit]
@[simp] theorem State.parkBefore_sramPoison (w : ParkWhy) : (s.parkBefore w).sramPoison = s.sramPoison := by simp [State.parkBefore]
@[simp] theorem State.parkAfter_sramPoison (w : ParkWhy) : (s.parkAfter w).sramPoison = s.sramPoison := by simp [State.parkAfter]
@[simp] theorem State.commit_wmem : s.commit.wmem = s.wmem := by simp [State.commit]
@[simp] theorem State.parkBefore_wmem (w : ParkWhy) : (s.parkBefore w).wmem = s.wmem := by simp [State.parkBefore]
@[simp] theorem State.parkAfter_wmem (w : ParkWhy) : (s.parkAfter w).wmem = s.wmem := by simp [State.parkAfter]
@[simp] theorem State.commit_wmemPoison : s.commit.wmemPoison = s.wmemPoison := by simp [State.commit]
@[simp] theorem State.parkBefore_wmemPoison (w : ParkWhy) : (s.parkBefore w).wmemPoison = s.wmemPoison := by simp [State.parkBefore]
@[simp] theorem State.parkAfter_wmemPoison (w : ParkWhy) : (s.parkAfter w).wmemPoison = s.wmemPoison := by simp [State.parkAfter]
@[simp] theorem State.commit_units : s.commit.units = s.units := by simp [State.commit]
@[simp] theorem State.parkBefore_units (w : ParkWhy) : (s.parkBefore w).units = s.units := by simp [State.parkBefore]
@[simp] theorem State.parkAfter_units (w : ParkWhy) : (s.parkAfter w).units = s.units := by simp [State.parkAfter]
@[simp] theorem State.commit_launches : s.commit.launches = s.launches := by simp [State.commit]
@[simp] theorem State.parkBefore_launches (w : ParkWhy) : (s.parkBefore w).launches = s.launches := by simp [State.parkBefore]
@[simp] theorem State.parkAfter_launches (w : ParkWhy) : (s.parkAfter w).launches = s.launches := by simp [State.parkAfter]
@[simp] theorem State.commit_queues : s.commit.queues = s.queues := by simp [State.commit]
@[simp] theorem State.parkBefore_queues (w : ParkWhy) : (s.parkBefore w).queues = s.queues := by simp [State.parkBefore]
@[simp] theorem State.parkAfter_queues (w : ParkWhy) : (s.parkAfter w).queues = s.queues := by simp [State.parkAfter]
@[simp] theorem State.commit_saved : s.commit.saved = s.saved := by simp [State.commit]
@[simp] theorem State.parkBefore_saved (w : ParkWhy) : (s.parkBefore w).saved = s.saved := by simp [State.parkBefore]
@[simp] theorem State.parkAfter_saved (w : ParkWhy) : (s.parkAfter w).saved = s.saved := by simp [State.parkAfter]
@[simp] theorem State.commit_nodes : s.commit.nodes = s.nodes := by simp [State.commit]
@[simp] theorem State.parkBefore_nodes (w : ParkWhy) : (s.parkBefore w).nodes = s.nodes := by simp [State.parkBefore]
@[simp] theorem State.parkAfter_nodes (w : ParkWhy) : (s.parkAfter w).nodes = s.nodes := by simp [State.parkAfter]
@[simp] theorem State.commit_revs : s.commit.revs = s.revs := by simp [State.commit]
@[simp] theorem State.parkBefore_revs (w : ParkWhy) : (s.parkBefore w).revs = s.revs := by simp [State.parkBefore]
@[simp] theorem State.parkAfter_revs (w : ParkWhy) : (s.parkAfter w).revs = s.revs := by simp [State.parkAfter]
@[simp] theorem State.commit_regions : s.commit.regions = s.regions := by simp [State.commit]
@[simp] theorem State.parkBefore_regions (w : ParkWhy) : (s.parkBefore w).regions = s.regions := by simp [State.parkBefore]
@[simp] theorem State.parkAfter_regions (w : ParkWhy) : (s.parkAfter w).regions = s.regions := by simp [State.parkAfter]
@[simp] theorem State.commit_pendingRevs : s.commit.pendingRevs = s.pendingRevs := by simp [State.commit]
@[simp] theorem State.parkBefore_pendingRevs (w : ParkWhy) : (s.parkBefore w).pendingRevs = s.pendingRevs := by simp [State.parkBefore]
@[simp] theorem State.parkAfter_pendingRevs (w : ParkWhy) : (s.parkAfter w).pendingRevs = s.pendingRevs := by simp [State.parkAfter]
@[simp] theorem State.commit_bars : s.commit.bars = s.bars := by simp [State.commit]
@[simp] theorem State.parkBefore_bars (w : ParkWhy) : (s.parkBefore w).bars = s.bars := by simp [State.parkBefore]
@[simp] theorem State.parkAfter_bars (w : ParkWhy) : (s.parkAfter w).bars = s.bars := by simp [State.parkAfter]
@[simp] theorem State.commit_swapPending : s.commit.swapPending = s.swapPending := by simp [State.commit]
@[simp] theorem State.parkBefore_swapPending (w : ParkWhy) : (s.parkBefore w).swapPending = s.swapPending := by simp [State.parkBefore]
@[simp] theorem State.parkAfter_swapPending (w : ParkWhy) : (s.parkAfter w).swapPending = s.swapPending := by simp [State.parkAfter]
@[simp] theorem State.commit_swaps : s.commit.swaps = s.swaps := by simp [State.commit]
@[simp] theorem State.parkBefore_swaps (w : ParkWhy) : (s.parkBefore w).swaps = s.swaps := by simp [State.parkBefore]
@[simp] theorem State.parkAfter_swaps (w : ParkWhy) : (s.parkAfter w).swaps = s.swaps := by simp [State.parkAfter]
@[simp] theorem State.commit_flights : s.commit.flights = s.flights := by simp [State.commit]
@[simp] theorem State.parkBefore_flights (w : ParkWhy) : (s.parkBefore w).flights = s.flights := by simp [State.parkBefore]
@[simp] theorem State.parkAfter_flights (w : ParkWhy) : (s.parkAfter w).flights = s.flights := by simp [State.parkAfter]
@[simp] theorem State.commit_port : s.commit.port = s.port := by simp [State.commit]
@[simp] theorem State.parkBefore_port (w : ParkWhy) : (s.parkBefore w).port = s.port := by simp [State.parkBefore]
@[simp] theorem State.parkAfter_port (w : ParkWhy) : (s.parkAfter w).port = s.port := by simp [State.parkAfter]
@[simp] theorem State.commit_culverts : s.commit.culverts = s.culverts := by simp [State.commit]
@[simp] theorem State.parkBefore_culverts (w : ParkWhy) : (s.parkBefore w).culverts = s.culverts := by simp [State.parkBefore]
@[simp] theorem State.parkAfter_culverts (w : ParkWhy) : (s.parkAfter w).culverts = s.culverts := by simp [State.parkAfter]
@[simp] theorem State.commit_channels : s.commit.channels = s.channels := by simp [State.commit]
@[simp] theorem State.parkBefore_channels (w : ParkWhy) : (s.parkBefore w).channels = s.channels := by simp [State.parkBefore]
@[simp] theorem State.parkAfter_channels (w : ParkWhy) : (s.parkAfter w).channels = s.channels := by simp [State.parkAfter]
@[simp] theorem State.commit_attest : s.commit.attest = s.attest := by simp [State.commit]
@[simp] theorem State.parkBefore_attest (w : ParkWhy) : (s.parkBefore w).attest = s.attest := by simp [State.parkBefore]
@[simp] theorem State.parkAfter_attest (w : ParkWhy) : (s.parkAfter w).attest = s.attest := by simp [State.parkAfter]
@[simp] theorem State.commit_booted : s.commit.booted = s.booted := by simp [State.commit]
@[simp] theorem State.parkBefore_booted (w : ParkWhy) : (s.parkBefore w).booted = s.booted := by simp [State.parkBefore]
@[simp] theorem State.parkAfter_booted (w : ParkWhy) : (s.parkAfter w).booted = s.booted := by simp [State.parkAfter]
@[simp] theorem State.commit_failed : s.commit.failed = s.failed := by simp [State.commit]
@[simp] theorem State.parkBefore_failed (w : ParkWhy) : (s.parkBefore w).failed = s.failed := by simp [State.parkBefore]
@[simp] theorem State.parkAfter_failed (w : ParkWhy) : (s.parkAfter w).failed = s.failed := by simp [State.parkAfter]
@[simp] theorem State.commit_eventSeq : s.commit.eventSeq = s.eventSeq := by simp [State.commit]
@[simp] theorem State.parkBefore_eventSeq (w : ParkWhy) : (s.parkBefore w).eventSeq = s.eventSeq := by simp [State.parkBefore]
@[simp] theorem State.parkAfter_eventSeq (w : ParkWhy) : (s.parkAfter w).eventSeq = s.eventSeq := by simp [State.parkAfter]
@[simp] theorem State.commit_cur : s.commit.cur = s.cur := by simp [State.commit]
@[simp] theorem State.parkBefore_cur (w : ParkWhy) : (s.parkBefore w).cur = s.cur := by simp [State.parkBefore]
@[simp] theorem State.parkAfter_cur (w : ParkWhy) : (s.parkAfter w).cur = s.cur := by simp [State.parkAfter]
@[simp] theorem State.commit_agenda : s.commit.agenda = s.agenda := by simp [State.commit]
@[simp] theorem State.parkBefore_agenda (w : ParkWhy) : (s.parkBefore w).agenda = s.agenda := by simp [State.parkBefore]
@[simp] theorem State.parkAfter_agenda (w : ParkWhy) : (s.parkAfter w).agenda = s.agenda := by simp [State.parkAfter]
@[simp] theorem State.commit_nextOp : s.commit.nextOp = s.nextOp := by simp [State.commit]
@[simp] theorem State.parkBefore_nextOp (w : ParkWhy) : (s.parkBefore w).nextOp = s.nextOp := by simp [State.parkBefore]
@[simp] theorem State.parkAfter_nextOp (w : ParkWhy) : (s.parkAfter w).nextOp = s.nextOp := by simp [State.parkAfter]
@[simp] theorem State.commit_nextCtx : s.commit.nextCtx = s.nextCtx := by simp [State.commit]
@[simp] theorem State.parkBefore_nextCtx (w : ParkWhy) : (s.parkBefore w).nextCtx = s.nextCtx := by simp [State.parkBefore]
@[simp] theorem State.parkAfter_nextCtx (w : ParkWhy) : (s.parkAfter w).nextCtx = s.nextCtx := by simp [State.parkAfter]
@[simp] theorem State.commit_nextUnit : s.commit.nextUnit = s.nextUnit := by simp [State.commit]
@[simp] theorem State.parkBefore_nextUnit (w : ParkWhy) : (s.parkBefore w).nextUnit = s.nextUnit := by simp [State.parkBefore]
@[simp] theorem State.parkAfter_nextUnit (w : ParkWhy) : (s.parkAfter w).nextUnit = s.nextUnit := by simp [State.parkAfter]
@[simp] theorem State.commit_nextLaunch : s.commit.nextLaunch = s.nextLaunch := by simp [State.commit]
@[simp] theorem State.parkBefore_nextLaunch (w : ParkWhy) : (s.parkBefore w).nextLaunch = s.nextLaunch := by simp [State.parkBefore]
@[simp] theorem State.parkAfter_nextLaunch (w : ParkWhy) : (s.parkAfter w).nextLaunch = s.nextLaunch := by simp [State.parkAfter]
@[simp] theorem State.commit_freeCount : s.commit.freeCount = s.freeCount := by simp [State.commit]
@[simp] theorem State.parkBefore_freeCount (w : ParkWhy) : (s.parkBefore w).freeCount = s.freeCount := by simp [State.parkBefore]
@[simp] theorem State.parkAfter_freeCount (w : ParkWhy) : (s.parkAfter w).freeCount = s.freeCount := by simp [State.parkAfter]

@[simp] theorem State.commit_last : s.commit.issue.last = .done := rfl
@[simp] theorem State.parkBefore_last (w : ParkWhy) : (s.parkBefore w).issue.last = .parked := rfl
@[simp] theorem State.parkAfter_last (w : ParkWhy) : (s.parkAfter w).issue.last = .parked := rfl
@[simp] theorem State.trapNow_last (c w : Nat) (x y z : Word) : (s.trapNow c w x y z).issue.last = .trapped := rfl

/-- A word that is done moves its slot to the next bundle. -/
theorem State.commit_thread? {t : Thread} (h : s.thread? s.cur = some t) :
    s.commit.thread? s.cur = some { t with pc := s.issue.next } := by
  have : s.commit.threads = tset s.threads (Party.key s.cur) { t with pc := s.issue.next } := by
    simp [State.commit, State.mapThread, h]
  simp [State.thread?, this]

theorem State.commit_sameOthers : SameOthers s.cur s s.commit := by
  intro q h
  have := s.mapThread_sameOthers s.cur (fun t => { t with pc := s.issue.next }) q h
  exact this

/-- Everything a word can do once its meaning has an answer. -/
theorem State.settle_cases (e : Eff) :
    (∃ t, e = .ok t ∧ s.settle e = t.commit) ∨
      (∃ c w epc ea ei, s.settle e = s.trapNow c w epc ea ei) ∨
      (∃ w, e = .error (.park w) ∧ s.settle e = s.parkBefore w) ∨
      (∃ w t, e = .error (.parkAfter w t) ∧ s.settle e = t.parkAfter w) := by
  match e with
  | .ok t => exact .inl ⟨t, rfl, rfl⟩
  | .error (.trap c ea ei w) => exact .inr (.inl ⟨_, _, _, _, _, rfl⟩)
  | .error (.trapAt c epc ea ei) => exact .inr (.inl ⟨_, _, _, _, _, rfl⟩)
  | .error (.park w) => exact .inr (.inr (.inl ⟨w, rfl, rfl⟩))
  | .error (.parkAfter w t) => exact .inr (.inr (.inr ⟨w, t, rfl, rfl⟩))

/-- A meaning runs wherever a context stands. -/
theorem run_running (m : State → Eff) {s : State} (h : s.running) : run m s = .next (s.settle (m s)) := by
  unfold State.running at h
  unfold run
  split
  · next e => simp [e] at h
  · rfl

theorem run_ok {m : State → Eff} {s s' : State} (h : s.running) (hm : m s = .ok s') : run m s = .next s'.commit := by
  rw [run_running m h, hm]; rfl

theorem run_trap {m : State → Eff} {s : State} {c : Nat} {ea ei : Word} {w : Option Nat} (h : s.running)
    (hm : m s = .error (.trap c ea ei w)) :
    run m s = .next (s.trapNow c (w.getD (b2n s.issue.second)) s.issue.pc ea ei) := by
  rw [run_running m h, hm]; rfl

theorem run_trapAt {m : State → Eff} {s : State} {c : Nat} {epc ea ei : Word} (h : s.running)
    (hm : m s = .error (.trapAt c epc ea ei)) : run m s = .next (s.trapNow c 0 epc ea ei) := by
  rw [run_running m h, hm]; rfl

theorem run_park {m : State → Eff} {s : State} {w : ParkWhy} (h : s.running) (hm : m s = .error (.park w)) :
    run m s = .next (s.parkBefore w) := by
  rw [run_running m h, hm]; rfl

theorem run_parkAfter {m : State → Eff} {s s' : State} {w : ParkWhy} (h : s.running)
    (hm : m s = .error (.parkAfter w s')) : run m s = .next (s'.parkAfter w) := by
  rw [run_running m h, hm]; rfl

theorem run_ne_refused (m : State → Eff) (s : State) (r : Refusal) : run m s ≠ .refused r := by
  unfold run
  split <;> simp

theorem run_fault {m : State → Eff} {s : State} {r : Fault} (h : run m s = .fault r) : s.thread? s.cur = none := by
  unfold run at h
  split at h
  · assumption
  · simp at h

@[simp] theorem event_next (f : State → State) : event f s = .next (f s) := rfl

/-! ### Taking a trap (23 R312) -/

/-- The trap entry of a slot whose handler takes it. -/
theorem State.takeTrap_handler {p : Party} {t : Thread} {cause word : Nat} {epc ea ei : Word}
    (ht : s.thread? p = some t) (h9 : cause ≠ 0x09) (hf : cause = 0x0F → s.debugAttached p t = false)
    (hv : t.tvec ≠ 0) (hm : t.sup = true → wbit t.status stIe = true) :
    s.takeTrap p cause word epc ea ei =
      ({ s with rest := terase s.rest (Party.key p) } : State).setThread p
        { t with
          park := none, readyAt := s.clock p.die + 2, epc := epc, ecause := w64 (word * 256 + cause), eaddr := ea
          einfo := ei
          status := wset (wset (wset (wset t.status stPmode t.sup) stPie (wbit t.status stIe)) stMode true) stIe false
          pc := t.tvec } := by
  have hx : (cause == 0x0F && s.debugAttached p t) = false := by
    by_cases h : cause = 0x0F
    · simp [hf h]
    · simp [h]
  have hy : (t.sup && !wbit t.status stIe) = false := by
    by_cases h : t.sup = true
    · simp [hm h]
    · simp [h]
  simp only [State.takeTrap, ht, if_neg h9]
  split
  · next h => exact absurd (show (cause == 0x0F && s.debugAttached p t) = true from h) (by simp [hx])
  · split
    · next h =>
      have h' : (decide (t.tvec = 0) || (t.sup && !wbit t.status stIe)) = true := h
      rw [hy, Bool.or_false] at h'
      exact absurd (of_decide_eq_true h') hv
    · rfl

end Sys2Proof.Machine
end

