-- ==== Sys2Proof/Laws/Memory.lean ====
section
/-! SUPPORT. Every operation that writes memory keeps the three memories in canonical form, and the machine after reset has them
so. -/

namespace Sys2Proof.Machine

variable {s : State}

theorem State.reset_memoryWf : State.reset.memoryWf := by decide

theorem State.writePa_memoryWf (h : s.memoryWf) (pa n v : Nat) : (s.writePa pa n v).memoryWf :=
  ⟨Memory.wf_writeN n s.mem pa v h.1, h.2⟩

theorem State.writeSram_memoryWf (h : s.memoryWf) (i n v : Nat) : (s.writeSram i n v).memoryWf :=
  ⟨h.1, Memory.wf_writeN n s.sram i v h.2.1, h.2.2⟩

theorem State.zeroSram_memoryWf (h : s.memoryWf) (a n : Nat) : (s.zeroSram a n).memoryWf :=
  ⟨h.1, Memory.wf_filter _ s.sram h.2.1, h.2.2⟩

theorem State.writeW_memoryWf (h : s.memoryWf) (a n v : Nat) : (s.writeW a n v).memoryWf :=
  ⟨h.1, h.2.1, Memory.wf_writeN n s.wmem a v h.2.2⟩

theorem Memory.wf_foldl_write {β : Type} (f : β → Nat × Byte) (l : List β) :
    ∀ m : Memory, Memory.wf m = true → Memory.wf (l.foldl (fun m e => Memory.write m (f e).1 (f e).2) m) = true := by
  induction l with
  | nil => exact fun _ h => h
  | cons e l ih => exact fun m h => ih _ (Memory.wf_write m _ _ h)

theorem State.copySram_memoryWf (h : s.memoryWf) (src dst n : Nat) : (s.copySram src dst n).memoryWf := by
  have hz := State.zeroSram_memoryWf h dst n
  exact ⟨hz.1, Memory.wf_foldl_write (fun e : Host.Cell => (e.1 - src + dst, e.2)) _ _ hz.2.1, hz.2.2⟩

theorem State.writeView_memoryWf (h : s.memoryWf) (r pa n v va : Nat) : (s.writeView r pa n v va).memoryWf := by
  have hk : ∀ old, (if s.revs.isEmpty then s else s.keepAncestors r (pa / 64) old).memoryWf := by
    intro old
    split
    · exact h
    · exact h
  unfold State.writeView
  simp only
  split
  · exact State.writePa_memoryWf (hk _) _ _ _
  · split
    · exact State.writePa_memoryWf (hk _) _ _ _
    · exact hk _

theorem State.foldl_memoryWf {β : Type} (f : State → β → State) (hf : ∀ s b, s.memoryWf → (f s b).memoryWf) (l : List β) :
    ∀ s : State, s.memoryWf → (l.foldl f s).memoryWf := by
  induction l with
  | nil => exact fun _ h => h
  | cons e l ih => exact fun s h => ih _ (hf s e h)

theorem State.writeVirt_memoryWf (h : s.memoryWf) (dom rev va : Nat) (x : Xlat) (n v : Nat) :
    (s.writeVirt dom rev va x n v).memoryWf := by
  unfold State.writeVirt
  generalize (if s.revisioned dom va x.revd x.attr then rev else 0) = r
  dsimp only
  split
  · exact State.writePa_memoryWf h _ _ _
  · exact State.foldl_memoryWf _ (fun s p h => State.writeView_memoryWf h _ _ _ _ _) _ s h

theorem State.putHome_memoryWf (h : s.memoryWf) (pa n v : Nat) : (s.putHome pa n v).memoryWf :=
  State.writePa_memoryWf (State.foldl_memoryWf
    (fun (s : State) (p : Nat × Nat) => s.invalidateOthers none ((pa + p.1) / 64) 0 false) (fun _ _ h => h) _ s h) _ _ _

theorem State.writeWords_memoryWf (h : s.memoryWf) (a : Nat) (ws : List Nat) : (s.writeWords a ws).memoryWf :=
  State.putHome_memoryWf h _ _ _

end Sys2Proof.Machine
end

