-- ==== Sys2Proof/Laws/Operands.lean ====
section
/-! SUPPORT. What reading and writing an operand can do, said once for each operand form (05 R54, R55; 09 R93; 15 R218;
19 R264, R266). -/

namespace Sys2Proof.Machine

variable {s s1 : State}

/-! ### Operations that start -/

/-- The operation that has started, in full. -/
theorem State.launchFlight_flights (k : FlightKind) (ps : List Part) (o : Ordering) (sc : Scope) :
    (s.launchFlight k ps o sc).flights = s.flights ++ [⟨s.nextOp, s.cur, s.src.ctx, k, ps, o, sc, s.src.dom, s.src.revNo,
      s.src.sup, s.issue.pc.toNat, false⟩] := rfl

/-! ### Sources -/

/-- g0 reads 0 and takes nothing (09 R93). -/
theorem State.readG_zero : s.readG 0 = .ok (0, s) := rfl

/-- A register that is no bound endpoint reads its value and takes nothing. -/
theorem State.readG_val {r : Reg} {v : Word} (ha : s.aliasChan r = none) (h0 : r.val ≠ 0) (hv : s.src.g[r] = .val v) :
    s.readG r = .ok (v, s) := by
  simp [State.readG, ha, h0, hv]

/-- An empty register parks the slot (15 R218). -/
theorem State.readG_empty {r : Reg} {op : Nat} (ha : s.aliasChan r = none) (h0 : r.val ≠ 0) (hv : s.src.g[r] = .empty op) :
    s.readG r = .error (.park (.reg r.val)) := by
  simp [State.readG, ha, h0, hv]

/-- Reading poison gives no value. -/
theorem State.poisonTrap_ne_ok {α : Type} {p : Poison} {w : Option Nat} {x : α} : s.poisonTrap p w ≠ .ok x := by
  unfold State.poisonTrap
  split
  · split <;> simp
  · simp

/-- Reading a register that is no bound endpoint changes nothing. -/
theorem State.readG_state {r : Reg} {v : Word} (ha : s.aliasChan r = none) (h : s.readG r = .ok (v, s1)) : s1 = s := by
  unfold State.readG at h
  rw [ha] at h
  simp only at h
  split at h
  · cases h; rfl
  · split at h
    · cases h; rfl
    · cases h
    · exact absurd h State.poisonTrap_ne_ok

/-- A pop of an endpoint changes no byte and not the place whose bundle runs: it may start a grant. -/
theorem State.takeWord_keeps (k : Nat) :
    (s.takeWord k).mem = s.mem ∧ (s.takeWord k).sram = s.sram ∧ (s.takeWord k).wmem = s.wmem ∧ (s.takeWord k).cur = s.cur := by
  unfold State.takeWord
  split
  · dsimp only
    split <;> exact ⟨rfl, rfl, rfl, rfl⟩
  · exact ⟨rfl, rfl, rfl, rfl⟩

/-- Reading a register, bound or not, changes no byte and not the place whose bundle runs. -/
theorem State.readG_keeps {r : Reg} {v : Word} (h : s.readG r = .ok (v, s1)) :
    s1.mem = s.mem ∧ s1.sram = s.sram ∧ s1.wmem = s.wmem ∧ s1.cur = s.cur := by
  cases ha : s.aliasChan r with
  | none =>
    cases State.readG_state ha h
    exact ⟨rfl, rfl, rfl, rfl⟩
  | some e =>
    unfold State.readG at h
    rw [ha] at h
    dsimp only at h
    generalize (if s.issue.pre.isSome then e.2 else _) = c0 at h
    by_cases ho : e.2.out = true
    · simp only [ho, chanTrap, trap, if_true] at h
      cases h
    · rw [if_neg ho] at h
      split at h
      · rename_i hn
        simp only [Except.ok.injEq, Prod.mk.injEq] at h
        obtain ⟨-, rfl⟩ := h
        unfold State.nextAhead at hn
        split at hn
        · cases hn; exact ⟨rfl, rfl, rfl, rfl⟩
        · cases hn
      · split at h
        · cases h
        · simp only [Except.ok.injEq, Prod.mk.injEq] at h
          obtain ⟨-, rfl⟩ := h
          exact State.takeWord_keeps e.1

/-- The count of q0 is the lane count of the bound tile (09 R93). -/
theorem State.readQ_zero : s.readQ 0 = .ok s.lanes := rfl

theorem State.readQ_val {q : Reg8} {n : Nat} (h0 : q.val ≠ 0) (hv : s.src.q[q] = .val n) : s.readQ q = .ok n := by
  simp [State.readQ, h0, hv]

/-! ### Destinations -/

/-- A write of g0 is discarded (09 R93). -/
theorem State.writeG_zero (v : Word) : s.writeG 0 v = s := rfl

/-- A write of a register that is no bound endpoint fills it and no other. -/
theorem State.writeG_val {r : Reg} (v : Word) (ha : s.aliasChan r = none) (h0 : r.val ≠ 0) :
    s.writeG r v = s.setMe { s.me with g := s.me.g.set r.val (.val v) r.isLt } := by
  simp [State.writeG, ha, h0]

/-- Writing a register, bound or not, changes no byte and not the place whose bundle runs. -/
theorem State.writeG_keeps (r : Reg) (v : Word) :
    (s.writeG r v).mem = s.mem ∧ (s.writeG r v).sram = s.sram ∧ (s.writeG r v).wmem = s.wmem ∧ (s.writeG r v).cur = s.cur := by
  unfold State.writeG
  split
  · dsimp only
    split <;> exact ⟨rfl, rfl, rfl, rfl⟩
  · split <;> exact ⟨rfl, rfl, rfl, rfl⟩

/-- A count is written clamped to 128 (09 R111). -/
theorem State.writeQ_keeps (q : Reg8) (n : Nat) :
    (s.writeQ q n).mem = s.mem ∧ (s.writeQ q n).sram = s.sram ∧ (s.writeQ q n).wmem = s.wmem ∧ (s.writeQ q n).cur = s.cur :=
  ⟨rfl, rfl, rfl, rfl⟩

end Sys2Proof.Machine
end

