-- ==== Sys2Proof/Laws/PerInstr.lean ====
section
/-! SUPPORT. Per instruction: every field of an instruction word fits its bits (05 Tables 5.1, 5.2). -/

namespace Sys2Proof

/-! ### Codes fit their fields -/

theorem Ordering.code_lt (x : Ordering) : x.code < 4 := by cases x <;> decide
theorem FenceKind.code_lt (x : FenceKind) : x.code < 4 := by cases x <;> decide
theorem Scope.code_lt (x : Scope) : x.code < 6 := by cases x <;> decide
theorem Width.code_lt (x : Width) : x.code < 4 := by cases x <;> decide
theorem FWidth.code_lt (x : FWidth) : x.code < 4 := by cases x <;> decide
theorem LdSize.code_lt (x : LdSize) : x.code < 7 := by cases x <;> decide
theorem StSize.code_lt (x : StSize) : x.code < 4 := by cases x <;> decide
theorem AtSize.code_lt (x : AtSize) : x.code < 2 := by cases x <;> decide
theorem Sat.code_lt (x : Sat) : x.code < 2 := by cases x <;> decide
theorem Rounding.code_lt (x : Rounding) : x.code < 5 := by cases x <;> decide
theorem FCond.code_lt (x : FCond) : x.code < 4 := by cases x <;> decide
theorem SgnOp.code_lt (x : SgnOp) : x.code < 3 := by cases x <;> decide
theorem VCond.code_lt (x : VCond) : x.code < 7 := by cases x <;> decide
theorem Fmt.code_lt (x : Fmt) : x.code < 11 := by cases x <;> decide
theorem PrefHint.code_lt (x : PrefHint) : x.code < 3 := by cases x <;> decide
theorem Sat.cvtCode_lt (x : Sat) : x.cvtCode < 2 := by cases x <;> decide

theorem Ordering.code_rlx : Ordering.code .rlx = 0 := rfl

theorem CReg.code_lt (x : CReg) : x.code < 1024 := by
  cases x <;> try decide
  next n =>
    have := n.isLt
    simp only [CReg.code]
    omega

theorem barScope_lt (n : Nat) : barScope n < 5 := by
  unfold barScope
  split <;> decide

/-! ### The fields of each instruction -/

namespace Laws.Fits

/-- Every field of the instruction's word fits its bits. -/
def Statement (i : Instr) : Prop := ∀ x, i.fields = some x → x.ok

theorem of_some {i : Instr} {y : Fields} (h : i.fields = some y) (k : y.ok) : Statement i := by
  intro x hx
  rw [h] at hx
  cases hx
  exact k

theorem of_none {i : Instr} (h : i.fields = none) : Statement i := by
  intro x hx
  rw [h] at hx
  cases hx

theorem nop : Statement (.nop) :=
  of_some rfl (by simp [Fields.ok])
theorem mfc (d : Reg) (c : CReg) : Statement (.mfc d c) :=
  of_some rfl (by have := d.isLt; have := c.code_lt; simp [Fields.ok]; try omega)
theorem mtc (c : CReg) (d : Reg) : Statement (.mtc c d) :=
  of_some rfl (by have := c.code_lt; have := d.isLt; simp [Fields.ok]; try omega)
theorem trap (code : BitVec 10) : Statement (.trap code) :=
  of_some rfl (by have := code.isLt; simp [Fields.ok]; try omega)
theorem eret : Statement (.eret) :=
  of_some rfl (by simp [Fields.ok])
theorem dbg (code : BitVec 10) : Statement (.dbg code) :=
  of_some rfl (by have := code.isLt; simp [Fields.ok]; try omega)
theorem harvest (a : Reg) (b : Reg) : Statement (.harvest a b) :=
  of_some rfl (by have := a.isLt; have := b.isLt; simp [Fields.ok]; try omega)
theorem tlbsd (a : Reg) (b : Reg) : Statement (.tlbsd a b) :=
  of_some rfl (by have := a.isLt; have := b.isLt; simp [Fields.ok]; try omega)
theorem plbinv (a : Reg) : Statement (.plbinv a) :=
  of_some rfl (by have := a.isLt; simp [Fields.ok]; try omega)
theorem terp (d : Reg) (a : Reg) (b : Reg) : Statement (.terp d a b) :=
  of_some rfl (by have := d.isLt; have := a.isLt; have := b.isLt; simp [Fields.ok]; try omega)
theorem unterp (d : Reg) (a : Reg) : Statement (.unterp d a) :=
  of_some rfl (by have := d.isLt; have := a.isLt; simp [Fields.ok]; try omega)
theorem call (d : Reg) (off : BitVec 19) : Statement (.call d off) :=
  of_some rfl (by have := d.isLt; have := off.isLt; simp [Fields.ok]; try omega)
theorem callr (d : Reg) (a : Reg) : Statement (.callr d a) :=
  of_some rfl (by have := d.isLt; have := a.isLt; simp [Fields.ok]; try omega)
theorem jmpr (a : Reg) : Statement (.jmpr a) :=
  of_some rfl (by have := a.isLt; simp [Fields.ok]; try omega)
theorem ret : Statement (.ret) :=
  of_some rfl (by simp [Fields.ok])
theorem beq (d : Reg) (a : Reg) (off : BitVec 14) : Statement (.beq d a off) :=
  of_some rfl (by have := d.isLt; have := a.isLt; have := off.isLt; simp [Fields.ok]; try omega)
theorem bne (d : Reg) (a : Reg) (off : BitVec 14) : Statement (.bne d a off) :=
  of_some rfl (by have := d.isLt; have := a.isLt; have := off.isLt; simp [Fields.ok]; try omega)
theorem blt (d : Reg) (a : Reg) (off : BitVec 14) : Statement (.blt d a off) :=
  of_some rfl (by have := d.isLt; have := a.isLt; have := off.isLt; simp [Fields.ok]; try omega)
theorem bge (d : Reg) (a : Reg) (off : BitVec 14) : Statement (.bge d a off) :=
  of_some rfl (by have := d.isLt; have := a.isLt; have := off.isLt; simp [Fields.ok]; try omega)
theorem bltu (d : Reg) (a : Reg) (off : BitVec 14) : Statement (.bltu d a off) :=
  of_some rfl (by have := d.isLt; have := a.isLt; have := off.isLt; simp [Fields.ok]; try omega)
theorem bgeu (d : Reg) (a : Reg) (off : BitVec 14) : Statement (.bgeu d a off) :=
  of_some rfl (by have := d.isLt; have := a.isLt; have := off.isLt; simp [Fields.ok]; try omega)
theorem loop (d : Reg) (off : BitVec 14) : Statement (.loop d off) :=
  of_some rfl (by have := d.isLt; have := off.isLt; simp [Fields.ok]; try omega)
theorem ld (z : LdSize) (o : Ordering) (s : Scope) (d : Reg) (a : Reg) (off : BitVec 9) : Statement (.ld z o s d a off) :=
  of_some rfl (by have := z.code_lt; have := o.code_lt; have := s.code_lt; have := d.isLt; have := a.isLt; have := off.isLt; simp [Fields.ok]; try omega)
theorem ldIndexed (z : LdSize) (o : Ordering) (s : Scope) (d : Reg) (a : Reg) (b : Reg) : Statement (.ldIndexed z o s d a b) :=
  of_some rfl (by have := z.code_lt; have := o.code_lt; have := s.code_lt; have := d.isLt; have := a.isLt; have := b.isLt; simp [Fields.ok]; try omega)
theorem ldv (s : Scope) (d : Reg) (a : Reg) (b : Reg) : Statement (.ldv s d a b) :=
  of_some rfl (by have := s.code_lt; have := d.isLt; have := a.isLt; have := b.isLt; simp [Fields.ok, Ordering.code_rlx]; try omega)
theorem ldvff (s : Scope) (d : Reg) (a : Reg) (b : Reg) : Statement (.ldvff s d a b) :=
  of_some rfl (by have := s.code_lt; have := d.isLt; have := a.isLt; have := b.isLt; simp [Fields.ok, Ordering.code_rlx]; try omega)
theorem ldvg (s : Scope) (d : Reg) (a : Reg) (b : Reg) : Statement (.ldvg s d a b) :=
  of_some rfl (by have := s.code_lt; have := d.isLt; have := a.isLt; have := b.isLt; simp [Fields.ok, Ordering.code_rlx]; try omega)
theorem pref (h : PrefHint) (s : Scope) (a : Reg) (b : Reg) : Statement (.pref h s a b) :=
  of_some rfl (by have := h.code_lt; have := s.code_lt; have := a.isLt; have := b.isLt; simp [Fields.ok, Ordering.code_rlx]; try omega)
theorem st (z : StSize) (o : Ordering) (s : Scope) (d : Reg) (a : Reg) (off : BitVec 9) : Statement (.st z o s d a off) :=
  of_some rfl (by have := z.code_lt; have := o.code_lt; have := s.code_lt; have := d.isLt; have := a.isLt; have := off.isLt; simp [Fields.ok]; try omega)
theorem stIndexed (z : StSize) (o : Ordering) (s : Scope) (d : Reg) (a : Reg) (b : Reg) : Statement (.stIndexed z o s d a b) :=
  of_some rfl (by have := z.code_lt; have := o.code_lt; have := s.code_lt; have := d.isLt; have := a.isLt; have := b.isLt; simp [Fields.ok]; try omega)
theorem stv (s : Scope) (d : Reg) (a : Reg) (b : Reg) : Statement (.stv s d a b) :=
  of_some rfl (by have := s.code_lt; have := d.isLt; have := a.isLt; have := b.isLt; simp [Fields.ok, Ordering.code_rlx]; try omega)
theorem stvs (s : Scope) (d : Reg) (a : Reg) (b : Reg) : Statement (.stvs s d a b) :=
  of_some rfl (by have := s.code_lt; have := d.isLt; have := a.isLt; have := b.isLt; simp [Fields.ok, Ordering.code_rlx]; try omega)
theorem aadd (z : AtSize) (o : Ordering) (s : Scope) (d : Reg) (a : Reg) (b : Reg) : Statement (.aadd z o s d a b) :=
  of_some rfl (by have := z.code_lt; have := o.code_lt; have := s.code_lt; have := d.isLt; have := a.isLt; have := b.isLt; simp [Fields.ok]; try omega)
theorem aand (z : AtSize) (o : Ordering) (s : Scope) (d : Reg) (a : Reg) (b : Reg) : Statement (.aand z o s d a b) :=
  of_some rfl (by have := z.code_lt; have := o.code_lt; have := s.code_lt; have := d.isLt; have := a.isLt; have := b.isLt; simp [Fields.ok]; try omega)
theorem aor (z : AtSize) (o : Ordering) (s : Scope) (d : Reg) (a : Reg) (b : Reg) : Statement (.aor z o s d a b) :=
  of_some rfl (by have := z.code_lt; have := o.code_lt; have := s.code_lt; have := d.isLt; have := a.isLt; have := b.isLt; simp [Fields.ok]; try omega)
theorem axor (z : AtSize) (o : Ordering) (s : Scope) (d : Reg) (a : Reg) (b : Reg) : Statement (.axor z o s d a b) :=
  of_some rfl (by have := z.code_lt; have := o.code_lt; have := s.code_lt; have := d.isLt; have := a.isLt; have := b.isLt; simp [Fields.ok]; try omega)
theorem amin (z : AtSize) (o : Ordering) (s : Scope) (d : Reg) (a : Reg) (b : Reg) : Statement (.amin z o s d a b) :=
  of_some rfl (by have := z.code_lt; have := o.code_lt; have := s.code_lt; have := d.isLt; have := a.isLt; have := b.isLt; simp [Fields.ok]; try omega)
theorem amax (z : AtSize) (o : Ordering) (s : Scope) (d : Reg) (a : Reg) (b : Reg) : Statement (.amax z o s d a b) :=
  of_some rfl (by have := z.code_lt; have := o.code_lt; have := s.code_lt; have := d.isLt; have := a.isLt; have := b.isLt; simp [Fields.ok]; try omega)
theorem aminu (z : AtSize) (o : Ordering) (s : Scope) (d : Reg) (a : Reg) (b : Reg) : Statement (.aminu z o s d a b) :=
  of_some rfl (by have := z.code_lt; have := o.code_lt; have := s.code_lt; have := d.isLt; have := a.isLt; have := b.isLt; simp [Fields.ok]; try omega)
theorem amaxu (z : AtSize) (o : Ordering) (s : Scope) (d : Reg) (a : Reg) (b : Reg) : Statement (.amaxu z o s d a b) :=
  of_some rfl (by have := z.code_lt; have := o.code_lt; have := s.code_lt; have := d.isLt; have := a.isLt; have := b.isLt; simp [Fields.ok]; try omega)
theorem aswp (z : AtSize) (o : Ordering) (s : Scope) (d : Reg) (a : Reg) (b : Reg) : Statement (.aswp z o s d a b) :=
  of_some rfl (by have := z.code_lt; have := o.code_lt; have := s.code_lt; have := d.isLt; have := a.isLt; have := b.isLt; simp [Fields.ok]; try omega)
theorem acas (z : AtSize) (o : Ordering) (s : Scope) (d : Reg) (a : Reg) (b : Reg) : Statement (.acas z o s d a b) :=
  of_some rfl (by have := z.code_lt; have := o.code_lt; have := s.code_lt; have := d.isLt; have := a.isLt; have := b.isLt; simp [Fields.ok]; try omega)
theorem afadd (z : AtSize) (o : Ordering) (s : Scope) (d : Reg) (a : Reg) (b : Reg) : Statement (.afadd z o s d a b) :=
  of_some rfl (by have := z.code_lt; have := o.code_lt; have := s.code_lt; have := d.isLt; have := a.isLt; have := b.isLt; simp [Fields.ok]; try omega)
theorem fence (k : FenceKind) (s : Scope) : Statement (.fence k s) :=
  of_some rfl (by have := k.code_lt; have := s.code_lt; simp [Fields.ok]; try omega)
theorem lea (d : Reg) (a : Reg) (b : Reg) (s : Fin 4) : Statement (.lea d a b s) :=
  of_some rfl (by have := d.isLt; have := a.isLt; have := b.isLt; have := s.isLt; simp [Fields.ok]; try omega)
theorem cadd (d : Reg) (a : Reg) (b : Reg) : Statement (.cadd d a b) :=
  of_some rfl (by have := d.isLt; have := a.isLt; have := b.isLt; simp [Fields.ok]; try omega)
theorem cmov (d : Reg) (a : Reg) (b : Reg) : Statement (.cmov d a b) :=
  of_some rfl (by have := d.isLt; have := a.isLt; have := b.isLt; simp [Fields.ok]; try omega)
theorem caddi (d : Reg) (a : Reg) (imm : BitVec 11) : Statement (.caddi d a imm) :=
  of_some rfl (by have := d.isLt; have := a.isLt; have := imm.isLt; simp [Fields.ok]; try omega)
theorem attach (d : Reg) (a : Reg) (b : Reg) : Statement (.attach d a b) :=
  of_some rfl (by have := d.isLt; have := a.isLt; have := b.isLt; simp [Fields.ok]; try omega)
theorem detach (a : Reg) : Statement (.detach a) :=
  of_some rfl (by have := a.isLt; simp [Fields.ok]; try omega)
theorem hand (a : Reg) (b : Reg) : Statement (.hand a b) :=
  of_some rfl (by have := a.isLt; have := b.isLt; simp [Fields.ok]; try omega)
theorem pwait (d : Reg) (a : Reg) (b : Reg) : Statement (.pwait d a b) :=
  of_some rfl (by have := d.isLt; have := a.isLt; have := b.isLt; simp [Fields.ok]; try omega)
theorem pquery (d : Reg) (a : Reg) : Statement (.pquery d a) :=
  of_some rfl (by have := d.isLt; have := a.isLt; simp [Fields.ok]; try omega)
theorem pkeep (d : Reg) (a : Reg) (b : Reg) : Statement (.pkeep d a b) :=
  of_some rfl (by have := d.isLt; have := a.isLt; have := b.isLt; simp [Fields.ok]; try omega)
theorem pzero (a : Reg) : Statement (.pzero a) :=
  of_some rfl (by have := a.isLt; simp [Fields.ok]; try omega)
theorem sbind (k : Reg8) (a : Reg) (b : Reg) : Statement (.sbind k a b) :=
  of_some rfl (by have := k.isLt; have := a.isLt; have := b.isLt; simp [Fields.ok]; try omega)
theorem sfree (k : Reg8) : Statement (.sfree k) :=
  of_some rfl (by have := k.isLt; simp [Fields.ok]; try omega)
theorem sstat (d : Reg) (k : Reg8) : Statement (.sstat d k) :=
  of_some rfl (by have := d.isLt; have := k.isLt; simp [Fields.ok]; try omega)
theorem sflush (d : Reg) (k : Reg8) : Statement (.sflush d k) :=
  of_some rfl (by have := d.isLt; have := k.isLt; simp [Fields.ok]; try omega)
theorem cbind (k : Reg8) (a : Reg) (b : Reg) : Statement (.cbind k a b) :=
  of_some rfl (by have := k.isLt; have := a.isLt; have := b.isLt; simp [Fields.ok]; try omega)
theorem cfree (k : Reg8) : Statement (.cfree k) :=
  of_some rfl (by have := k.isLt; simp [Fields.ok]; try omega)
theorem alt (d : Reg) (a : Reg) : Statement (.alt d a) :=
  of_some rfl (by have := d.isLt; have := a.isLt; simp [Fields.ok]; try omega)
theorem cpoll (d : Reg) (k : Reg8) : Statement (.cpoll d k) :=
  of_some rfl (by have := d.isLt; have := k.isLt; simp [Fields.ok]; try omega)
theorem cgrant (d : Reg) (k : Reg8) (b : Reg) : Statement (.cgrant d k b) :=
  of_some rfl (by have := d.isLt; have := k.isLt; have := b.isLt; simp [Fields.ok]; try omega)
theorem mma (t : Reg8) (zero : Bool) (src : ASrc) (b : Reg) : Statement (.mma t zero src b) :=
  match src with
  | .window g => of_some rfl (by
      have := t.isLt; have := g.isLt; have := b.isLt
      cases zero <;> simp [Fields.ok] <;> omega)
  | .stream g => of_some rfl (by
      have := t.isLt; have := g.isLt; have := b.isLt
      cases zero <;> simp [Fields.ok] <;> omega)
theorem mmas (t : Reg8) (zero : Bool) (src : ASrc) (b : Reg) : Statement (.mmas t zero src b) :=
  match src with
  | .window g => of_some rfl (by
      have := t.isLt; have := g.isLt; have := b.isLt
      cases zero <;> simp [Fields.ok] <;> omega)
  | .stream g => of_some rfl (by
      have := t.isLt; have := g.isLt; have := b.isLt
      cases zero <;> simp [Fields.ok] <;> omega)
theorem mtrans (t : Reg8) (a : Reg) (b : Reg) : Statement (.mtrans t a b) :=
  of_some rfl (by have := t.isLt; have := a.isLt; have := b.isLt; simp [Fields.ok]; try omega)
theorem mperm (t : Reg8) (a : Reg) (b : Reg) : Statement (.mperm t a b) :=
  of_some rfl (by have := t.isLt; have := a.isLt; have := b.isLt; simp [Fields.ok]; try omega)
theorem mrsum (t : Reg8) (a : Reg) : Statement (.mrsum t a) :=
  of_some rfl (by have := t.isLt; have := a.isLt; simp [Fields.ok]; try omega)
theorem mzero (t : Reg8) : Statement (.mzero t) :=
  of_some rfl (by have := t.isLt; simp [Fields.ok]; try omega)
theorem acfg (t : Reg8) (f : Fmt) : Statement (.acfg t f) :=
  of_some rfl (by have := t.isLt; have := f.code_lt; simp [Fields.ok]; try omega)
theorem abind (t : Reg8) : Statement (.abind t) :=
  of_some rfl (by have := t.isLt; simp [Fields.ok]; try omega)
theorem abindNone : Statement (.abindNone) :=
  of_some rfl (by simp [Fields.ok])
theorem mload (o : Ordering) (s : Scope) (t : Reg8) (a : Reg) (b : Reg) : Statement (.mload o s t a b) :=
  of_some rfl (by have := o.code_lt; have := s.code_lt; have := t.isLt; have := a.isLt; have := b.isLt; simp [Fields.ok]; try omega)
theorem mstore (o : Ordering) (s : Scope) (t : Reg8) (a : Reg) (b : Reg) : Statement (.mstore o s t a b) :=
  of_some rfl (by have := o.code_lt; have := s.code_lt; have := t.isLt; have := a.isLt; have := b.isLt; simp [Fields.ok]; try omega)
theorem wload (w : Fin 16) (a : Reg) (b : Reg) : Statement (.wload w a b) :=
  of_some rfl (by have := w.isLt; have := a.isLt; have := b.isLt; simp [Fields.ok]; try omega)
theorem wfree (w : Fin 16) : Statement (.wfree w) :=
  of_some rfl (by have := w.isLt; simp [Fields.ok]; try omega)
theorem mwait : Statement (.mwait) :=
  of_some rfl (by simp [Fields.ok])
theorem copy (s : Scope) (d : Reg) (a : Reg) : Statement (.copy s d a) :=
  of_some rfl (by have := s.code_lt; have := d.isLt; have := a.isLt; simp [Fields.ok, Ordering.code_rlx]; try omega)
theorem xcopy (s : Scope) (d : Reg) (a : Reg) : Statement (.xcopy s d a) :=
  of_some rfl (by have := s.code_lt; have := d.isLt; have := a.isLt; simp [Fields.ok, Ordering.code_rlx]; try omega)
theorem cwait (s : Scope) : Statement (.cwait s) :=
  of_some rfl (by have := s.code_lt; simp [Fields.ok, Ordering.code_rlx]; try omega)
theorem barm (a : Reg) (n : Fin 16) : Statement (.barm a n) :=
  of_some rfl (by have := a.isLt; have := n.isLt; have := barScope_lt n; simp [Fields.ok]; try omega)
theorem barr (d : Reg) (n : Fin 16) : Statement (.barr d n) :=
  of_some rfl (by have := d.isLt; have := n.isLt; have := barScope_lt n; simp [Fields.ok]; try omega)
theorem bara (d : Reg) (n : Fin 16) : Statement (.bara d n) :=
  of_some rfl (by have := d.isLt; have := n.isLt; have := barScope_lt n; simp [Fields.ok]; try omega)
theorem barw (d : Reg) (n : Fin 16) : Statement (.barw d n) :=
  of_some rfl (by have := d.isLt; have := n.isLt; have := barScope_lt n; simp [Fields.ok]; try omega)
theorem bto (pkg : Bool) (a : Reg) : Statement (.bto pkg a) :=
  of_some rfl (by have := a.isLt; cases pkg <;> (simp [Fields.ok]; try omega))
theorem csum (a : Reg) (n : Fin 16) : Statement (.csum a n) :=
  of_some rfl (by have := a.isLt; have := n.isLt; have := barScope_lt n; simp [Fields.ok]; try omega)
theorem route (d : Reg) (a : Reg) (b : Reg) : Statement (.route d a b) :=
  of_some rfl (by have := d.isLt; have := a.isLt; have := b.isLt; simp [Fields.ok]; try omega)
theorem rtswap (d : Reg) (a : Reg) : Statement (.rtswap d a) :=
  of_some rfl (by have := d.isLt; have := a.isLt; simp [Fields.ok]; try omega)
theorem sptake (d : Reg) (k : Reg8) : Statement (.sptake d k) :=
  of_some rfl (by have := d.isLt; have := k.isLt; simp [Fields.ok]; try omega)
theorem region (d : Reg) (a : Reg) : Statement (.region d a) :=
  of_some rfl (by have := d.isLt; have := a.isLt; simp [Fields.ok]; try omega)
theorem fork (d : Reg) : Statement (.fork d) :=
  of_some rfl (by have := d.isLt; simp [Fields.ok]; try omega)
theorem join (d : Reg) (a : Reg) : Statement (.join d a) :=
  of_some rfl (by have := d.isLt; have := a.isLt; simp [Fields.ok]; try omega)
theorem revq (d : Reg) (a : Reg) : Statement (.revq d a) :=
  of_some rfl (by have := d.isLt; have := a.isLt; simp [Fields.ok]; try omega)
theorem wfe (a : Reg) : Statement (.wfe a) :=
  of_some rfl (by have := a.isLt; simp [Fields.ok]; try omega)
theorem sleep (d : Reg) (a : Reg) : Statement (.sleep d a) :=
  of_some rfl (by have := d.isLt; have := a.isLt; simp [Fields.ok]; try omega)
theorem yield : Statement (.yield) :=
  of_some rfl (by simp [Fields.ok])
theorem quit : Statement (.quit) :=
  of_some rfl (by simp [Fields.ok])
theorem launch (d : Reg) (a : Reg) (b : Reg) : Statement (.launch d a b) :=
  of_some rfl (by have := d.isLt; have := a.isLt; have := b.isLt; simp [Fields.ok]; try omega)
theorem cdec (a : Reg) : Statement (.cdec a) :=
  of_some rfl (by have := a.isLt; simp [Fields.ok]; try omega)
theorem rpush (d : Reg) (a : Reg) : Statement (.rpush d a) :=
  of_some rfl (by have := d.isLt; have := a.isLt; simp [Fields.ok]; try omega)
theorem rpop (d : Reg) (a : Reg) : Statement (.rpop d a) :=
  of_some rfl (by have := d.isLt; have := a.isLt; simp [Fields.ok]; try omega)
theorem swapout (i : ImageRef) : Statement (.swapout i) :=
  match i with
  | .cache g => of_some rfl (by have := g.isLt; simp [Fields.ok]; try omega)
  | .at g => of_some rfl (by have := g.isLt; simp [Fields.ok]; try omega)
theorem swapin (i : ImageRef) : Statement (.swapin i) :=
  match i with
  | .cache g => of_some rfl (by have := g.isLt; simp [Fields.ok]; try omega)
  | .at g => of_some rfl (by have := g.isLt; simp [Fields.ok]; try omega)
theorem migrate (a : Reg) : Statement (.migrate a) :=
  of_some rfl (by have := a.isLt; simp [Fields.ok]; try omega)
theorem add (w : Width) (m : Sat) (d : Reg) (a : Reg) (b : Reg) : Statement (.add w m d a b) :=
  of_some rfl (by have := w.code_lt; have := m.code_lt; have := d.isLt; have := a.isLt; have := b.isLt; simp [Fields.ok]; try omega)
theorem sub (w : Width) (m : Sat) (d : Reg) (a : Reg) (b : Reg) : Statement (.sub w m d a b) :=
  of_some rfl (by have := w.code_lt; have := m.code_lt; have := d.isLt; have := a.isLt; have := b.isLt; simp [Fields.ok]; try omega)
theorem mul (w : Width) (m : Sat) (d : Reg) (a : Reg) (b : Reg) : Statement (.mul w m d a b) :=
  of_some rfl (by have := w.code_lt; have := m.code_lt; have := d.isLt; have := a.isLt; have := b.isLt; simp [Fields.ok]; try omega)
theorem mulh (w : Width) (d : Reg) (a : Reg) (b : Reg) : Statement (.mulh w d a b) :=
  of_some rfl (by have := w.code_lt; have := d.isLt; have := a.isLt; have := b.isLt; simp [Fields.ok]; try omega)
theorem mulhu (w : Width) (d : Reg) (a : Reg) (b : Reg) : Statement (.mulhu w d a b) :=
  of_some rfl (by have := w.code_lt; have := d.isLt; have := a.isLt; have := b.isLt; simp [Fields.ok]; try omega)
theorem div (w : Width) (d : Reg) (a : Reg) (b : Reg) : Statement (.div w d a b) :=
  of_some rfl (by have := w.code_lt; have := d.isLt; have := a.isLt; have := b.isLt; simp [Fields.ok]; try omega)
theorem divu (w : Width) (d : Reg) (a : Reg) (b : Reg) : Statement (.divu w d a b) :=
  of_some rfl (by have := w.code_lt; have := d.isLt; have := a.isLt; have := b.isLt; simp [Fields.ok]; try omega)
theorem rem (w : Width) (d : Reg) (a : Reg) (b : Reg) : Statement (.rem w d a b) :=
  of_some rfl (by have := w.code_lt; have := d.isLt; have := a.isLt; have := b.isLt; simp [Fields.ok]; try omega)
theorem remu (w : Width) (d : Reg) (a : Reg) (b : Reg) : Statement (.remu w d a b) :=
  of_some rfl (by have := w.code_lt; have := d.isLt; have := a.isLt; have := b.isLt; simp [Fields.ok]; try omega)
theorem min (w : Width) (d : Reg) (a : Reg) (b : Reg) : Statement (.min w d a b) :=
  of_some rfl (by have := w.code_lt; have := d.isLt; have := a.isLt; have := b.isLt; simp [Fields.ok]; try omega)
theorem max (w : Width) (d : Reg) (a : Reg) (b : Reg) : Statement (.max w d a b) :=
  of_some rfl (by have := w.code_lt; have := d.isLt; have := a.isLt; have := b.isLt; simp [Fields.ok]; try omega)
theorem minu (w : Width) (d : Reg) (a : Reg) (b : Reg) : Statement (.minu w d a b) :=
  of_some rfl (by have := w.code_lt; have := d.isLt; have := a.isLt; have := b.isLt; simp [Fields.ok]; try omega)
theorem maxu (w : Width) (d : Reg) (a : Reg) (b : Reg) : Statement (.maxu w d a b) :=
  of_some rfl (by have := w.code_lt; have := d.isLt; have := a.isLt; have := b.isLt; simp [Fields.ok]; try omega)
theorem slt (w : Width) (d : Reg) (a : Reg) (b : Reg) : Statement (.slt w d a b) :=
  of_some rfl (by have := w.code_lt; have := d.isLt; have := a.isLt; have := b.isLt; simp [Fields.ok]; try omega)
theorem sltu (w : Width) (d : Reg) (a : Reg) (b : Reg) : Statement (.sltu w d a b) :=
  of_some rfl (by have := w.code_lt; have := d.isLt; have := a.isLt; have := b.isLt; simp [Fields.ok]; try omega)
theorem and (w : Width) (d : Reg) (a : Reg) (b : Reg) : Statement (.and w d a b) :=
  of_some rfl (by have := w.code_lt; have := d.isLt; have := a.isLt; have := b.isLt; simp [Fields.ok]; try omega)
theorem or (w : Width) (d : Reg) (a : Reg) (b : Reg) : Statement (.or w d a b) :=
  of_some rfl (by have := w.code_lt; have := d.isLt; have := a.isLt; have := b.isLt; simp [Fields.ok]; try omega)
theorem xor (w : Width) (d : Reg) (a : Reg) (b : Reg) : Statement (.xor w d a b) :=
  of_some rfl (by have := w.code_lt; have := d.isLt; have := a.isLt; have := b.isLt; simp [Fields.ok]; try omega)
theorem shl (w : Width) (d : Reg) (a : Reg) (b : Reg) : Statement (.shl w d a b) :=
  of_some rfl (by have := w.code_lt; have := d.isLt; have := a.isLt; have := b.isLt; simp [Fields.ok]; try omega)
theorem shr (w : Width) (d : Reg) (a : Reg) (b : Reg) : Statement (.shr w d a b) :=
  of_some rfl (by have := w.code_lt; have := d.isLt; have := a.isLt; have := b.isLt; simp [Fields.ok]; try omega)
theorem sar (w : Width) (d : Reg) (a : Reg) (b : Reg) : Statement (.sar w d a b) :=
  of_some rfl (by have := w.code_lt; have := d.isLt; have := a.isLt; have := b.isLt; simp [Fields.ok]; try omega)
theorem clz (w : Width) (d : Reg) (a : Reg) : Statement (.clz w d a) :=
  of_some rfl (by have := w.code_lt; have := d.isLt; have := a.isLt; simp [Fields.ok]; try omega)
theorem ctz (w : Width) (d : Reg) (a : Reg) : Statement (.ctz w d a) :=
  of_some rfl (by have := w.code_lt; have := d.isLt; have := a.isLt; simp [Fields.ok]; try omega)
theorem popc (w : Width) (d : Reg) (a : Reg) : Statement (.popc w d a) :=
  of_some rfl (by have := w.code_lt; have := d.isLt; have := a.isLt; simp [Fields.ok]; try omega)
theorem sel (d : Reg) (a : Reg) (b : Reg) (c : Reg) : Statement (.sel d a b c) :=
  of_some rfl (by have := d.isLt; have := a.isLt; have := b.isLt; have := c.isLt; simp [Fields.ok]; try omega)
theorem addi (d : Reg) (a : Reg) (imm : BitVec 14) : Statement (.addi d a imm) :=
  of_some rfl (by have := d.isLt; have := a.isLt; have := imm.isLt; simp [Fields.ok]; try omega)
theorem andi (d : Reg) (a : Reg) (imm : BitVec 14) : Statement (.andi d a imm) :=
  of_some rfl (by have := d.isLt; have := a.isLt; have := imm.isLt; simp [Fields.ok]; try omega)
theorem ori (d : Reg) (a : Reg) (imm : BitVec 14) : Statement (.ori d a imm) :=
  of_some rfl (by have := d.isLt; have := a.isLt; have := imm.isLt; simp [Fields.ok]; try omega)
theorem xori (d : Reg) (a : Reg) (imm : BitVec 14) : Statement (.xori d a imm) :=
  of_some rfl (by have := d.isLt; have := a.isLt; have := imm.isLt; simp [Fields.ok]; try omega)
theorem shli (d : Reg) (a : Reg) (c : BitVec 6) : Statement (.shli d a c) :=
  of_some rfl (by have := d.isLt; have := a.isLt; have := c.isLt; simp [Fields.ok]; try omega)
theorem shri (d : Reg) (a : Reg) (c : BitVec 6) : Statement (.shri d a c) :=
  of_some rfl (by have := d.isLt; have := a.isLt; have := c.isLt; simp [Fields.ok]; try omega)
theorem sari (d : Reg) (a : Reg) (c : BitVec 6) : Statement (.sari d a c) :=
  of_some rfl (by have := d.isLt; have := a.isLt; have := c.isLt; simp [Fields.ok]; try omega)
theorem slti (d : Reg) (a : Reg) (imm : BitVec 14) : Statement (.slti d a imm) :=
  of_some rfl (by have := d.isLt; have := a.isLt; have := imm.isLt; simp [Fields.ok]; try omega)
theorem lui (d : Reg) (imm : BitVec 19) : Statement (.lui d imm) :=
  of_some rfl (by have := d.isLt; have := imm.isLt; simp [Fields.ok]; try omega)
theorem ext (d : Reg) (a : Reg) (pos : BitVec 6) (len1 : BitVec 6) : Statement (.ext d a pos len1) :=
  of_some rfl (by have := d.isLt; have := a.isLt; have := pos.isLt; have := len1.isLt; simp [Fields.ok]; try omega)
theorem ins (d : Reg) (a : Reg) (pos : BitVec 6) (len1 : BitVec 6) : Statement (.ins d a pos len1) :=
  of_some rfl (by have := d.isLt; have := a.isLt; have := pos.isLt; have := len1.isLt; simp [Fields.ok]; try omega)
theorem fadd (w : FWidth) (m : Rounding) (d : Reg) (a : Reg) (b : Reg) : Statement (.fadd w m d a b) :=
  of_some rfl (by have := w.code_lt; have := m.code_lt; have := d.isLt; have := a.isLt; have := b.isLt; simp [Fields.ok]; try omega)
theorem fsub (w : FWidth) (m : Rounding) (d : Reg) (a : Reg) (b : Reg) : Statement (.fsub w m d a b) :=
  of_some rfl (by have := w.code_lt; have := m.code_lt; have := d.isLt; have := a.isLt; have := b.isLt; simp [Fields.ok]; try omega)
theorem fmul (w : FWidth) (m : Rounding) (d : Reg) (a : Reg) (b : Reg) : Statement (.fmul w m d a b) :=
  of_some rfl (by have := w.code_lt; have := m.code_lt; have := d.isLt; have := a.isLt; have := b.isLt; simp [Fields.ok]; try omega)
theorem fma (w : FWidth) (m : Rounding) (d : Reg) (a : Reg) (b : Reg) : Statement (.fma w m d a b) :=
  of_some rfl (by have := w.code_lt; have := m.code_lt; have := d.isLt; have := a.isLt; have := b.isLt; simp [Fields.ok]; try omega)
theorem fdiv (w : FWidth) (m : Rounding) (d : Reg) (a : Reg) (b : Reg) : Statement (.fdiv w m d a b) :=
  of_some rfl (by have := w.code_lt; have := m.code_lt; have := d.isLt; have := a.isLt; have := b.isLt; simp [Fields.ok]; try omega)
theorem fsqrt (w : FWidth) (m : Rounding) (d : Reg) (a : Reg) : Statement (.fsqrt w m d a) :=
  of_some rfl (by have := w.code_lt; have := m.code_lt; have := d.isLt; have := a.isLt; simp [Fields.ok]; try omega)
theorem fmin (w : FWidth) (d : Reg) (a : Reg) (b : Reg) : Statement (.fmin w d a b) :=
  of_some rfl (by have := w.code_lt; have := d.isLt; have := a.isLt; have := b.isLt; simp [Fields.ok]; try omega)
theorem fmax (w : FWidth) (d : Reg) (a : Reg) (b : Reg) : Statement (.fmax w d a b) :=
  of_some rfl (by have := w.code_lt; have := d.isLt; have := a.isLt; have := b.isLt; simp [Fields.ok]; try omega)
theorem fcmp (c : FCond) (w : FWidth) (d : Reg) (a : Reg) (b : Reg) : Statement (.fcmp c w d a b) :=
  of_some rfl (by have := c.code_lt; have := w.code_lt; have := d.isLt; have := a.isLt; have := b.isLt; simp [Fields.ok]; try omega)
theorem fcvt (dir : CvtDir) (w : FWidth) (m : Rounding) (d : Reg) (a : Reg) (g : Fmt) : Statement (.fcvt dir w m d a g) :=
  of_some rfl (by have := w.code_lt; have := m.code_lt; have := d.isLt; have := a.isLt; have := g.code_lt; cases dir <;> (simp [Fields.ok]; try omega))
theorem fclass (w : FWidth) (d : Reg) (a : Reg) : Statement (.fclass w d a) :=
  of_some rfl (by have := w.code_lt; have := d.isLt; have := a.isLt; simp [Fields.ok]; try omega)
theorem fsgn (c : SgnOp) (w : FWidth) (d : Reg) (a : Reg) (b : Reg) : Statement (.fsgn c w d a b) :=
  of_some rfl (by have := c.code_lt; have := w.code_lt; have := d.isLt; have := a.isLt; have := b.isLt; simp [Fields.ok]; try omega)
theorem pcnt (d : Reg8) (a : Reg) : Statement (.pcnt d a) :=
  of_some rfl (by have := d.isLt; have := a.isLt; simp [Fields.ok]; try omega)
theorem pmin (d : Reg8) (a : Reg8) (b : Reg) : Statement (.pmin d a b) :=
  of_some rfl (by have := d.isLt; have := a.isLt; have := b.isLt; simp [Fields.ok]; try omega)
theorem pmov (d : Reg8) (a : Reg8) : Statement (.pmov d a) :=
  of_some rfl (by have := d.isLt; have := a.isLt; simp [Fields.ok]; try omega)
theorem pread (d : Reg) (a : Reg8) : Statement (.pread d a) :=
  of_some rfl (by have := d.isLt; have := a.isLt; simp [Fields.ok]; try omega)
theorem vadd (m : Rounding) (t : Sat) (q : Reg8) (d : Reg) (a : Reg) (b : Reg) : Statement (.vadd m t q d a b) :=
  of_some rfl (by have := m.code_lt; have := t.code_lt; have := q.isLt; have := d.isLt; have := a.isLt; have := b.isLt; simp [Fields.ok]; try omega)
theorem vsub (m : Rounding) (t : Sat) (q : Reg8) (d : Reg) (a : Reg) (b : Reg) : Statement (.vsub m t q d a b) :=
  of_some rfl (by have := m.code_lt; have := t.code_lt; have := q.isLt; have := d.isLt; have := a.isLt; have := b.isLt; simp [Fields.ok]; try omega)
theorem vmul (m : Rounding) (t : Sat) (q : Reg8) (d : Reg) (a : Reg) (b : Reg) : Statement (.vmul m t q d a b) :=
  of_some rfl (by have := m.code_lt; have := t.code_lt; have := q.isLt; have := d.isLt; have := a.isLt; have := b.isLt; simp [Fields.ok]; try omega)
theorem vmulh (m : Rounding) (t : Sat) (q : Reg8) (d : Reg) (a : Reg) (b : Reg) : Statement (.vmulh m t q d a b) :=
  of_some rfl (by have := m.code_lt; have := t.code_lt; have := q.isLt; have := d.isLt; have := a.isLt; have := b.isLt; simp [Fields.ok]; try omega)
theorem vmin (q : Reg8) (d : Reg) (a : Reg) (b : Reg) : Statement (.vmin q d a b) :=
  of_some rfl (by have := q.isLt; have := d.isLt; have := a.isLt; have := b.isLt; simp [Fields.ok]; try omega)
theorem vmax (q : Reg8) (d : Reg) (a : Reg) (b : Reg) : Statement (.vmax q d a b) :=
  of_some rfl (by have := q.isLt; have := d.isLt; have := a.isLt; have := b.isLt; simp [Fields.ok]; try omega)
theorem vabs (t : Sat) (q : Reg8) (d : Reg) (a : Reg) : Statement (.vabs t q d a) :=
  of_some rfl (by have := t.code_lt; have := q.isLt; have := d.isLt; have := a.isLt; simp [Fields.ok]; try omega)
theorem vneg (t : Sat) (q : Reg8) (d : Reg) (a : Reg) : Statement (.vneg t q d a) :=
  of_some rfl (by have := t.code_lt; have := q.isLt; have := d.isLt; have := a.isLt; simp [Fields.ok]; try omega)
theorem vfma (m : Rounding) (q : Reg8) (d : Reg) (a : Reg) (b : Reg) : Statement (.vfma m q d a b) :=
  of_some rfl (by have := m.code_lt; have := q.isLt; have := d.isLt; have := a.isLt; have := b.isLt; simp [Fields.ok]; try omega)
theorem vdiv (m : Rounding) (q : Reg8) (d : Reg) (a : Reg) (b : Reg) : Statement (.vdiv m q d a b) :=
  of_some rfl (by have := m.code_lt; have := q.isLt; have := d.isLt; have := a.isLt; have := b.isLt; simp [Fields.ok]; try omega)
theorem vsqrt (m : Rounding) (q : Reg8) (d : Reg) (a : Reg) : Statement (.vsqrt m q d a) :=
  of_some rfl (by have := m.code_lt; have := q.isLt; have := d.isLt; have := a.isLt; simp [Fields.ok]; try omega)
theorem vrcp (m : Rounding) (q : Reg8) (d : Reg) (a : Reg) : Statement (.vrcp m q d a) :=
  of_some rfl (by have := m.code_lt; have := q.isLt; have := d.isLt; have := a.isLt; simp [Fields.ok]; try omega)
theorem vrsq (m : Rounding) (q : Reg8) (d : Reg) (a : Reg) : Statement (.vrsq m q d a) :=
  of_some rfl (by have := m.code_lt; have := q.isLt; have := d.isLt; have := a.isLt; simp [Fields.ok]; try omega)
theorem vexp2 (m : Rounding) (q : Reg8) (d : Reg) (a : Reg) : Statement (.vexp2 m q d a) :=
  of_some rfl (by have := m.code_lt; have := q.isLt; have := d.isLt; have := a.isLt; simp [Fields.ok]; try omega)
theorem vlog2 (m : Rounding) (q : Reg8) (d : Reg) (a : Reg) : Statement (.vlog2 m q d a) :=
  of_some rfl (by have := m.code_lt; have := q.isLt; have := d.isLt; have := a.isLt; simp [Fields.ok]; try omega)
theorem vand (q : Reg8) (d : Reg) (a : Reg) (b : Reg) : Statement (.vand q d a b) :=
  of_some rfl (by have := q.isLt; have := d.isLt; have := a.isLt; have := b.isLt; simp [Fields.ok]; try omega)
theorem vor (q : Reg8) (d : Reg) (a : Reg) (b : Reg) : Statement (.vor q d a b) :=
  of_some rfl (by have := q.isLt; have := d.isLt; have := a.isLt; have := b.isLt; simp [Fields.ok]; try omega)
theorem vxor (q : Reg8) (d : Reg) (a : Reg) (b : Reg) : Statement (.vxor q d a b) :=
  of_some rfl (by have := q.isLt; have := d.isLt; have := a.isLt; have := b.isLt; simp [Fields.ok]; try omega)
theorem vshl (t : Sat) (q : Reg8) (d : Reg) (a : Reg) (b : Reg) : Statement (.vshl t q d a b) :=
  of_some rfl (by have := t.code_lt; have := q.isLt; have := d.isLt; have := a.isLt; have := b.isLt; simp [Fields.ok]; try omega)
theorem vshr (q : Reg8) (d : Reg) (a : Reg) (b : Reg) : Statement (.vshr q d a b) :=
  of_some rfl (by have := q.isLt; have := d.isLt; have := a.isLt; have := b.isLt; simp [Fields.ok]; try omega)
theorem vsar (q : Reg8) (d : Reg) (a : Reg) (b : Reg) : Statement (.vsar q d a b) :=
  of_some rfl (by have := q.isLt; have := d.isLt; have := a.isLt; have := b.isLt; simp [Fields.ok]; try omega)
theorem vcmp (c : VCond) (q : Reg8) (d : Reg) (a : Reg) (b : Reg) : Statement (.vcmp c q d a b) :=
  of_some rfl (by have := c.code_lt; have := q.isLt; have := d.isLt; have := a.isLt; have := b.isLt; simp [Fields.ok]; try omega)
theorem vclamp (q : Reg8) (d : Reg) (a : Reg) (b : Reg) (c : Reg) : Statement (.vclamp q d a b c) :=
  of_some rfl (by have := q.isLt; have := d.isLt; have := a.isLt; have := b.isLt; have := c.isLt; simp [Fields.ok]; try omega)
theorem vsel (q : Reg8) (d : Reg) (a : Reg) (b : Reg) (c : Reg) : Statement (.vsel q d a b c) :=
  of_some rfl (by have := q.isLt; have := d.isLt; have := a.isLt; have := b.isLt; have := c.isLt; simp [Fields.ok]; try omega)
theorem vmov (q : Reg8) (d : Reg) (a : Reg) : Statement (.vmov q d a) :=
  of_some rfl (by have := q.isLt; have := d.isLt; have := a.isLt; simp [Fields.ok]; try omega)
theorem vbcast (q : Reg8) (d : Reg) (a : Reg) : Statement (.vbcast q d a) :=
  of_some rfl (by have := q.isLt; have := d.isLt; have := a.isLt; simp [Fields.ok]; try omega)
theorem vextr (q : Reg8) (d : Reg) (a : Reg) (b : Reg) : Statement (.vextr q d a b) :=
  of_some rfl (by have := q.isLt; have := d.isLt; have := a.isLt; have := b.isLt; simp [Fields.ok]; try omega)
theorem vins (q : Reg8) (d : Reg) (a : Reg) (b : Reg) : Statement (.vins q d a b) :=
  of_some rfl (by have := q.isLt; have := d.isLt; have := a.isLt; have := b.isLt; simp [Fields.ok]; try omega)
theorem vperm (q : Reg8) (d : Reg) (a : Reg) (b : Reg) : Statement (.vperm q d a b) :=
  of_some rfl (by have := q.isLt; have := d.isLt; have := a.isLt; have := b.isLt; simp [Fields.ok]; try omega)
theorem viota (q : Reg8) (d : Reg) : Statement (.viota q d) :=
  of_some rfl (by have := q.isLt; have := d.isLt; simp [Fields.ok]; try omega)
theorem vcomp (q : Reg8) (d : Reg) (a : Reg) (b : Reg) : Statement (.vcomp q d a b) :=
  of_some rfl (by have := q.isLt; have := d.isLt; have := a.isLt; have := b.isLt; simp [Fields.ok]; try omega)
theorem vexpand (q : Reg8) (d : Reg) (a : Reg) (b : Reg) : Statement (.vexpand q d a b) :=
  of_some rfl (by have := q.isLt; have := d.isLt; have := a.isLt; have := b.isLt; simp [Fields.ok]; try omega)
theorem vredsum (m : Rounding) (q : Reg8) (d : Reg) (a : Reg) : Statement (.vredsum m q d a) :=
  of_some rfl (by have := m.code_lt; have := q.isLt; have := d.isLt; have := a.isLt; simp [Fields.ok]; try omega)
theorem vredmax (q : Reg8) (d : Reg) (a : Reg) : Statement (.vredmax q d a) :=
  of_some rfl (by have := q.isLt; have := d.isLt; have := a.isLt; simp [Fields.ok]; try omega)
theorem vredmin (q : Reg8) (d : Reg) (a : Reg) : Statement (.vredmin q d a) :=
  of_some rfl (by have := q.isLt; have := d.isLt; have := a.isLt; simp [Fields.ok]; try omega)
theorem vcvt (m : Rounding) (t : Sat) (q : Reg8) (d : Reg) (a : Reg) (f : Fmt) : Statement (.vcvt m t q d a f) :=
  of_some rfl (by have := m.code_lt; have := t.cvtCode_lt; have := q.isLt; have := d.isLt; have := a.isLt; have := f.code_lt; simp [Fields.ok]; try omega)
theorem vsort (q : Reg8) (d : Reg) (a : Reg) : Statement (.vsort q d a) :=
  of_some rfl (by have := q.isLt; have := d.isLt; have := a.isLt; simp [Fields.ok]; try omega)
theorem vhist (q : Reg8) (d : Reg) (a : Reg) : Statement (.vhist q d a) :=
  of_some rfl (by have := q.isLt; have := d.isLt; have := a.isLt; simp [Fields.ok]; try omega)
theorem boot (badPackage : Bool) (badDies : List Nat) (hashes : List Nat) : Statement (.boot badPackage badDies hashes) := of_none rfl
theorem powerThrottle (dies : List Nat) : Statement (.powerThrottle dies) := of_none rfl
theorem clusterQuarantine (die : Nat) (cluster : Nat) : Statement (.clusterQuarantine die cluster) := of_none rfl
theorem laneSpareSwap (culvert : Nat) : Statement (.laneSpareSwap culvert) := of_none rfl
theorem flitReplay (culvert : Nat) (channel : Nat) : Statement (.flitReplay culvert channel) := of_none rfl
theorem keyLoad (culvert : Nat) (key : Nat) : Statement (.keyLoad culvert key) := of_none rfl
theorem keyRetire (culvert : Nat) : Statement (.keyRetire culvert) := of_none rfl
theorem schedulerAccept (queue : Nat) (prio : Nat) : Statement (.schedulerAccept queue prio) := of_none rfl
theorem hostReasonWrite (queue : Nat) (value : Nat) : Statement (.hostReasonWrite queue value) := of_none rfl
theorem waitWordRead (launch : Nat) (entry : Nat) : Statement (.waitWordRead launch entry) := of_none rfl
theorem blockDispatch (queue : Nat) : Statement (.blockDispatch queue) := of_none rfl
theorem gangRetire (gang : Nat) : Statement (.gangRetire gang) := of_none rfl
theorem codeletStart (p : Party) : Statement (.codeletStart p) := of_none rfl
theorem cdecPerform (op : Nat) : Statement (.cdecPerform op) := of_none rfl
theorem asyncEventTrap (p : Party) : Statement (.asyncEventTrap p) := of_none rfl
theorem timerCompare (p : Party) : Statement (.timerCompare p) := of_none rfl
theorem sleepWake (p : Party) : Statement (.sleepWake p) := of_none rfl
theorem tenantSliceEnd (queue : Nat) : Statement (.tenantSliceEnd queue) := of_none rfl
theorem tenantSlotChange (p : Party) : Statement (.tenantSlotChange p) := of_none rfl
theorem loadReply (op : Nat) (part : Nat) : Statement (.loadReply op part) := of_none rfl
theorem vectorRowFill (op : Nat) : Statement (.vectorRowFill op) := of_none rfl
theorem matrixCommandStart (die : Nat) (cluster : Nat) : Statement (.matrixCommandStart die cluster) := of_none rfl
theorem matrixCommandComplete (die : Nat) (cluster : Nat) : Statement (.matrixCommandComplete die cluster) := of_none rfl
theorem wloadComplete (op : Nat) : Statement (.wloadComplete op) := of_none rfl
theorem mloadRowArrival (op : Nat) (part : Nat) : Statement (.mloadRowArrival op part) := of_none rfl
theorem storePerformed (op : Nat) (part : Nat) : Statement (.storePerformed op part) := of_none rfl
theorem atomicPerform (op : Nat) : Statement (.atomicPerform op) := of_none rfl
theorem plbFill (p : Party) (addr : Nat) : Statement (.plbFill p addr) := of_none rfl
theorem translationWalk (die : Nat) (cluster : Nat) (addr : Nat) (rev : Nat) : Statement (.translationWalk die cluster addr rev) := of_none rfl
theorem adWritebackTimeout (die : Nat) (cluster : Nat) : Statement (.adWritebackTimeout die cluster) := of_none rfl
theorem l1Eviction (die : Nat) (core : Nat) (line : Nat) (bad : List Nat) : Statement (.l1Eviction die core line bad) := of_none rfl
theorem l2Fill (pa : Nat) : Statement (.l2Fill pa) := of_none rfl
theorem l2Eviction (pa : Nat) (bad : List Nat) : Statement (.l2Eviction pa bad) := of_none rfl
theorem hostWrite (pa : Nat) (data : List Byte) : Statement (.hostWrite pa data) := of_none rfl
theorem hostRead (pa : Nat) (size : Nat) : Statement (.hostRead pa size) := of_none rfl
theorem attachPerform (op : Nat) : Statement (.attachPerform op) := of_none rfl
theorem handFlip (op : Nat) : Statement (.handFlip op) := of_none rfl
theorem polderArrival (op : Nat) : Statement (.polderArrival op) := of_none rfl
theorem detachFlip (op : Nat) : Statement (.detachFlip op) := of_none rfl
theorem pzeroComplete (op : Nat) : Statement (.pzeroComplete op) := of_none rfl
theorem streamDescriptorRead (p : Party) (k : Nat) : Statement (.streamDescriptorRead p k) := of_none rfl
theorem streamFill (p : Party) (k : Nat) : Statement (.streamFill p k) := of_none rfl
theorem streamDrain (p : Party) (k : Nat) : Statement (.streamDrain p k) := of_none rfl
theorem channelConnect (op : Nat) : Statement (.channelConnect op) := of_none rfl
theorem channelWordArrival (op : Nat) : Statement (.channelWordArrival op) := of_none rfl
theorem channelGrantArrival (op : Nat) : Statement (.channelGrantArrival op) := of_none rfl
theorem channelTimeout (p : Party) : Statement (.channelTimeout p) := of_none rfl
theorem copyEngineStart (die : Nat) (engine : Nat) (granules : List Nat) : Statement (.copyEngineStart die engine granules) := of_none rfl
theorem copyEngineComplete (die : Nat) (engine : Nat) : Statement (.copyEngineComplete die engine) := of_none rfl
theorem copyEngineFault (die : Nat) (engine : Nat) : Statement (.copyEngineFault die engine) := of_none rfl
theorem barrierComplete (die : Nat) (bar : Nat) : Statement (.barrierComplete die bar) := of_none rfl
theorem barrierTimeout (p : Party) : Statement (.barrierTimeout p) := of_none rfl
theorem tokenArrival (op : Nat) : Statement (.tokenArrival op) := of_none rfl
theorem tokenDrained (die : Nat) (core : Nat) (qid : Nat) : Statement (.tokenDrained die core qid) := of_none rfl
theorem joinStitch (rev : Nat) (addr : Nat) : Statement (.joinStitch rev addr) := of_none rfl
theorem joinComplete (rev : Nat) : Statement (.joinComplete rev) := of_none rfl
theorem revisionDiscard (rev : Nat) : Statement (.revisionDiscard rev) := of_none rfl
theorem preemptSave (p : Party) : Statement (.preemptSave p) := of_none rfl
theorem contextResume (p : Party) : Statement (.contextResume p) := of_none rfl
theorem watchdogStage1 (queue : Nat) : Statement (.watchdogStage1 queue) := of_none rfl
theorem watchdogStage2 (queue : Nat) : Statement (.watchdogStage2 queue) := of_none rfl
theorem migrationQuiesce (gang : Nat) : Statement (.migrationQuiesce gang) := of_none rfl
theorem migrationResume (gang : Nat) : Statement (.migrationResume gang) := of_none rfl
theorem forwardDelivery (op : Nat) : Statement (.forwardDelivery op) := of_none rfl
theorem hbmChannelFailure (stack : Nat) (channel : Nat) : Statement (.hbmChannelFailure stack channel) := of_none rfl
theorem hostCtrlEnable : Statement (.hostCtrlEnable) := of_none rfl
theorem hostRegisterWrite (offset : Nat) (value : Word) : Statement (.hostRegisterWrite offset value) := of_none rfl
theorem qcreate : Statement (.qcreate) := of_none rfl
theorem qstop : Statement (.qstop) := of_none rfl
theorem qresume : Statement (.qresume) := of_none rfl
theorem qkill : Statement (.qkill) := of_none rfl
theorem qdestroy : Statement (.qdestroy) := of_none rfl
theorem split : Statement (.split) := of_none rfl
theorem merge : Statement (.merge) := of_none rfl
theorem halt : Statement (.halt) := of_none rfl
theorem run : Statement (.run) := of_none rfl
theorem snap : Statement (.snap) := of_none rfl
theorem patch : Statement (.patch) := of_none rfl
theorem pcbload : Statement (.pcbload) := of_none rfl
theorem qwdog : Statement (.qwdog) := of_none rfl
theorem retire : Statement (.retire) := of_none rfl
theorem illegalEncoding (addr : Word) (w : IWord) (second : Bool) : Statement (.illegalEncoding addr w second) := of_none rfl
theorem bundleMisplacement (addr : Word) (w : IWord) (second : Bool) : Statement (.bundleMisplacement addr w second) := of_none rfl
theorem fetchFault (addr : Word) (why : FetchFail) : Statement (.fetchFault addr why) := of_none rfl
theorem voltageDroop (die : Nat) : Statement (.voltageDroop die) := of_none rfl
theorem tlbsdComplete (p : Party) : Statement (.tlbsdComplete p) := of_none rfl
theorem harvestComplete (p : Party) : Statement (.harvestComplete p) := of_none rfl
theorem plbinvComplete (p : Party) : Statement (.plbinvComplete p) := of_none rfl

end Laws.Fits

end Sys2Proof
end

