-- ==== Sys2Proof/Tests/Slice0.lean ====
section
/-! SUPPORT. Tests: expected values come from the manual's tables and worked examples or are worked out by hand from its rules. The
witnesses show, for the statements with hypotheses, concrete states that meet them, and that the conclusions hold there. -/

namespace Sys2Proof.Tests

open Sys2Proof Sys2Proof.Machine

set_option Elab.async false

/-! ### Helpers: small states -/

/-- A test of the state that an outcome gives. -/
def nextIs (o : Host.Outcome State Fault Refusal) (f : State → Bool) : Bool :=
  match o with
  | .next t => f t
  | _ => false

/-- A test of a check's result. -/
def okIs {α : Type} (e : Except Stop α) (f : α → Bool) : Bool :=
  match e with
  | .ok x => f x
  | .error _ => false

/-- A test of something that may be absent. -/
def someIs {α : Type} (o : Option α) (f : α → Bool) : Bool :=
  match o with
  | some x => f x
  | none => false

def p0 : Party := ⟨0, 0, 0⟩

/-- A context at 0x100 with g1 to g4 as named and nothing else. -/
def thr (a b c d : Word) : Thread :=
  { Thread.blank with
    ctx := 1
    unit := 1
    pc := 0x100
    tvec := 0x400
    g := Vector.ofFn (fun (i : Fin 32) =>
      match i.val with
      | 1 => .val a
      | 2 => .val b
      | 3 => .val c
      | 4 => .val d
      | _ => .val 0) }

/-- The machine after its boot with one context in slot 0 of core 0 of d0. -/
def world (t : Thread) : State :=
  { State.reset with
    booted := true
    dies := [(0, { DieSt.reset with started := true })]
    threads := [(0, t)]
    units := [(1, ⟨none, none, none, 0, 0, [p0], 1, 0, 0, 0, .running, none, none, false, none⟩)]
    nextOp := 7
    nextCtx := 2
    nextUnit := 2
    cur := p0
    issue := ⟨0x100, 0x104, 0x104, false, none, 0, [], [], none, .done⟩ }

/-- The same in supervisor mode. -/
def superv (t : Thread) : State := world { t with status := 0x1 }

/-- An identity mapping of the first 64 GiB: root table at 0x2000, next level at 0x4000, and a region table at 0x1000 whose
list at 0x1800 gives domain 0 every right to the first 4 GiB; both buffers hold the mapping already. -/
def mapped (s : State) : State :=
  let m0 := Memory.writeN [] 0x1000 0x1800 8
  let m1 := Memory.writeN m0 0x1008 1 8
  let m2 := Memory.writeN m1 0x1800 0xE000000000000000 8
  let m3 := Memory.writeN m2 0x1808 0xFFFF0000 8
  let m4 := Memory.writeN m3 0x2000 0x8000000000004000 8
  let m5 := Memory.writeN m4 0x4000 0xC000000000000000 8
  { s with
    mem := m5
    port := { s.port with enable := true, block := [0x1000, 0x2000, 0, 0, 0x6000, 0x7000, 0x8000, 0] }
    cores := [(0, { CoreSt.reset with plb := [⟨0, 0, 0xFFFF, true, true, true, false⟩] })]
    clusters := [(0, { ClusterSt.reset with tlb := [⟨0, 2 ^ 36, 0, 0, 0, false, 0x4000, false, false, none, []⟩] })] }

/-- The context in slot 0. -/
def at0 (s : State) : Thread := s.thread p0

/-- g1 after an instruction on g2 = a, g3 = b, g4 = c, where the bundle issues. -/
def res (i : Instr) (a b c : Word) : Option Word :=
  match exec i (world (thr 0x11 a b c)) with
  | .next t =>
    if t.issue.last = .done then
      (match vget t.me.g 1 (.val 0) with
        | .val v => some v
        | _ => none)
    else none
  | _ => none

/-- How often the core has counted an event after an instruction on g2 = a, g3 = b. -/
def counted (i : Instr) (a b : Word) (e : Nat) : Nat :=
  match exec i (world (thr 0x11 a b 0)) with
  | .next t => vget (t.core t.cur).ev e 0
  | _ => 99

/-- The state after two words. -/
def after2 (i j : Instr) (s : State) : Option State :=
  match exec i s with
  | .next t =>
    match exec j t with
    | .next u => some u
    | _ => none
  | _ => none

/-- The state after a few words and events, if each answers a next state. -/
def runs : List Instr → State → Option State
  | [], s => some s
  | i :: l, s =>
    match exec i s with
    | .next t => runs l t
    | _ => none

/-! ### Decoding: the words of the manual's worked tables -/

/-- 09 Table 9.15. -/
theorem test_decode_scalar :
    [decodeWord 0xC0298E09#32,
      decodeWord 0xC2298E80#32,
      decodeWord 0xC9292345#32,
      decodeWord 0xCA29883C#32,
      decodeWord 0xD0425464#32,
      decodeWord 0xD1299229#32,
      decodeWord 0xD8080A20#32,
      decodeWord 0x5D298E03#32,
      decodeWord 0x5D18FCDC#32,
      decodeWord 0x44193FF8#32,
      decodeWord 0x47583FFD#32,
      decodeWord 0x41080010#32,
      decodeWord 0x42014002#32,
      decodeWord 0x42000003#32,
      decodeWord 0x40183205#32,
      decodeWord 0x40004202#32,
      decodeWord 0x40000003#32,
      decodeWord 0x7620C001#32,
      decodeWord 0x77298E00#32,
      decodeWord 0x77014001#32,
      decodeWord 0x1D18C0C8#32] = [
      some (.add .w .sat 5 6 7),
      some (.sel 5 6 7 8),
      some (.lui 5 0x12345),
      some (.ext 5 6 8 15),
      some (.fma .d .sr 8 9 10),
      some (.fcvt .out .s .rtz 5 6 .int32),
      some (.pmin 1 0 5),
      some (.lea 5 6 7 3),
      some (.caddi 3 3 (-100)),
      some (.bne 3 4 (-8)),
      some (.loop 11 (-3)),
      some (.call 1 16),
      some (.jmpr 5),
      some (.ret),
      some (.mtc .tcmp 3),
      some (.trap 0x21),
      some (.eret),
      some (.sleep 4 3),
      some (.launch 5 6 7),
      some (.cdec 5),
      some (.caddi 3 3 8)] := by decide +kernel

/-- 11 Table 11.17. -/
theorem test_decode_vector_matrix :
    [decodeWord 0xE21E0A00#32,
      decodeWord 0xE0088660#32,
      decodeWord 0xE6425408#32,
      decodeWord 0xE7088641#32,
      decodeWord 0xE8298001#32,
      decodeWord 0xEB31C400#32,
      decodeWord 0xEA004000#32,
      decodeWord 0xEC190000#32,
      decodeWord 0x68114C00#32,
      decodeWord 0x68104C03#32,
      decodeWord 0x69014C00#32,
      decodeWord 0x6A094C00#32,
      decodeWord 0x6B180E01#32,
      decodeWord 0x6B180002#32,
      decodeWord 0x6B000202#32,
      decodeWord 0x6C090AC0#32,
      decodeWord 0x6D110A00#32,
      decodeWord 0x6E000000#32] = [
      some (.vfma .rne 0 3 24 5),
      some (.vadd .rne .sat 1 1 2 3),
      some (.vcmp .lt 0 8 9 10),
      some (.vsel 0 1 2 3 4),
      some (.vbcast 0 5 6),
      some (.vcvt .rne .sat 0 6 7 .fp8e4),
      some (.vredsum .rne 0 0 1),
      some (.vsort 0 3 4),
      some (.mma 2 false (.window 5) 6),
      some (.mma 2 true (.stream 1) 6),
      some (.mmas 0 false (.window 5) 6),
      some (.mtrans 1 5 6),
      some (.acfg 3 .fp32),
      some (.abind 3),
      some (.abindNone),
      some (.mload .acq .pkg 1 4 5),
      some (.wload 2 4 5),
      some (.mwait)] := by decide +kernel

/-- 13 Table 13.10. -/
theorem test_decode_polders :
    [decodeWord 0x60190A00#32,
      decodeWord 0x60010001#32,
      decodeWord 0x60014C02#32,
      decodeWord 0x60190A03#32,
      decodeWord 0x60190004#32,
      decodeWord 0x60190A05#32,
      decodeWord 0x60010006#32] = [
      some (.attach 3 4 5),
      some (.detach 4),
      some (.hand 5 6),
      some (.pwait 3 4 5),
      some (.pquery 3 4),
      some (.pkeep 3 4 5),
      some (.pzero 4)] := by decide +kernel

/-- 15 Table 15.12. -/
theorem test_decode_memory :
    [decodeWord 0x4C299604#32,
      decodeWord 0x533889FF#32,
      decodeWord 0x4F425443#32,
      decodeWord 0x4F190A47#32,
      decodeWord 0x4F190C49#32,
      decodeWord 0x54391045#32,
      decodeWord 0x4F090A4A#32,
      decodeWord 0x56190BC0#32,
      decodeWord 0x57190AD9#32,
      decodeWord 0x57190A42#32,
      decodeWord 0x40190A13#32,
      decodeWord 0x40190014#32,
      decodeWord 0x40010A10#32,
      decodeWord 0x40010A11#32,
      decodeWord 0x40010012#32] = [
      some (.ld .w .acq .die 5 6 4),
      some (.st .d .rlx .pkg 7 2 (-1)),
      some (.ldIndexed .hu .rlx .pkg 8 9 10),
      some (.ldv .pkg 3 4 5),
      some (.ldvg .pkg 3 4 6),
      some (.stvs .pkg 7 4 8),
      some (.pref .l2 .pkg 4 5),
      some (.aadd .w .ar .pkg 3 4 5),
      some (.acas .d .acq .sys 3 4 5),
      some (.afadd .w .rlx .pkg 3 4 5),
      some (.terp 3 4 5),
      some (.unterp 3 4),
      some (.harvest 4 5),
      some (.tlbsd 4 5),
      some (.plbinv 4)] := by decide +kernel

/-- 19 Table 19.14. -/
theorem test_decode_streams :
    [decodeWord 0x61110A00#32,
      decodeWord 0x61100001#32,
      decodeWord 0x61188002#32,
      decodeWord 0x61188003#32,
      decodeWord 0x62090A00#32,
      decodeWord 0x62080001#32,
      decodeWord 0x62190002#32,
      decodeWord 0x62184003#32,
      decodeWord 0x62184C04#32,
      decodeWord 0x70190040#32,
      decodeWord 0x70190041#32,
      decodeWord 0x70000042#32,
      decodeWord 0x71010430#32,
      decodeWord 0x71180431#32,
      decodeWord 0x71180032#32,
      decodeWord 0x71181A43#32,
      decodeWord 0x71010044#32,
      decodeWord 0x71011845#32,
      decodeWord 0x72190A00#32,
      decodeWord 0x72190001#32,
      decodeWord 0x72184002#32] = [
      some (.sbind 2 4 5),
      some (.sfree 2),
      some (.sstat 3 2),
      some (.sflush 3 2),
      some (.cbind 1 4 5),
      some (.cfree 1),
      some (.alt 3 4),
      some (.cpoll 3 1),
      some (.cgrant 3 1 6),
      some (.copy .pkg 3 4),
      some (.xcopy .pkg 3 4),
      some (.cwait .pkg),
      some (.barm 4 2),
      some (.barr 3 2),
      some (.bara 3 0),
      some (.barw 3 13),
      some (.bto true 4),
      some (.csum 4 12),
      some (.route 3 4 5),
      some (.rtswap 3 4),
      some (.sptake 3 1)] := by decide +kernel

/-- 21 Table 21.8. -/
theorem test_decode_revisions :
    [decodeWord 0x73190000#32,
      decodeWord 0x73280001#32,
      decodeWord 0x73314002#32,
      decodeWord 0x73190003#32,
      decodeWord 0x33180001#32] = [
      some (.region 3 4),
      some (.fork 5),
      some (.join 6 5),
      some (.revq 3 4),
      some (.fork 3)] := by decide +kernel

/-- 23 Table 23.12. -/
theorem test_decode_contexts :
    [decodeWord 0x78180000#32,
      decodeWord 0x78180001#32,
      decodeWord 0x78F80000#32,
      decodeWord 0x78010000#32,
      decodeWord 0x78010001#32,
      decodeWord 0x78010002#32,
      decodeWord 0x40000A06#32,
      decodeWord 0x4007FE06#32] = [
      some (.swapout (.cache 3)),
      some (.swapin (.cache 3)),
      some (.swapout (.cache 31)),
      some (.swapout (.at 4)),
      some (.swapin (.at 4)),
      some (.migrate 4),
      some (.dbg 5),
      some (.dbg 1023)] := by decide +kernel

/-- 17. -/
theorem test_decode_fence :
    [decodeWord 0x5C003600#32,
      decodeWord 0x5C002800#32,
      decodeWord 0x5C001A00#32,
      decodeWord 0x1C003600#32] = [
      some (.fence .full .die),
      some (.fence .rel .pkg),
      some (.fence .acq .sys),
      some (.fence .full .die)] := by decide +kernel

/-- 05. -/
theorem test_decode_pair :
    [decodeWord 0x0E190801#32,
      decodeWord 0x80298E00#32,
      decodeWord 0x40000001#32] = [
      some (.ld .d .rlx .pkg 3 4 1),
      some (.add .d .wrap 5 6 7),
      some (.nop)] := by decide +kernel

/-! ### What WellFormed refuses: one ill-formed term for each check -/

theorem smoke_scalar :
    (Instr.mtc .wid 1).wellFormed = false ∧ (Instr.mtc .timer 1).wellFormed = false ∧ (Instr.loop 0 5).wellFormed = false ∧
    (Instr.ext 1 2 60 4).wellFormed = false ∧ (Instr.ins 1 2 63 1).wellFormed = false ∧ (Instr.pcnt 0 1).wellFormed = false ∧
    (Instr.pmin 0 1 2).wellFormed = false ∧ (Instr.pmov 0 1).wellFormed = false := by decide

theorem smoke_memory :
    (Instr.ld .d .rel .slot 1 2 0).wellFormed = false ∧ (Instr.ldIndexed .d .ar .slot 1 2 3).wellFormed = false ∧
    (Instr.mload .rel .slot 1 2 3).wellFormed = false ∧ (Instr.st .d .acq .slot 1 2 0).wellFormed = false ∧
    (Instr.stIndexed .d .ar .slot 1 2 3).wellFormed = false ∧ (Instr.mstore .acq .slot 1 2 3).wellFormed = false := by decide

theorem smoke_formats :
    (Instr.acfg 0 .fp64).wellFormed = false ∧ (Instr.fcvt .out .s .rtz 1 2 .tern).wellFormed = false ∧
    (Instr.vcvt .rne .sat 0 1 2 .tern).wellFormed = false ∧ (Instr.swapout (.at 0)).wellFormed = false ∧
    (Instr.swapin (.at 0)).wellFormed = false := by decide

/-- d12, core 256 and slot 16 do not exist. -/
theorem smoke_places :
    [⟨12, 0, 0⟩, ⟨0, 256, 0⟩, ⟨0, 0, 16⟩].all (fun p : Party =>
      [Instr.codeletStart p, .asyncEventTrap p, .timerCompare p, .sleepWake p, .tenantSlotChange p, .plbFill p 0,
        .streamDescriptorRead p 0, .streamFill p 0, .streamDrain p 0, .channelTimeout p, .barrierTimeout p, .preemptSave p,
        .contextResume p, .tlbsdComplete p, .harvestComplete p, .plbinvComplete p].all (fun i => !i.wellFormed)) = true := by
  decide +kernel

/-! ### Witnesses: decoding and steps -/

theorem witness_DecodeOfEncode :
    (Instr.ext 5 6 63 0).wellFormed = true ∧ encode false (.ext 5 6 63 0) = some 0x8A29BF00#32 ∧
      decodeWord 0x8A29BF00#32 = some (.ext 5 6 63 0) := by decide +kernel

theorem witness_EncodeOfDecode :
    decodeWord 0xC0298E09#32 = some (.add .w .sat 5 6 7) ∧ loneBit 0xC0298E09#32 = true ∧
      encode true (.add .w .sat 5 6 7) = some 0xC0298E09#32 := by decide +kernel

/-- A word alone: NOP. -/
def lone : State := State.reset.withFetchWord 32 0x40000001

/-- A pair: NOP and ORI g0, g0, 0. -/
def pair : State := State.reset.withFetchWord 32 0x00000001

theorem witness_StepRuns_lone : ∃ s1 : State, ∃ c : Instr, (at0 lone).firstTrap = none ∧ (at0 lone).owed = [] ∧
    lone.pendingEvent p0 = none ∧ lone.fetchWord p0 (at0 lone) (at0 lone).pc.toNat = (.word 0x40000001#32, s1) ∧
    decodeWord 0x40000001#32 = some c ∧ loneBit 0x40000001#32 = true ∧ pipeOf c none = none ∧
    wbit (at0 lone).status stDbg = false :=
  ⟨_, _, rfl, rfl, rfl, rfl, rfl, rfl, rfl, rfl⟩

/-- The pair's state before its words. -/
def pair0 (s : State) (w : IWord) : State := s.wordAt p0 (at0 pair).pc ((at0 pair).pc + 8) w

/-- What both words read besides the thread and its tiles. -/
def before0 (s : State) (w : IWord) : Option (Nat × Table Window) := some ((pair0 s w).nextOp, ((pair0 s w).core p0).windows)

theorem witness_StepRuns_pair : ∃ s1 s2 s3 s4 s5 s6 : State, ∃ w v : IWord, ∃ c a : Instr,
    (at0 pair).firstTrap = none ∧ (at0 pair).owed = [] ∧ pair.pendingEvent p0 = none ∧
    pair.fetchWord p0 (at0 pair) (at0 pair).pc.toNat = (.word w, s1) ∧ decodeWord w = some c ∧ loneBit w = false ∧
    isAWord w = false ∧ (at0 pair).pc.getLsbD 2 = false ∧
    s1.fetchWord p0 (at0 pair) ((at0 pair).pc.toNat + 4) = (.word v, s2) ∧ decodeWord v = some a ∧ isAWord v = true ∧
    loneBit v = false ∧ Instr.loneOnly c = false ∧ vectorTime a = none ∧ tileClash (at0 pair) c a = false ∧
    wbit (at0 pair).status stDbg = false ∧
    exec c { pair0 s2 w with issue := { (pair0 s2 w).issue with mate := (pair0 s2 w).matePoison c a } } = .next s3 ∧
    s3.issue.last = .done ∧
    exec a (({ pair0 s2 w with issue := { (pair0 s2 w).issue with popped := s3.issue.popped } } : State).asSecond
      ⟨at0 pair, (s2.core p0).tiles, before0 s2 w⟩ v) = .next s4 ∧ s4.held p0 = false ∧
    (s4.issue.popped.take (s4.issue.popped.length - s3.issue.popped.length)).reverse = [] ∧ s5 = s3 ∧
    s5.issue.last = .done ∧
    exec a (({ s5 with issue := { s5.issue with ahead := [] } } : State).asSecond ⟨at0 pair, (s2.core p0).tiles, before0 s2 w⟩ v) = .next s6 ∧
    s6.issue.last = .done :=
  ⟨_, _, _, _, _, _, _, _, _, _, rfl, rfl, rfl, rfl, rfl, rfl, rfl, rfl, rfl, rfl, rfl, rfl, rfl, rfl, rfl, rfl, rfl, rfl, rfl,
    rfl, rfl, rfl, rfl, rfl, rfl⟩

theorem witness_StepRuns_turn : ∃ s1 s2 : State, ∃ l2 : List Nat, ∃ t : Thread,
    lone.agenda = .turn 0 0 :: [] ∧ ({ lone with agenda := [] } : State).corePresent 0 0 = true ∧
    (lone.dieAt 0).halted = false ∧
    State.runRests (slotsOf 0 0) (({ lone with agenda := [] } : State).turnClock 0 0) = .next s1 ∧
    (s1.coreAt (0 * 256 + 0)).lastCycle ≠ some (s1.clock 0) ∧ (s1.coreAt (0 * 256 + 0)).refused = [] ∧
    rotation (s1.coreAt (0 * 256 + 0)).lastSlot = [] ++ 0 :: l2 ∧
    s1.reaches ⟨0, 0, 0⟩ = false ∧ s1.thread? ⟨0, 0, 0⟩ = some t ∧ s1.offerable ⟨0, 0, 0⟩ = true ∧ t.yield = none ∧
    (s1.noteOffer 0 0 0).offer ⟨0, 0, 0⟩ t = .issued s2 :=
  ⟨_, _, _, _, rfl, rfl, rfl, rfl, nofun, rfl, rfl, rfl, rfl, rfl, rfl, rfl⟩

/-- The step issues the bundle: the slot goes on at the next word. -/
theorem test_step_issues : nextIs (step lone) (fun t => decide ((at0 t).pc = 0x20004 ∧ t.issue.last = .done)) = true := by
  decide +kernel

/-- Two slots stand before the one that issues. -/
theorem witness_StepRuns_later : ∃ s1 : State, ∃ l2 : List Nat,
    State.runRests (slotsOf 0 0)
      (({ lone.setCoreAt 0 { lone.coreAt 0 with lastSlot := 13 } with agenda := [] } : State).turnClock 0 0) = .next s1 ∧
    rotation (s1.coreAt 0).lastSlot = [14, 15] ++ 0 :: l2 ∧
    (s1.reaches ⟨0, 0, 14⟩ = false ∧ s1.thread? ⟨0, 0, 14⟩ = none) ∧
    (s1.reaches ⟨0, 0, 15⟩ = false ∧ s1.thread? ⟨0, 0, 15⟩ = none) ∧ s1.offerable ⟨0, 0, 0⟩ = true :=
  ⟨_, _, rfl, rfl, ⟨rfl, rfl⟩, ⟨rfl, rfl⟩, rfl⟩

theorem witness_FetchReadsWordsOrTraps : ∃ s1 s2 s3 : State, ∃ used : List PlbEntry, ∃ x : Xlat,
    lone.rights (Party.coreKey p0) (at0 lone).dom (at0 lone).sup needX 260 0x20000 (0x20000 + 4) [] = .ok used ∧
    s1 = lone.usePlb (Party.coreKey p0) used ∧
    s1.translate (Party.clusterKey p0) 0x20000 (at0 lone).revNo false (s1.launchOf p0) = (.ok x, s2) ∧
    s3 = (if ((s2.core p0).l1Hit 0x20000 4 (at0 lone).dom (at0 lone).revNo).isSome then s2
      else s2.l2Touch p0.die (at0 lone).dom 0x20000 x.pa x.attr false) ∧
    s3.revisioned (at0 lone).dom 0x20000 x.revd x.attr = false ∧ poisonIn s3.memPoison x.pa 4 = false ∧
    s3.pendingStores (fetchFlight s3 p0 (at0 lone)) = [] :=
  ⟨_, _, _, _, _, rfl, rfl, rfl, rfl, rfl, rfl, rfl⟩

/-- A fetch from an address with bit 60 set traps with cause 0x06 and reason 6, and EADDR the address (09 R110). -/
theorem test_fetch_reserved : nextIs (exec (.fetchFault 0x1000000000000000 .address) (world (thr 0 0 0 0))) (fun t =>
    decide ((at0 t).ecause.toNat % 256 = 6 ∧ (at0 t).einfo = 0x46 ∧ (at0 t).eaddr = 0x1000000000000000)) = true := by
  decide +kernel

theorem witness_ExecAnswersNext : (world (thr 0 0 0 0)).running ∧ Instr.isEvent (.hostRead 0 4) = true := ⟨rfl, rfl⟩

theorem witness_TrapsAndParksTakeNoEffect :
    (nextIs (exec (.eret) (world (thr 0 0 0 0))) (fun t => t.issue.last == .trapped)) = true ∧
    (nextIs (exec (.jmpr 2) ((world (thr 0 0 0 0)).setMe { thr 0 0 0 0 with g := vset (thr 0 0 0 0).g 2 (.empty 3) })) (fun t =>
      decide (t.issue.last = .parked) && !(t.me.park.any (fun k => k.after)))) = true := by decide +kernel

theorem witness_StepKeepsMemoryCanonical : State.reset.memoryWf ∧ lone.memoryWf ∧
    nextIs (step lone) (fun t => Memory.wf t.mem) = true := by decide +kernel

/-! ### Witnesses: operands -/

def bad0 : Replay := ⟨.load, 0x5000, 3, false, .rlx, .slot, 0, 0, 8, 0xFC, 2, true⟩

/-- An older record, which the A-word of a pair reads. -/
def mate0 : Poison := Poison.ofReplay { bad0 with addr := 0x6000, seq := 1 } false 7

def endpoint (out : Bool) (st : ChanState) (head b a : Nat) : Chan := ⟨out, ⟨0, 0, 1⟩, 0, false, some 5, st, 0, head, b, 0, a, 0⟩

/-- g2 empty, g3 poisoned; c0 and c1 inbound, without and with a word; c2 to c5 outbound: with allowance, refused, freed, and
without allowance. -/
def odd : State := world { thr 0 0 0 9 with
  g := ((thr 0 0 0 9).g.set 2 (.empty 3)).set 3 (.poison bad0)
  q := (thr 0 0 0 9).q.set 3 (.empty 3)
  tile := some 0
  chans := Vector.ofFn (fun (i : Fin 8) =>
    match i.val with
    | 0 => some (endpoint false .opened 0 0 0)
    | 1 => some (endpoint false .opened 31 1 0)
    | 2 => some (endpoint true .opened 0 0 1)
    | 3 => some (endpoint true .refused 0 0 1)
    | 4 => some (endpoint true .freed 0 0 1)
    | 5 => some (endpoint true .waiting 0 0 0)
    | _ => none) }

/-- The same, as the C-word of a pair whose A-word reads that record. -/
def oddPair : State := { odd with issue := { odd.issue with mate := some mate0 } }

theorem witness_GeneralSourcesRead :
    (odd.aliasChan 0 = none ∧ odd.readG 0 = .ok (0, odd)) ∧
    (odd.aliasChan 4 = none ∧ odd.src.g[(4 : Reg)] = .val 9 ∧ odd.readG 4 = .ok (9, odd)) ∧
    (odd.aliasChan 2 = none ∧ odd.src.g[(2 : Reg)] = .empty 3 ∧ odd.readG 2 = .error (.park (.reg 2))) ∧
    (odd.aliasChan 3 = none ∧ odd.src.g[(3 : Reg)] = .poison bad0 ∧
      odd.readG 3 = .error (.trap 0x0A 0x5000 (Poison.ofReplay bad0 false 3).einfo none)) ∧
    (odd.aliasChan 26 = some (2, endpoint true .opened 0 0 1) ∧ odd.readG 26 = .error (.trap 0x0D 0 0x23 none)) ∧
    (odd.aliasChan 24 = some (0, endpoint false .opened 0 0 0) ∧ odd.readG 24 = .error (.park (.word 0 1))) ∧
    (odd.aliasChan 25 = some (1, endpoint false .opened 31 1 0) ∧ odd.issue.pre = none ∧ odd.issue.popped = [] ∧ odd.issue.ahead = [] ∧
      okIs (odd.readG 25) (fun x => decide ((x.2.me.chan? 1).map (·.b) = some 0 ∧
        (x.2.me.chan? 1).map (·.head) = some 32 ∧ x.2.issue.popped.map (·.1) = [1])) = true) ∧
    (oddPair.aliasChan 3 = none ∧ oddPair.src.g[(3 : Reg)] = .poison bad0 ∧ oddPair.issue.mate = some mate0 ∧
      mate0.seq < (Poison.ofReplay bad0 false 3).seq ∧
      oddPair.readG 3 = .error (.trap mate0.cause 0x6000 mate0.einfo (some 1))) :=
  ⟨⟨rfl, rfl⟩, ⟨rfl, rfl, rfl⟩, ⟨rfl, rfl, rfl⟩, ⟨rfl, rfl, rfl⟩, ⟨rfl, rfl⟩, ⟨rfl, rfl⟩,
    ⟨rfl, rfl, rfl, rfl, by decide +kernel⟩, rfl, rfl, rfl, by decide, rfl⟩

theorem witness_GeneralDestinations :
    odd.running ∧ (odd.aliasChan 0 = none ∧ odd.writeG 0 5 = odd) ∧ (odd.writeG 4 5).me.g[(4 : Reg)] = .val 5 ∧
    (odd.aliasChan 26 = some (2, endpoint true .opened 0 0 1) ∧ odd.me.chan? 2 = some (endpoint true .opened 0 0 1) ∧
      ((odd.writeG 26 5).me.chan? 2).map (·.a) = some 0 ∧ (odd.writeG 26 5).flights.length = 1) ∧
    odd.checkDest 2 = .error (.park (.reg 2)) ∧ odd.checkDest 0 = .ok () ∧ odd.checkDest 4 = .ok () ∧
    odd.checkDest 24 = .error (.trap 0x0D 0 0x03 none) ∧ odd.checkDest 27 = .error (.trap 0x0D 0 0x35 none) ∧
    odd.checkDest 28 = .error (.trap 0x0D 0 0x47 none) ∧ odd.checkDest 29 = .error (.park (.send 5 1)) ∧
    odd.checkDest 26 = .ok () := by
  refine ⟨rfl, ⟨rfl, rfl⟩, rfl, ⟨rfl, rfl, rfl, rfl⟩, rfl, rfl, rfl, rfl, rfl, rfl, rfl, rfl⟩

theorem witness_PredicatesCount :
    odd.running ∧ (world (thr 0 0 0 0)).src.tile = none ∧ (world (thr 0 0 0 0)).readQ 0 = .ok 0 ∧
    odd.src.tile = some 0 ∧ (odd.srcTiles[(0 : Fin 8)]).typ.okTile = true ∧ odd.readQ 0 = .ok 32 ∧
    odd.src.q[(3 : Reg8)] = .empty 3 ∧ odd.readQ 3 = .error (.park .pred) ∧ odd.issue.pre = none ∧
    (odd.writeQ 2 129).readQ 2 = .ok 128 ∧ (odd.writeQ 2 128).readQ 2 = .ok 128 ∧ (odd.writeQ 2 7).readQ 2 = .ok 7 :=
  ⟨rfl, rfl, rfl, rfl, rfl, rfl, rfl, rfl, rfl, rfl, rfl, rfl⟩

/-! ### Witnesses and values: scalar words -/

/-- 09 Table 9.4, by hand: wraps and clamps at the width, extensions, division corners. -/
theorem test_integer_words :
    [res (.add .b .wrap 1 2 3) 0x7F 1 0, res (.add .b .sat 1 2 3) 0x7F 1 0, res (.add .d .wrap 1 2 3) (-1) 2 0,
      res (.sub .w .wrap 1 2 3) 0 1 0, res (.sub .h .sat 1 2 3) 0x8000 1 0,
      res (.mul .b .wrap 1 2 3) 0x10 0x10 0, res (.mul .b .sat 1 2 3) 0x10 0xF0 0,
      res (.mulh .w 1 2 3) 0x80000000 2 0, res (.mulhu .w 1 2 3) 0x80000000 2 0,
      res (.div .w 1 2 3) 0xFFFFFFF9 2 0, res (.div .b 1 2 3) 0x80 0xFF 0, res (.div .d 1 2 3) 7 0 0,
      res (.divu .b 1 2 3) 0xFF 2 0, res (.divu .h 1 2 3) 7 0 0,
      res (.rem .w 1 2 3) 0xFFFFFFF9 2 0, res (.rem .b 1 2 3) 0x85 0 0, res (.remu .b 1 2 3) 0x1F9 10 0,
      res (.remu .b 1 2 3) 0x185 0x100 0] =
    [some (-128), some 127, some 1, some (-1), some (-32768), some 0, some (-128), some (-1), some 1, some (-3), some (-128),
      some (-1), some 127, some 0xFFFF, some (-1), some (-123), some 9, some 0x85] := by decide +kernel

theorem test_integer_compares :
    [res (.min .b 1 2 3) 0xFF 1 0, res (.max .b 1 2 3) 0xFF 1 0, res (.minu .b 1 2 3) 0xFF 1 0,
      res (.maxu .b 1 2 3) 0xFF 1 0, res (.slt .h 1 2 3) 0xFFFF 0 0, res (.sltu .h 1 2 3) 0xFFFF 0 0,
      res (.slt .d 1 2 3) 5 5 0] =
    [some (-1), some 1, some 1, some 0xFF, some 1, some 0, some 0] := by decide +kernel

theorem test_logic_and_shifts :
    [res (.and .d 1 2 3) 0xFF0 0x3C 0, res (.or .b 1 2 3) 0x80 1 0, res (.xor .w 1 2 3) 0xF0000000 1 0,
      res (.shl .b 1 2 3) 1 7 0, res (.shl .b 1 2 3) 1 8 0, res (.shl .d 1 2 3) 1 64 0, res (.shr .w 1 2 3) 0x80000000 31 0,
      res (.shr .h 1 2 3) 0xFFFF 16 0, res (.sar .b 1 2 3) 0x80 3 0, res (.sar .b 1 2 3) 0x80 9 0, res (.sar .b 1 2 3) 0x7F 9 0,
      res (.clz .w 1 2) 1 0 0, res (.clz .b 1 2) 0x100 0 0, res (.ctz .h 1 2) 0x50 0 0, res (.ctz .d 1 2) 0 0 0,
      res (.popc .b 1 2) 0x1FF 0 0] =
    [some 0x30, some (-127), some (BitVec.ofInt 64 (-0xFFFFFFF)), some (-128), some 0, some 1, some 1, some 0, some (-16),
      some (-1), some 0, some 31, some 8, some 4, some 64, some 8] := by decide +kernel

/-- ISAT and IDIVZ count as 07 R87 and 09 R97 say. -/
theorem test_integer_events :
    [counted (.add .b .sat 1 2 3) 0x7F 1 evIsat, counted (.add .b .sat 1 2 3) 0x7E 1 evIsat,
      counted (.add .b .wrap 1 2 3) 0x7F 1 evIsat, counted (.div .d 1 2 3) 7 0 evIdivz,
      counted (.div .d 1 2 3) 7 1 evIdivz] = [1, 0, 0, 1, 0] := by decide +kernel

theorem witness_IntegerResults :
    (world (thr 0 5 7 0)).running ∧ Reads2 (world (thr 0 5 7 0)) 2 3 5 7 (world (thr 0 5 7 0)) ∧
    (world (thr 0 5 7 0)).checkDest 1 = .ok () ∧ Reads2 (world (thr 0 5 7 0)) 2 0 5 0 (world (thr 0 5 7 0)) ∧
    (intResult 8 .sat 127 = (127, [])) ∧ signedOf 8 (intResult 8 .sat (-128)).1 = -128 ∧
    intResult 8 .sat 128 = (127, [evIsat]) ∧ signedOf 8 (intResult 8 .sat (-129)).1 = -128 ∧
    (intResult 8 .sat (-129)).2 = [evIsat] ∧ signedOf 1 (intResult 1 .wrap 1).1 = Int.bmod 1 (2 ^ 1) := by
  refine ⟨rfl, rfl, rfl, rfl, ?_⟩; decide +kernel

theorem witness_LogicAndShiftResults :
    (world (thr 0 5 7 0)).running ∧ (world (thr 0 5 7 0)).checkDest 1 = .ok () ∧
    Reads2 (world (thr 0 5 7 0)) 2 3 5 7 (world (thr 0 5 7 0)) ∧ Reads1 (world (thr 0 5 7 0)) 2 5 (world (thr 0 5 7 0)) :=
  ⟨rfl, rfl, rfl, rfl, rfl⟩

theorem witness_SelectResult :
    (world (thr 0 5 7 9)).running ∧ (world (thr 0 5 7 9)).checkPoison [2, 3, 4] = .ok () ∧
    (world (thr 0 5 7 9)).readG 2 = .ok (5, world (thr 0 5 7 9)) ∧ (world (thr 0 5 7 9)).readG 3 = .ok (7, world (thr 0 5 7 9)) ∧
    (world (thr 0 5 7 9)).readG 4 = .ok (9, world (thr 0 5 7 9)) ∧ (world (thr 0 5 7 9)).checkDest 1 = .ok () ∧
    res (.sel 1 2 3 4) 5 7 9 = some 5 ∧ res (.sel 1 2 3 4) 5 7 0 = some 7 := by
  refine ⟨rfl, rfl, rfl, rfl, rfl, rfl, ?_⟩; decide +kernel

/-- 09 R99; LUI's value from 10. -/
theorem test_immediates :
    [res (.addi 1 2 (-1)) 0 0 0, res (.andi 1 2 0x3FFF) (-1) 0 0, res (.ori 1 2 0x2000) 1 0 0, res (.xori 1 2 1) 3 0 0,
      res (.shli 1 2 63) 3 0 0, res (.shri 1 2 63) (-1) 0 0, res (.sari 1 2 63) (-2) 0 0, res (.slti 1 2 (-1)) (-2) 0 0,
      res (.lui 1 0x12345) 0 0 0, res (.lui 1 0x40000) 0 0 0] =
    [some (-1), some 0x3FFF, some 0x2001, some 2, some 0x8000000000000000, some 1, some (-1), some 1, some 0x48D14000,
      some 0xFFFFFFFF00000000] := by decide +kernel

theorem witness_ImmediateResults :
    (world (thr 0 5 7 0)).running ∧ (world (thr 0 5 7 0)).checkDest 1 = .ok () ∧
    Reads1 (world (thr 0 5 7 0)) 2 5 (world (thr 0 5 7 0)) := ⟨rfl, rfl, rfl, rfl⟩

theorem test_fields_and_addresses :
    [res (.ext 1 2 8 15) 0x123456789 0 0, res (.ext 1 2 0 63) (-1) 0 0, res (.ext 1 2 63 0) 0x8000000000000000 0 0,
      res (.ins 1 2 4 3) 0xAB 0 0, res (.lea 1 2 3 3) 5 7 0, res (.cadd 1 2 3) (-1) 2 0, res (.cmov 1 2 3) 5 1 0,
      res (.cmov 1 2 3) 5 0 0, res (.caddi 1 2 (-100)) 3 0 0] =
    [some 0x4567, some (-1), some 1, some 0xB1, some 61, some 1, some 5, some 0x11, some (-97)] := by decide +kernel

theorem witness_FieldAndAddressResults :
    (world (thr 0 5 7 0)).running ∧ Reads1 (world (thr 0 5 7 0)) 2 5 (world (thr 0 5 7 0)) ∧
    Reads2 (world (thr 0 5 7 0)) 1 2 0 5 (world (thr 0 5 7 0)) ∧ (world (thr 0 5 7 0)).checkDest 1 = .ok () ∧
    (63 : BitVec 6).toNat + (0 : BitVec 6).toNat + 1 ≤ 64 ∧ Reads2 (world (thr 0 5 7 0)) 2 0 5 0 (world (thr 0 5 7 0)) :=
  ⟨rfl, ⟨rfl, rfl⟩, rfl, rfl, by decide, rfl⟩

/-- 07 R83 to R85, R89; 09 R103: encodings by hand. -/
theorem test_float_rounded :
    [res (.fadd .s .rne 1 2 3) 0x3F800000 0x3F800000 0, res (.fadd .d .rne 1 2 3) 0x3FF0000000000000 0x3CA0000000000000 0,
      res (.fadd .d .rup 1 2 3) 0x3FF0000000000000 0x3CA0000000000000 0, res (.fsub .h .rdn 1 2 3) 0x3C00 0x3C00 0,
      res (.fsub .b .rne 1 2 3) 0x4000 0x3F80 0, res (.fmul .h .rne 1 2 3) 0x7BFF 0x4000 0,
      res (.fmul .h .rtz 1 2 3) 0x7BFF 0x4000 0, res (.fdiv .s .rne 1 2 3) 0x3F800000 0x80000000 0,
      res (.fdiv .s .rne 1 2 3) 0 0 0, res (.fsqrt .s .rne 1 2) 0x40800000 0 0, res (.fsqrt .d .rne 1 2) 0x8000000000000000 0 0,
      res (.fadd .s .rne 1 2 3) 0x7F800001 0x7FC00005 0, res (.fadd .s .sr 1 2 3) 0x3F800000 0x33800000 0,
      res (.fadd .s .sr 1 2 3) 0x3F800000 0x21800000 0] =
    [some 0x40000000, some 0x3FF0000000000000, some 0x3FF0000000000001, some 0x8000, some 0x3F80, some 0x7C00, some 0x7BFF,
      some 0xFF800000, some 0x7FC00000, some 0x40000000, some 0x8000000000000000, some 0x7FC00001, some 0x3F800001,
      some 0x3F800000] := by decide +kernel

/-- FMA forms ga × gb + gd in one rounding; the draw of SEED = 1 is 270369 (07 R84). -/
theorem test_fma_and_draw :
    nextIs (exec (.fma .s .rne 1 2 3) (world (thr 0xBF800000 0x3F800001 0x3F7FFFFE 0))) (fun t =>
      vget t.me.g 1 (.val 0) == .val 0xA8800000) = true ∧
    nextIs (exec (.fma .s .sr 1 2 3) (world (thr 0x40000000 0x40400000 0x40800000 0))) (fun t =>
      vget t.me.g 1 (.val 0) == .val 0x41600000 && t.me.seed == 270369) = true := by decide +kernel

theorem test_float_events :
    [counted (.fdiv .s .rne 1 2 3) 0x3F800000 0 evDivzero, counted (.fdiv .s .rne 1 2 3) 0 0 evInvalid,
      counted (.fmul .h .rne 1 2 3) 0x7BFF 0x4000 evOverflow, counted (.fmul .h .rne 1 2 3) 0x7BFF 0x4000 evInexact,
      counted (.fmul .s .rne 1 2 3) 0x00800000 0x3F000000 evUnderflow,
      counted (.fmul .s .rne 1 2 3) 0x00800001 0x3F000000 evUnderflow,
      counted (.fcmp .lt .s 1 2 3) 0x7FC00000 0 evInvalid, counted (.fcmp .eq .s 1 2 3) 0x7FC00000 0 evInvalid] =
    [1, 1, 1, 1, 0, 1, 1, 0] := by decide +kernel

theorem test_float_other :
    [res (.fmin .s 1 2 3) 0x80000000 0 0, res (.fmax .s 1 2 3) 0x7FC00001 0x40000000 0, res (.fmin .h 1 2 3) 0x7C01 0x3C00 0,
      res (.fcmp .eq .d 1 2 3) 0x8000000000000000 0 0, res (.fcmp .lt .d 1 2 3) 0x8000000000000000 0 0,
      res (.fcmp .le .b 1 2 3) 0x3F80 0x3F80 0, res (.fcmp .un .h 1 2 3) 0x7E00 0 0,
      res (.fcvt .out .s .rne 1 2 .int32) 0x40200000 0 0, res (.fcvt .out .s .rdn 1 2 .int8) 0xBFC00000 0 0,
      res (.fcvt .out .d .rne 1 2 .int32) 0x41F0000000000000 0 0, res (.fcvt .into .s .rne 1 2 .int16) 0xFFFF 0 0,
      res (.fcvt .into .s .rne 1 2 .bf16) 0x3F80 0 0, res (.fcvt .out .s .rne 1 2 .fp16) 0x7F7FFFFF 0 0,
      res (.fclass .h 1 2) 0x7C00 0 0, res (.fclass .s 1 2) 0x7F800001 0 0, res (.fclass .b 1 2) 0x8001 0 0,
      res (.fsgn .copy .s 1 2 3) 0x3F800000 0x80000000 0, res (.fsgn .neg .h 1 2 3) 0x3C00 0x3C00 0,
      res (.fsgn .xor .s 1 2 3) 0xBF800000 0x80000000 0] =
    [some 0x80000000, some 0x40000000, some 0x7E01, some 1, some 0, some 1, some 1, some 2, some (-2), some 0x7FFFFFFF,
      some 0xBF800000, some 0x3F800000, some 0x7BFF, some 0x80, some 0x100, some 4, some 0xBF800000, some 0xBC00,
      some 0x3F800000] := by decide +kernel

theorem witness_FloatResults :
    (world (thr 1 5 7 0)).running ∧ (world (thr 1 5 7 0)).checkDest 1 = .ok () ∧
    Reads2 (world (thr 1 5 7 0)) 2 3 5 7 (world (thr 1 5 7 0)) ∧ Reads1 (world (thr 1 5 7 0)) 2 5 (world (thr 1 5 7 0)) ∧
    (world (thr 1 5 7 0)).checkPoison [1, 2, 3] = .ok () ∧ (world (thr 1 5 7 0)).readG 1 = .ok (1, world (thr 1 5 7 0)) ∧
    (world (thr 1 5 7 0)).readG 2 = .ok (5, world (thr 1 5 7 0)) ∧ (world (thr 1 5 7 0)).readG 3 = .ok (7, world (thr 1 5 7 0)) :=
  ⟨rfl, rfl, rfl, ⟨rfl, rfl⟩, rfl, rfl, rfl, rfl⟩

theorem test_predicates :
    nextIs (exec (.pcnt 3 2) (world (thr 0 300 0 0))) (fun t => vget t.me.q 3 (.val 0) == .val 128) = true ∧
    nextIs (exec (.pmin 3 0 2) (world { thr 0 300 0 0 with tile := some 0 })) (fun t => vget t.me.q 3 (.val 0) == .val 32) = true ∧
    nextIs (exec (.pmov 4 0) (world { thr 0 300 0 0 with tile := some 0 })) (fun t => vget t.me.q 4 (.val 0) == .val 32) = true ∧
    nextIs (exec (.pread 1 0) (world { thr 0 300 0 0 with tile := some 7 })) (fun t => vget t.me.g 1 (.val 0) == .val 32) = true := by
  decide +kernel

theorem witness_PredicateResults :
    (world (thr 0 5 7 0)).running ∧ Reads1 (world (thr 0 5 7 0)) 3 7 (world (thr 0 5 7 0)) ∧
    (world (thr 0 5 7 0)).checkDestQ 3 = .ok () ∧ (world (thr 0 5 7 0)).readQ 2 = .ok 0 ∧
    (world (thr 0 5 7 0)).checkDest 1 = .ok () := ⟨rfl, ⟨rfl, rfl⟩, rfl, rfl, rfl⟩

/-- The pc after an instruction at 0x100 (09 R109). -/
def goes (i : Instr) (a b c : Word) : Option Word :=
  match exec i (world (thr 0x11 a b c)) with
  | .next t => if t.issue.last = .done then some t.me.pc else none
  | _ => none

theorem test_control_transfer :
    [goes (.beq 2 3 (-2)) 5 5 0, goes (.beq 2 3 (-2)) 5 6 0, goes (.bne 2 3 4) 5 6 0, goes (.blt 2 3 4) (-1) 0 0,
      goes (.bge 2 3 4) (-1) 0 0, goes (.bltu 2 3 4) (-1) 0 0, goes (.bgeu 2 3 4) (-1) 0 0, goes (.loop 2 (-3)) 1 0 0,
      goes (.loop 2 (-3)) 2 0 0, goes (.loop 2 (-3)) 0 0 0, goes (.call 1 16) 0 0 0, goes (.callr 1 2) 0x80 0 0,
      goes (.jmpr 2) 0x84 0 0, goes .ret 0 0 0, goes (.jmpr 2) 0x86 0 0] =
    [some 0xF8, some 0x104, some 0x110, some 0x110, some 0x104, some 0x104, some 0x110, some 0x104, some 0xF4, some 0xF4,
      some 0x140, some 0x80, some 0x84, none, none] ∧
    [res (.call 1 16) 0 0 0, res (.callr 1 2) 0x80 0 0] = [some 0x104, some 0x104] ∧
    nextIs (exec .ret (world (thr 0x200 0 0 0))) (fun t => t.me.pc == 0x200) = true ∧
    nextIs (exec (.jmpr 2) (world (thr 0 0x86 0 0))) (fun t => decide (t.me.ecause = 2 ∧ t.me.eaddr = 0x86 ∧ t.me.epc = 0x100 ∧
      t.me.pc = 0x400)) = true := by decide +kernel

theorem witness_ControlTransfers :
    (world (thr 0x200 1 7 0)).running ∧ Reads2 (world (thr 0x200 1 7 0)) 2 3 1 7 (world (thr 0x200 1 7 0)) ∧
    Reads1 (world (thr 0x200 1 7 0)) 2 1 (world (thr 0x200 1 7 0)) ∧ (world (thr 0x200 1 7 0)).checkDest 2 = .ok () ∧
    Reads1 (world (thr 0x200 1 7 0)) 1 0x200 (world (thr 0x200 1 7 0)) ∧ (0x200 : Word).toNat % 4 = 0 ∧
    (0x202 : Word).toNat % 4 ≠ 0 ∧ Reads1 (world (thr 0x202 1 7 0)) 1 0x202 (world (thr 0x202 1 7 0)) ∧
    (superv { thr 0 0 0 0 with epc := 0x202 }).running ∧
    (world { thr 0 0 0 0 with epc := 0x202, status := 1 }).src.sup = true ∧
    (world { thr 0 0 0 0 with epc := 0x202, status := 1 }).src.epc = 0x202 :=
  ⟨rfl, rfl, ⟨rfl, rfl⟩, rfl, ⟨rfl, rfl⟩, by decide, by decide, ⟨rfl, rfl⟩, rfl, by decide +kernel, rfl⟩

/-- A quiet and a signalling NaN, a finite value, the largest of a format, and formats with and without infinities (07 Table 7.1). -/
theorem witness_FloatOtherResults :
    (FpShape.fp32.read 0x7FC00005).isNan = true ∧ (FpShape.fp32.read 0x7FC00005).isSignalling = false ∧
    (FpShape.fp32.read 0x7F800001).isSignalling = true ∧ (FpShape.fp32.read 0x3F800000).isNan = false ∧
    FpShape.fp8e4.hasInf = false ∧ FpShape.fp8e4.hasNan = true ∧ FpShape.fp4.hasNan = false ∧ FpShape.fp16.hasInf = true ∧
    FpShape.fp16.mag FpShape.fp16.maxFinite = 65504 ∧ FpShape.fp4.mag FpShape.fp4.maxFinite = 6 := by decide +kernel

/-- FMIN, FMAX and the columns of Table 7.6, by hand: -0 is below +0; a value beyond the largest; an infinity into FP8 E4M3. -/
theorem test_min_max_convert :
    [FpShape.fp32.minMax false 0 0x80000000, FpShape.fp32.minMax true 0x80000000 0, FpShape.fp32.minMax true 0x7FC00005 0x3F800000] =
      [(0x80000000, []), (0, []), (0x3F800000, [])] ∧
    [FpShape.fp16.convert .rne .sat 0 (.fin false 65505 0), FpShape.fp16.convert .rtz .wrap 0 (.fin true 65505 0),
      FpShape.fp8e4.convert .rne .sat 0 (.inf true), FpShape.fp8e5.convert .rne .sat 0 (.inf true)] =
      [(0x7BFF, [evCvtsat, evOverflow, evInexact]), (0xFC00, [evOverflow, evInexact]), (0xFE, [evCvtsat]), (0xFC, [])] ∧
    [convertToInt 8 .rne .sat 0 (.fin true 257 (-1)), convertToInt 8 .rne .wrap 0 (.fin false 129 0)] = [(0x80, [evInexact]), (0x81, [evIsat])] := by
  decide +kernel

theorem witness_ScalarWordsFrame : (world (thr 0 5 7 0)).running ∧
    nextIs (exec (.add .d .wrap 1 2 3) (world (thr 0 5 7 0))) (fun t => t.issue.last == .done) = true ∧
    nextIs (exec (.pcnt 3 2) (world (thr 0 5 7 0))) (fun t => t.issue.last == .done) = true ∧
    (∀ k < 8, (world (thr 0 5 7 0)).me.chan? k = none ∧ (world (thr 0 5 7 0)).src.chan? k = none) ∧
    nextIs (exec (.add .d .wrap 26 25 4) odd) (fun t => t.issue.last == .done && t.flights.length == 1 &&
      (t.me.chan? 1).map (·.b) == some 0 && t.me.chan? 3 == odd.me.chan? 3) = true ∧
    (∀ k, k ≥ 8 → (world (thr 0 5 7 0)).me.chan? k = none) := by
  refine ⟨rfl, by decide +kernel, by decide +kernel, by decide +kernel, by decide +kernel, ?_⟩
  intro k hk
  unfold Thread.chan? vget
  rw [dif_neg (by omega)]

/-- Exact values, whole and with a tail cut off; the neighbours of 1 in binary32 and the largest subnormal of FP8 E5M2 (07 Table 7.1). -/
theorem witness_FloatRoundings :
    FpShape.fp32 ∈ fpShapes ∧ (0 : Rat) < 1 ∧ Exact.holds ⟨false, 1, 0, false⟩ .fp32 1 ∧
    Exact.holds ⟨false, 2 ^ 62, 0, true⟩ .fp32 (2 ^ 62 + 1 / 2) ∧ Exact.holds ⟨true, 3, -1, false⟩ .fp4 (3 / 2) ∧
    FpShape.fp32.mag 0x3F800000 = 1 ∧ FpShape.fp32.mag 0x3F800001 = 1 + 1 / 2 ^ 23 ∧ FpShape.fp8e5.mag 3 = 3 / 2 ^ 16 ∧
    signedValue true 3 (-1) = -3 / 2 := by
  refine ⟨by decide, by decide +kernel, ?_, ?_, ?_, by decide +kernel, by decide +kernel, by decide +kernel, by decide +kernel⟩ <;>
    (unfold Exact.holds; decide +kernel)

/-! ### Witnesses and values: traps, control registers, waiting -/

/-- A queue whose table entry sets its debugger bit. -/
def dbgQueue : LQueue :=
  ⟨[0, 2 ^ 24, 0, 0, 0, 0, 0, 0], 0, 0, 0, none, false, [], [0, 0, 0], [], [], 0, true, [], [], false, []⟩

/-- The context's unit belongs to a queue with a debugger. -/
def debugged : State := { world (thr 0 0 0 0) with
  units := [(1, ⟨some 0, none, none, 0, 0, [p0], 1, 0, 0, 0, .running, none, none, false, none⟩)]
  queues := [(0, dbgQueue)] }

theorem witness_TrapEntry :
    ((world (thr 1 2 3 4)).thread? p0 = some (thr 1 2 3 4) ∧ (thr 1 2 3 4).tvec ≠ 0 ∧
      (wbit (thr 1 2 3 4).status stMode = true → wbit (thr 1 2 3 4).status stIe = true)) ∧
    ((superv (thr 1 2 3 4)).work 1 = (world (thr 0 0 0 0)).work 1) ∧
    (debugged.thread? p0 = some (thr 0 0 0 0) ∧ (debugged.work 1).map (·.st) = some .running ∧
      debugged.debugAttached p0 (thr 0 0 0 0) = true ∧
      ((debugged.takeTrap p0 0x0F 0 0x100 0 5).thread? p0).map (·.halted) = some true) ∧
    (((debugged.takeTrap p0 0x09 0 0x100 0 3).work 1).map (·.st) = some .moving) ∧
    (wbit (at0 (superv (thr 1 2 3 4))).status stMode = true ∧ wbit (at0 (superv (thr 1 2 3 4))).status stIe = false ∧
      (((superv (thr 1 2 3 4)).takeTrap p0 0x10 0 0x100 0 5).work 1).map (·.st) = some .dead) := by
  and_intros <;> first | decide +kernel | rfl

/-- A trap from user mode with IE = 1: MODE 1, IE 0, PMODE 0, PIE 1 (09 Table 9.12, 23 R312). -/
theorem test_trap_status : nextIs (exec (.trap 0x21) (world { thr 0 0 0 0 with status := 0x8 })) (fun t =>
    decide (t.me.status = 0x11 ∧ t.me.epc = 0x104 ∧ t.me.ecause = 0x10 ∧ t.me.eaddr = 0x100 ∧ t.me.einfo = 0x21 ∧
      t.me.pc = 0x400)) = true := by decide +kernel

/-- ERET undoes it. -/
theorem test_eret : nextIs (exec .eret (world { thr 0 0 0 0 with status := 0x11, epc := 0x104 })) (fun t =>
    decide (t.me.status = 0x18 ∧ t.me.pc = 0x104)) = true := by decide +kernel

def p15 : Party := ⟨0, 0, 15⟩

/-- A context in slot 15 with events as STATUS says, and two messages at its core. -/
def evented (status : Word) : State :=
  let t : Thread := { thr 0 0 0 0 with status := status, memEvent := (0x77, 5) }
  let s : State := { world t with threads := [(15, t)] }
  s.setCore p15 { s.core p15 with msgs := [(3, 0xAB), (4, 0xCD)] }

def at15 (s : State) : Thread := s.thread p15

theorem witness_EventsTakenInOrder :
    ((evented 0x50708).ready p15 = true ∧ (at15 (evented 0x50708)).owed = [] ∧ (at15 (evented 0x50708)).firstTrap = none ∧
      (at15 (evented 0x50708)).tvec ≠ 0 ∧ (evented 0x50708).pendingEvent p15 = some 0x14) ∧
    (evented 0x10708).pendingEvent p15 = some 0x12 ∧ (evented 0x10508).pendingEvent p15 = some 0x11 ∧
    (evented 0x50700).pendingEvent p15 = none ∧
    ((evented 0x10708).core p15).msgs = (3, 0xAB) :: [(4, 0xCD)] := by
  and_intros <;> first | decide +kernel | rfl

theorem test_events :
    nextIs (exec (.asyncEventTrap p15) (evented 0x50708)) (fun t => decide ((at15 t).ecause = 0x14 ∧ (at15 t).eaddr = 0x77 ∧
      (at15 t).einfo = 5 ∧ (at15 t).status = 0x10711)) = true ∧
    nextIs (exec (.asyncEventTrap p15) (evented 0x10708)) (fun t => decide ((at15 t).ecause = 0x12 ∧ (at15 t).eaddr = 3 ∧
      (at15 t).einfo = 0xAB ∧ (t.core p15).msgs = [(4, 0xCD)])) = true ∧
    nextIs (exec (.asyncEventTrap p15) (evented 0x10508)) (fun t => decide ((at15 t).ecause = 0x11 ∧ (at15 t).status = 0x511)) = true := by
  decide +kernel

theorem witness_SoftwareTrapsAndReturn :
    (world (thr 0 0 0 0)).running ∧
    (let t : Thread := { thr 0 0 0 0 with status := 0x13, epc := 0x200, ecause := 0x110 }
     (world t).thread? (world t).cur = some t ∧ (world t).issue.pre = none ∧ wbit t.status stMode = true ∧
       t.epc.toNat % 4 = 0 ∧ t.ecause.toNat % 256 ≠ 7 ∧ t.ecause.toNat % 256 ≠ 10) ∧
    wbit (thr 0 0 0 0).status stMode = false := by
  and_intros <;> first | decide +kernel | rfl

theorem witness_ControlRegisters :
    (world (thr 0 5 0 0)).running ∧ CReg.supRead .tvec = true ∧ (superv (thr 0 5 0 0)).src.sup = true ∧
    (world (thr 0 5 0 0)).checkDest 1 = .ok () ∧ CReg.supRead .slotid = false ∧ Party.ok (world (thr 0 5 0 0)).cur = true ∧
    (superv (thr 0 5 0 0)).running ∧ CReg.readOnly .tvec = false ∧ CReg.userWrite .tvec = false ∧
    Reads1 (superv (thr 0 5 0 0)) 2 5 (superv (thr 0 5 0 0)) ∧ CReg.userWrite .seed = true ∧ CReg.userWrite .tcmp = true :=
  by and_intros <;> first | decide +kernel | rfl

/-- Of the two revisions, 5 is live and the context's domain's, and 6 is not live. -/
def revised : State := { superv (thr 0 5 6 0) with
  revs := [(5, ⟨0, 0, 1, 1, 1, false, true, false, 0, [], [], none⟩), (6, ⟨0, 0, 1, 1, 2, false, false, false, 0, [], [], none⟩)] }

theorem witness_ControlRegisters_shared :
    Reads1 revised 2 5 revised ∧ (tget revised.revs 5).map (fun r => (r.live, r.dom)) = some (true, revised.me.dom) ∧
    (tget revised.revs 6).map (·.live) = some false ∧
    (debugged.queueOfThread debugged.cur debugged.me = some 0 ∧ (debugged.queue 0).isSome = true) := by
  and_intros <;> first | decide +kernel | rfl

/-- SLOTTAB with every entry 0b11 is held as entry 31 = 0b01 and the others 0; MWEIGHT 0 is 1 (03 R42; 11 R152; 21 R306; 23 R321). -/
theorem test_mtc_shared :
    nextIs (exec (.mtc .slottab 2) (superv (thr 0 (-1) 0 0))) (fun t => (t.core p0).slottabNext == some 0x4000000000000000) = true ∧
    nextIs (exec (.mtc .slottab 2) (superv (thr 0 0x1B 0 0))) (fun t => (t.core p0).slottabNext == some 0x18) = true ∧
    nextIs (exec (.mtc .mweight 2) (superv (thr 0 0x20 0 0))) (fun t => t.readCReg .mweight == 1) = true ∧
    nextIs (exec (.mtc .wdog 2) { debugged with threads := [(0, { thr 0 77 0 0 with status := 1 })] }) (fun t =>
      (t.queue 0).map (·.wdog) == some 77 && t.readCReg .wdog == 77) = true ∧
    nextIs (exec (.mtc .rev 2) revised) (fun t => t.readCReg .rev == 5) = true ∧
    nextIs (exec (.mtc .rev 3) revised) (fun t => t.readCReg .rev == 0) = true := by decide +kernel

/-- The place of slot 3 of core 0x85 of d5 (09 Table 9.11), and FEAT. -/
theorem test_slotid :
    nextIs (exec (.mfc 1 .slotid) ((world (thr 0 0 0 0)).setThread ⟨5, 0x85, 3⟩ (thr 0 0 0 0)  |> fun s => { s with cur := ⟨5, 0x85, 3⟩ }))
      (fun t => decide ((vget t.me.g 1 (.val 0)) = .val (BitVec.ofNat 64 (3 + 16 * 0x85 + 4096 * 5 +
        65536 * Config.clusterOf 0x85 + 2097152 * Config.posOf 0x85)))) = true ∧
    res (.mfc 1 .feat) 0 0 0 = some 7 := by decide +kernel

theorem test_mtc :
    nextIs (exec (.mtc .seed 2) (world (thr 0 0 0 0))) (fun t => t.me.seed == 1) = true ∧
    nextIs (exec (.mtc .tcmp 2) (world { thr 0 9 0 0 with status := 0x10000 })) (fun t => t.me.tcmp == 9 && t.me.status == 0) = true ∧
    nextIs (exec (.mtc (.ev 3) 2) (superv (thr 0 (-1) 0 0))) (fun t => vget (t.core t.cur).ev 3 0 == 0xFFFFFFFF) = true ∧
    nextIs (exec (.mtc .tvec 2) (world (thr 0 9 0 0))) (fun t => t.me.ecause == 3 && t.me.tvec == 0x400) = true := by
  decide +kernel

theorem witness_PrivilegeTraps : (world (thr 0 0 0 0)).running ∧ (world (thr 0 0 0 0)).src.sup = false ∧
    CReg.supRead .tvec = true ∧ CReg.userWrite .epc = false ∧ CReg.readOnly .epc = false ∧ CReg.readOnly .timer = true :=
  ⟨rfl, rfl, rfl, rfl, rfl, rfl⟩

/-- A read-only register: cause 0x01 with the word's address and the word, in either mode (09 R112). -/
theorem test_mtc_read_only : [world (thr 0 5 0 0), world { thr 0 5 0 0 with status := 0x9 }].map (fun s => nextIs (exec (.mtc .timer 2) s) (fun t =>
    decide (t.me.ecause = 1 ∧ t.me.eaddr = 0x100 ∧ t.me.einfo = s.issue.word.zeroExtend 64))) = [true, true] := by decide +kernel

theorem witness_UserModeKeepsPrivilege : ∃ t : State, (Instr.mtc .status 2).fields.isSome = true ∧
    exec (.add .d .wrap 1 2 3) (world (thr 0 5 7 0)) = .next t ∧ t.issue.last ≠ .trapped ∧
    (world (thr 0 5 7 0)).issue.pre = none ∧ (world (thr 0 5 7 0)).thread? p0 = some (thr 0 5 7 0) ∧
    (thr 0 5 7 0).sup = false ∧ t.thread? p0 = some t.me := by
  refine ⟨_, rfl, rfl, ?_, rfl, ?_, ?_, ?_⟩ <;> decide +kernel

/-- A slot that sleeps until cycle 10, and one whose compare value has come. -/
def sleeper (clock : Nat) (status : Word) : State :=
  { world { thr 0 0 0 0 with park := some ⟨.sleep 10 1, true, 0, false⟩, status := status, tcmp := 9 } with
    dies := [(0, { DieSt.reset with started := true, clock := clock })] }

theorem witness_WaitingAndTimers :
    Reads1 (world { thr 0 1 0 0 with status := 0x10000 }) 2 1 (world { thr 0 1 0 0 with status := 0x10000 }) ∧
    (world { thr 0 1 0 0 with status := 0x10000 }).wfePending p0 1 = true ∧
    (world (thr 0 1 0 0)).wfePending p0 1 = false ∧ (world (thr 0 1 0 0)).checkAsync 1 = .ok () ∧
    (world (thr 0 1 0 0)).src.oldestPoison = none ∧
    ((at0 (world { thr 0 0 0 0 with tcmp := 9 })).tcmp ≠ 0 ∧
      (9 : Word).toNat ≤ ({ world { thr 0 0 0 0 with tcmp := 9 } with
        dies := [(0, { DieSt.reset with clock := 9 })] } : State).clock 0 % 2 ^ 64) ∧
    ((at0 (sleeper 10 0)).park = some ⟨.sleep 10 1, true, 0, false⟩ ∧ tget (sleeper 10 0).rest (Party.key p0) = none ∧
      10 ≤ (sleeper 10 0).clock 0) ∧
    ((sleeper 4 0x10108).pendingEvent p0).isSome = true := by
  and_intros <;> first | decide +kernel | rfl

theorem test_waiting :
    nextIs (exec (.sleepWake p0) (sleeper 10 0)) (fun t => decide (t.me.park = none ∧ vget t.me.g 1 (.val 7) = .val 0 ∧
      t.me.pc = 0x104)) = true ∧
    nextIs (exec (.sleepWake p0) (sleeper 4 0x10108)) (fun t => vget t.me.g 1 (.val 7) == .val 6) = true ∧
    nextIs (exec (.timerCompare p0) ({ sleeper 9 0 with threads := [(0, { thr 0 0 0 0 with tcmp := 9 })] })) (fun t =>
      decide (t.me.status = 0x10000 ∧ t.me.tcmp = 0)) = true ∧
    nextIs (exec (.sleep 1 2) (world (thr 5 9 0 0))) (fun t => decide (t.issue.last = .parked)) = true ∧
    nextIs (exec .quit (world (thr 5 9 0 0))) (fun t => (tgetD t.threads 0 Thread.blank).quitting && !t.ready p0) = true := by
  decide +kernel

/-- An ending thread with the children and the accesses given; its core's queue is empty, or holds a held command of it. -/
def ending (revs : List (Nat × Rev)) (uses : Word) (fl : List Flight) : State :=
  { world { thr 0 0 0 0 with quitting := true } with
    revs := revs
    flights := fl
    threads := [(0, { thr 0 0 0 0 with quitting := true }), (1, { thr 0 0 0 0 with ctx := 2, rev := uses })] }

/-- A child that the thread holds, and an access whose part is to be performed yet. -/
def child : Rev := ⟨0, 0, 1, 1, 1, true, true, false, 0, [], [], none⟩

def owedStore : Flight := ⟨3, p0, 1, .store, [mkPart 0x5000 (.va 0x5000) 8 1], .rlx, .slot, 0, 0, false, 0x100, false⟩

theorem witness_WaitingAndTimers_quit :
    (ending [] 0 []).childrenOf 1 = [] ∧ ((ending [] 0 []).core p0).mq = [] ∧ ((ending [] 0 []).thread? p0).map (·.quitting) = some true ∧
    owedStore.unacked = true ∧ owedStore.ctx = 1 ∧ (ending [(5, child)] 0 []).childrenOf 1 = [(5, child)] ∧ child.parent ≠ 5 ∧
    tget (ending [(5, child)] 0 []).revs 5 = some child ∧ (ending [(5, child)] 0 []).uses 5 = 0 ∧ (ending [(5, child)] 5 []).uses 5 ≠ 0 := by
  and_intros <;> decide +kernel

/-- Steps 3 to 5 of 09 R123: an idle child is joined, a used one waited for, a store waited for; else the slot is free. -/
theorem test_settle_quit :
    (((ending [] 0 []).settleQuit p0).thread? p0).isNone = true ∧
    (((ending [] 0 [owedStore]).settleQuit p0).thread? p0).isSome = true ∧
    (let u := (ending [(5, child)] 0 []).settleQuit p0
     (u.thread? p0).isSome && (tget u.revs 5).any (fun r => !r.hold && !r.live && r.joining.isSome) && u.flights.length == 1) = true ∧
    tget ((ending [(5, child)] 5 []).settleQuit p0).revs 5 = some child := by
  and_intros <;> decide +kernel

/-! ### Witnesses and values: memory -/

/-- g2 points into mapped memory, g3 is an index. -/
def mm : State := mapped (world (thr 0x99 0x5000 2 0x1122334455667788))

theorem witness_LoadsIssue : ∃ (l : Loc) (s2 : State), mm.running ∧
    mm.checkAccess 0x5000 8 8 needR = .ok (l, s2) ∧ s2.checkWeir 0x5000 l 8 false = .ok () ∧ s2.checkAsync 1 = .ok () ∧
    Reads1 mm 2 0x5000 mm ∧ 0x5000 = ((0x5000 : Word) + (0 : BitVec 9).signExtend 64 * w64 8).toNat :=
  ⟨_, _, rfl, rfl, rfl, rfl, ⟨rfl, rfl⟩, by decide⟩

theorem witness_LoadsIssue_indexed : ∃ (l : Loc) (s2 : State),
    mm.checkAccess 0x5010 8 8 needR = .ok (l, s2) ∧ s2.checkWeir 0x5010 l 8 false = .ok () ∧ s2.checkAsync 1 = .ok () ∧
    Reads2 mm 2 3 0x5000 2 mm ∧ 0x5010 = ((0x5000 : Word) + 2 * w64 8).toNat :=
  ⟨_, _, rfl, rfl, rfl, rfl, by decide⟩

theorem witness_StoresIssue : ∃ (l : Loc) (s2 : State), mm.running ∧ mm.checkRelease = .ok () ∧
    mm.checkAccess 0x4FF8 8 8 needW = .ok (l, s2) ∧ s2.checkWeir 0x4FF8 l 8 true = .ok () ∧
    Reads2 mm 4 2 0x1122334455667788 0x5000 mm ∧
    0x4FF8 = ((0x5000 : Word) + (-1 : BitVec 9).signExtend 64 * w64 8).toNat ∧
    mm.checkPoison [4, 2, 3] = .ok () ∧ mm.readG 4 = .ok (0x1122334455667788, mm) :=
  ⟨_, _, rfl, rfl, rfl, rfl, rfl, by decide, rfl, rfl⟩

/-- LD.b of 0x88 gives its sign, LD.bu not; LD.h at 0x5002 of little-endian bytes (15 R218; 00 R3). -/
theorem test_loads :
    let s : State := mm.writePa 0x5000 8 0x1122334455667788
    [.b, .bu, .h, .hu, .w, .wu, .d].map (fun z => (after2 (.ld z .rlx .slot 1 2 0) (.loadReply 7 0) s).map
        (fun t => vget t.me.g 1 (.val 0))) =
      [.val (-0x78), .val 0x88, .val 0x7788, .val 0x7788, .val 0x55667788, .val 0x55667788, .val 0x1122334455667788].map some ∧
    (after2 (.ldIndexed .h .rlx .slot 1 2 3) (.loadReply 7 0) s).map (fun t => vget t.me.g 1 (.val 0)) = some (.val 0x3344) := by
  decide +kernel

/-- ST.h stores the low two bytes, and no other byte changes. -/
theorem test_stores :
    (after2 (.st .h .rlx .slot 4 2 (-1)) (.storePerformed 7 0) mm).map (fun t => t.mem) =
      some (Memory.writeN mm.mem 0x4FFE 0x7788 2) ∧
    (after2 (.stIndexed .d .rlx .slot 4 2 3) (.storePerformed 7 0) mm).map (fun t => t.mem) =
      some (Memory.writeN mm.mem 0x5010 0x1122334455667788 8) := by decide +kernel

/-- Addresses: a set reserved bit, misaligned, the low part of the home polder, a window that is not there, a region without
rights. -/
def noRights (s : State) : State :=
  s.setCore p0 { s.core p0 with plb := [⟨0, 0, 0xFFFF, false, false, true, false⟩] }

theorem witness_AccessesTrap :
    (world (thr 0 0x5000 2 4)).running ∧
    (Reads1 (world (thr 0 (2 ^ 63 + 2 ^ 22) 2 4)) 2 (2 ^ 63 + 2 ^ 22) (world (thr 0 (2 ^ 63 + 2 ^ 22) 2 4)) ∧
      (2 ^ 63 + 2 ^ 22 : Word).toNat / 2 ^ 22 % 2 ^ 41 ≠ 0) ∧
    ((2 ^ 56 : Word).toNat / 2 ^ 56 ≠ 0 ∧ (0x5001 : Word).toNat % 2 ≠ 0) ∧
    (tget ((world (thr 0 0x8000000000010000 2 4)).core p0).windows 1 = none) ∧
    ((noRights mm).core p0).plbFind 0 0x5000 = some ⟨0, 0, 0xFFFF, false, false, true, false⟩ ∧
    Reads2 (world (thr 0 0x5000 2 4)) 4 2 4 0x5000 (world (thr 0 0x5000 2 4)) := by
  and_intros <;> first | decide +kernel | rfl

theorem test_accesses_trap :
    [res (.ld .d .rlx .slot 1 2 0) 0x5001 0 0] = [none] ∧
    nextIs (exec (.ld .h .rlx .slot 1 2 0) (world (thr 0 0x5001 0 0))) (fun t => decide (t.me.ecause = 6 ∧ t.me.einfo = 0x14 ∧
      t.me.eaddr = 0x5001)) = true ∧
    nextIs (exec (.ld .d .rlx .slot 1 2 0) (world (thr 0 (2 ^ 56) 0 0))) (fun t => decide (t.me.ecause = 6 ∧ t.me.einfo = 0x16)) = true ∧
    nextIs (exec (.st .d .rlx .slot 1 2 0) (world (thr 0 0x8000000000003FF8 0 0))) (fun t => decide (t.me.ecause = 6 ∧
      t.me.einfo = 0x22)) = true ∧
    nextIs (exec (.st .d .rlx .slot 1 2 0) (world (thr 0 0x8000000000004000 0 0))) (fun t => t.issue.last == .done) = true ∧
    nextIs (exec (.ld .d .rlx .slot 1 2 0) (world (thr 0 0x8000000000050000 0 0))) (fun t => decide (t.me.ecause = 4 ∧
      t.me.einfo = 5)) = true ∧
    nextIs (exec (.ld .d .rlx .slot 1 2 0) (noRights mm)) (fun t => decide (t.me.ecause = 6 ∧ t.me.einfo = 0x12)) = true := by
  decide +kernel

/-- An operation on its way for the context in slot 0, with one part. -/
def flightOf (k : FlightKind) (l : Loc) (a n data : Nat) : Flight :=
  ⟨7, p0, 1, k, [mkPart a l n data], .rlx, .slot, 0, 0, false, 0x100, false⟩

/-- g1 waits for operation 7. -/
def waiting (f : Flight) : State :=
  mapped { world { thr 0 0 0 0 with g := (thr 0 0 0 0).g.set 1 (.empty 7) } with flights := [f], nextOp := 8 }

/-- A page without a translation: nothing above 64 GiB is mapped. -/
def farLoad : Flight := flightOf (.load (.g 1 true)) (.va 0x2000000000) 0x2000000000 8 0

theorem witness_LoadsArrive : ∃ (r1 r2 r3 : Except Nat Nat) (s1 s2 s3 : State),
    (let f := flightOf (.load (.g 1 true)) (.sram 0x5000) 0x5000 2 0
     (waiting f).flight? 7 = some f ∧ (waiting f).mayPerform f 0 = true ∧ (waiting f).latchBefore f = some (waiting f) ∧
       (waiting f).takePart f (mkPart 0x5000 (.sram 0x5000) 2 0) = (r1, s1) ∧ 7 ∉ (waiting f).latched ∧
       poisonIn (waiting f).sramPoison 0x5000 2 = false ∧ (waiting f).pendingStores f = [] ∧ s1.me.g[(1 : Reg)] = .empty 7) ∧
    (let f := flightOf (.load (.g 1 true)) (.va 0x5000) 0x5000 2 0
     (waiting f).mayPerform f 0 = true ∧ (waiting f).takePart f (mkPart 0x5000 (.va 0x5000) 2 0) = (r2, s2) ∧ r2 = .ok 0) ∧
    ((waiting farLoad).mayPerform farLoad 0 = true ∧
      (waiting farLoad).takePart farLoad (mkPart 0x2000000000 (.va 0x2000000000) 8 0) = (r3, s3) ∧
      s3.me.g[(1 : Reg)] = .empty 7 ∧ ∃ k, r3 = .error k) :=
  ⟨_, _, _, _, _, _, ⟨rfl, rfl, rfl, rfl, by decide, rfl, rfl, rfl⟩, ⟨rfl, rfl, rfl⟩, rfl, rfl, rfl, _, rfl⟩

/-- The load's thread is ending: what arrives is discarded (09 R123). -/
def endingLoad : State :=
  let f := flightOf (.load (.g 1 true)) (.sram 0x5000) 0x5000 2 0
  { waiting f with threads := [(0, { (waiting f).me with quitting := true })] }

theorem witness_LoadsArrive_discarded : ∃ (r : Except Nat Nat) (s1 : State),
    let f := flightOf (.load (.g 1 true)) (.sram 0x5000) 0x5000 2 0
    endingLoad.flight? 7 = some f ∧ endingLoad.mayPerform f 0 = true ∧ endingLoad.latchBefore f = some endingLoad ∧
      endingLoad.takePart f (mkPart 0x5000 (.sram 0x5000) 2 0) = (r, s1) ∧ s1.me.ctx = 1 ∧ s1.me.g[(1 : Reg)] = .empty 7 ∧
      s1.discards f = true := ⟨_, _, rfl, rfl, rfl, rfl, rfl, rfl, rfl⟩

theorem test_load_discarded : nextIs (exec (.loadReply 7 0) endingLoad) (fun t =>
    vget (tgetD t.threads 0 Thread.blank).g 1 (.val 0) == .empty 7 || (t.thread? p0).isNone) = true := by decide +kernel

/-- An acquire at cluster scope, and a later load of its thread, which may go ahead of it. -/
def acquiring : State :=
  let e := { flightOf (.load (.g 1 true)) (.va 0x5000) 0x5000 8 0 with ord := .acq, scope := .clu }
  let f := { flightOf (.load (.g 2 true)) (.va 0x6000) 0x6000 8 0 with id := 8 }
  let s : State := waiting e
  let s : State := s.setMe { s.me with g := s.me.g.set 2 (.empty 8) }
  ({ s with flights := [e, f], nextOp := 9 }).writePa 0x5000 8 0x11

theorem witness_LoadsArrive_ahead : (acquiring.flight? 8).any (fun f => acquiring.mayPerform f 0 &&
    acquiring.flights.any (fun e => orderBefore e f && e.narrow) &&
    (acquiring.latchBefore f).any (fun s0 => s0.latched == [7] && !s0.latched.contains f.id)) = true := by decide +kernel

/-- The acquire has taken its value; a store of another cluster is returned all the same, one of its own cluster is not
(17 Table 17.2; log 111). -/
theorem test_acquire_latched :
    let store (p : Party) : Flight := { flightOf .store (.va 0x5000) 0x5000 8 0x22 with id := 9, party := p, ctx := 5 }
    [⟨0, 0, 1⟩, ⟨0, 200, 0⟩].map (fun p => (runs [.loadReply 8 0] acquiring).bind (fun s =>
      (runs [.storePerformed 9 0, .loadReply 7 0] { s with flights := s.flights ++ [store p], nextOp := 10 }).map (fun t =>
        (vget t.me.g 1 (.val 0), vget t.me.g 2 (.val 9))))) = [some (.val 0x11, .val 0), some (.val 0x22, .val 0)] := by decide +kernel

/-- A release at cluster scope goes ahead of a store at package scope; a core of the cluster reads it only once that store is performed,
one of another cluster does (17 Table 17.2, MP with short scopes). -/
theorem test_release_short :
    let a : Flight := flightOf .store (.va 0x5000) 0x5000 8 0x11
    let b : Flight := { flightOf .store (.va 0x6000) 0x6000 8 0x22 with id := 8, ord := .rel, scope := .clu }
    let ld (p : Party) : Flight := { flightOf (.load (.g 1 true)) (.va 0x6000) 0x6000 8 0 with id := 9, party := p, ctx := 5 }
    let s : State := { waiting a with flights := [a, b], nextOp := 10 }
    s.mayPerform b 0 = true ∧
    [⟨0, 200, 0⟩, ⟨0, Config.coreAt 0 1, 0⟩].map (fun p => nextIs (exec (.storePerformed 8 0) s) (fun t =>
      ({ t with flights := t.flights ++ [ld p] }).mayPerform (ld p) 0)) = [true, false] := by
  and_intros <;> decide +kernel

/-- A load that fails poisons its register. -/
theorem test_load_fails : nextIs (exec (.loadReply 7 0) (waiting farLoad)) (fun t =>
    match vget t.me.g 1 (.val 0) with
    | .poison c => c.addr == 0x2000000000 && c.seq == 7 && c.again
    | _ => false) = true := by decide +kernel

def ownedLine : L1Line := ⟨0x5000 / 64, 0, 0, 0x9000 / 64, 0xFFFF, 0, true, false, 0⟩

def withLine (s : State) : State := s.setCore p0 { s.core p0 with l1 := [ownedLine] }

theorem witness_StoresArePerformed : ∃ (x : Xlat) (s1 s2 : State) (k : Nat),
    (let f := flightOf .store (.sram 0x5000) 0x5000 8 5
     (waiting f).flight? 7 = some f ∧ (waiting f).mayPerform f 0 = true) ∧
    (let f := flightOf .store (.va 0x5000) 0x5000 8 5
     (waiting f).mayPerform f 0 = true ∧ (waiting f).revs = [] ∧ ((waiting f).thread p0).held = [] ∧
       ((waiting f).core p0).l1Find 0x5000 0 0 = none ∧
       (waiting f).translate (Party.clusterKey p0) 0x5000 0 true ((waiting f).launchOf p0) = (.ok x, s1) ∧
       (waiting f).revisioned 0 0x5000 x.revd x.attr = false ∧
       ((withLine (waiting f)).core p0).l1Find 0x5000 0 0 = some ownedLine ∧
       (withLine (waiting f)).revisioned 0 0x5000 false 0 = false) ∧
    (let f := flightOf .store (.va 0x2000000000) 0x2000000000 8 5
     (waiting f).mayPerform f 0 = true ∧ ((waiting f).core p0).l1Find 0x2000000000 0 0 = none ∧
       (waiting f).translate (Party.clusterKey p0) 0x2000000000 0 true ((waiting f).launchOf p0) = (.error k, s2)) :=
  ⟨_, _, _, _, ⟨rfl, rfl⟩, ⟨rfl, rfl, rfl, rfl, rfl, rfl, rfl, rfl⟩, rfl, rfl, rfl⟩

/-- An owned line's bytes go to its physical address; a store whose translation fails is held. -/
theorem test_store_places :
    nextIs (exec (.storePerformed 7 0) (withLine (waiting (flightOf .store (.va 0x5008) 0x5008 4 0xAABBCCDD))))
      (fun t => Memory.readN t.mem 0x9008 4 == 0xAABBCCDD && Memory.readN t.mem 0x5008 4 == 0) = true ∧
    nextIs (exec (.storePerformed 7 0) (waiting (flightOf .store (.va 0x2000000000) 0x2000000000 8 5)))
      (fun t => t.me.held.length == 1 && t.mem == (waiting farLoad).mem) = true := by decide +kernel

/-- A tile of FP32 bound; row 1 of it holds the lane numbers 0 to 31, row 2 their double. -/
def rowV (f : Nat → Nat) : Row := BitVec.ofNat 1024 ((List.range 32).foldl (fun v i => v + f i % 2 ^ 32 * 2 ^ (32 * i)) 0)

def tiled (t : Thread) (ty : Fmt) (a b c : Row) : State :=
  let s : State := world { t with tile := some 0 }
  s.setCore p0 { s.core p0 with
    tiles := (s.core p0).tiles.set 0 ⟨ty, some 0, (((Tile.reset.rows.set 1 ⟨a, .full⟩).set 2 ⟨b, .full⟩).set 3 ⟨c, .full⟩)⟩ }

/-- The same with mapped memory. -/
def mappedTile (t : Thread) (ty : Fmt) (a b c : Row) : State :=
  let s : State := tiled t ty a b c
  (mapped s).setCore p0 { s.core p0 with plb := (mm.core p0).plb }

def mtw : State := mappedTile (thr 0x99 0x5000 0 0) .int32 (rowV (fun i => i)) (rowV (fun i => 2 * i)) 0

theorem witness_RowsIssue : ∃ (l1 l2 l3 : Loc) (s1 s2 s3 s4 s5 : State) (v : Row) (ls ls2 : List (Nat × Loc)),
    mtw.running ∧ mtw.src.tile = some 0 ∧ Reads2 mtw 2 3 0x5000 0 mtw ∧
    (mtw.checkAccess 0x5000 128 16 needR = .ok (l1, s1) ∧ s1.checkWeir 0x5000 l1 128 false = .ok () ∧
      s1.checkRowDest 0 5 = .ok ()) ∧
    (0x5000 % 16 = 0 ∧ mtw.firstFailing 0x5000 4 mtw.lanes 0 = .ok 32 ∧
      mtw.checkAccess 0x5000 (32 * 4) 1 needR = .ok (l2, s2) ∧ s2.checkDestQ 1 = .ok ()) ∧
    ((noRights mtw).firstFailing 0x5000 4 mtw.lanes 0 = .ok 0 ∧
      (noRights mtw).checkAccess 0x5000 128 16 needR = .error (.trap 6 0x5000 0x12 none)) ∧
    (mtw.checkPoisonGV [2] [1] = .ok () ∧ mtw.readG 2 = .ok (0x5000, mtw) ∧ mtw.readV 1 = .ok (v, mtw) ∧
      checkLanes needR 4 ((List.range 32).map (fun i => 0x5000 + 4 * i)) mtw = .ok (ls, s3) ∧
      weirLanes 4 false s3 ls = .ok () ∧ s3.checkRowDest 0 5 = .ok ()) ∧
    (mtw.checkPoisonGV [2, 3] [1] = .ok () ∧ mtw.checkAccess 0x5000 128 16 needW = .ok (l3, s4) ∧
      s4.checkWeir 0x5000 l3 128 true = .ok ()) ∧
    (mtw.checkPoisonGV [2] [2, 1] = .ok () ∧
      checkLanes needW 4 ((List.range 32).map (fun i => 0x5000 + 4 * i)) mtw = .ok (ls2, s5) ∧
      weirLanes 4 true s5 ls2 = .ok ()) := by
  refine ⟨_, _, _, _, _, _, _, _, _, _, _, rfl, rfl, rfl, ⟨rfl, rfl, rfl⟩, ⟨rfl, rfl, rfl, rfl⟩, ⟨rfl, rfl⟩,
    ⟨rfl, rfl, rfl, rfl, rfl, rfl⟩, ⟨rfl, rfl, rfl⟩, rfl, rfl, rfl⟩

/-- A row is full when its eight parts of 16 bytes have arrived; a gathered one, when its 32 lanes have. -/
theorem test_rows :
    (runs (.ldv .slot 5 2 3 :: (List.range 8).map (fun i => .loadReply 7 i)) (mtw.writePa 0x5000 16 0x0000000400000003)).map
      (fun t => t.rowOf 0 0 5) = some ⟨BitVec.ofNat 1024 0x0000000400000003, .full⟩ ∧
    (runs [.stv .slot 1 2 3, .storePerformed 7 1] mtw).map (fun t => Memory.readN t.mem 0x5010 8) = some 0x0000000500000004 ∧
    (runs (.ldvg .slot 5 2 1 :: (List.range 32).map (fun i => .loadReply 7 i)) (mtw.writePa 0x500C 4 0x77)).map
      (fun t => t.rowOf 0 0 5) = some ⟨BitVec.ofNat 1024 (0x77 * 2 ^ 96), .full⟩ ∧
    (runs (.stvs .slot 2 2 1 :: (List.range 4).map (fun i => .storePerformed 7 i)) mtw).map
      (fun t => Memory.readN t.mem 0x500C 4) = some 6 := by decide +kernel

theorem witness_AtomicsCompleteAndReturnOld : ∃ (l : Loc) (s3 : State),
    (mm.checkRelease = .ok () ∧ mm.checkPoison [2, 4] = .ok () ∧ mm.readG 2 = .ok (0x5000, mm) ∧
      mm.readG 4 = .ok (0x1122334455667788, mm) ∧ mm.checkAccess 0x5000 8 8 3 = .ok (l, s3) ∧
      s3.checkWeir 0x5000 l 8 true = .ok () ∧ s3.checkAsync 1 = .ok ()) ∧
    mm.checkPoison [1, 2, 4] = .ok () ∧ mm.readG 1 = .ok (0x99, mm) ∧
    (let f := flightOf (.atomic .add 5 0 1) (.sram 0x5000) 0x5000 4 0
     (waiting f).flight? 7 = some f ∧ (waiting f).mayPerform f 0 = true ∧ poisonIn (waiting f).sramPoison 0x5000 4 = false ∧
       (waiting f).me.ctx = 1 ∧ (waiting f).me.g[(1 : Reg)] = .empty 7) :=
  ⟨_, _, ⟨rfl, rfl, rfl, rfl, rfl, rfl, rfl⟩, rfl, rfl, rfl, rfl, rfl, rfl, rfl⟩

/-- The word at 0x5000 after an atomic on 0xFFFFFFFE there with x, and what gd receives (15 R224). -/
def atomRes (op : AtomOp) (x c : Nat) : Option (Nat × RegCell) :=
  let s : State := (waiting (flightOf (.atomic op x c 1) (.sram 0x5000) 0x5000 4 0)).writeSram 0x5000 4 0xFFFFFFFE
  match exec (.atomicPerform 7) s with
  | .next t => some (t.readSram 0x5000 4, vget t.me.g 1 (.val 0))
  | _ => none

theorem test_atomics :
    [atomRes .add 5 0, atomRes .and 3 0, atomRes .or 1 0, atomRes .xor 3 0, atomRes .min 1 0, atomRes .max 1 0,
      atomRes .minu 1 0, atomRes .maxu 1 0, atomRes .swp 9 0, atomRes .cas 9 0xFFFFFFFE, atomRes .cas 9 0].map
        (fun o => o.map (·.1)) =
      [3, 2, 0xFFFFFFFF, 0xFFFFFFFD, 0xFFFFFFFE, 1, 1, 0xFFFFFFFE, 9, 9, 0xFFFFFFFE].map some ∧
    (atomRes .add 5 0).map (·.2) = some (.val 0xFFFFFFFE) := by decide +kernel

theorem test_atomic_fadd :
    nextIs (exec (.atomicPerform 7) ((waiting (flightOf (.atomic .fadd 0x40000000 0 1) (.sram 0x5000) 0x5000 4 0)).writeSram 0x5000 4
      0x3F800000)) (fun t => t.readSram 0x5000 4 == 0x40400000 && vget t.me.g 1 (.val 0) == .val 0x3F800000) = true ∧
    (after2 (.aadd .w .rlx .slot 1 2 4) (.atomicPerform 7) mm).map (fun t => Memory.readN t.mem 0x5000 4) = some 0x55667788 := by
  decide +kernel

theorem witness_FencesAndPrefetches : ∃ (used : List PlbEntry) (x : Xlat) (s2 : State),
    mm.src.oldestPoison = none ∧ mm.earlierDone mm.src.ctx mm.nextOp true true = true ∧
    (waiting farLoad).earlierDone 1 8 true true = false ∧ (waiting farLoad).earlierDone 1 8 false true = true ∧
    Reads2 mm 2 3 0x5000 2 mm ∧ ((0x5000 : Word) + 2).toNat < 2 ^ 56 ∧ 2 ^ 56 ≤ ((2 : Word) ^ 56 + 0).toNat ∧
    mm.rights (Party.coreKey p0) 0 false needR 260 0x5002 0x5003 [] = .ok used ∧
    (mm.usePlb (Party.coreKey p0) used).translate (Party.clusterKey p0) 0x5002 0 false
      ((mm.usePlb (Party.coreKey p0) used).launchOf p0) = (.ok x, s2) ∧ x.attr = 0 := by
  refine ⟨_, _, _, rfl, ?_, ?_, ?_, rfl, ?_, ?_, rfl, rfl, rfl⟩ <;> decide +kernel

theorem test_fence_and_pref :
    nextIs (exec (.fence .full .sys) (waiting farLoad)) (fun t => t.issue.last == .parked) = true ∧
    nextIs (exec (.fence .rel .sys) (waiting farLoad)) (fun t => t.issue.last == .done) = true ∧
    nextIs (exec (.pref .own .slot 2 3) mm) (fun t => ((t.core p0).l1Find 0x5000 0 0).any (·.owned)) = true := by decide +kernel

/-! ### Witnesses and values: vector words -/

/-- A row of lanes of e bits. -/
def rowOfL (e : Nat) : List Nat → Nat
  | [] => 0
  | x :: l => x % 2 ^ e + 2 ^ e * rowOfL e l

/-- Lanes 0 to 3 of row 5 after a vector word under q4 on rows 1, 2, 3 of a tile, whose own row 5 is 0; q4 counts 4 lanes. -/
def vres (i : Instr) (ty : Fmt) (a b c : List Nat) : Option (List Nat) :=
  let e := Fmt.bits ty
  let row (l : List Nat) : Row := BitVec.ofNat 1024 (rowOfL e l)
  match exec i (tiled { thr 0 0x33 2 0 with q := (thr 0 0 0 0).q.set 4 (.val 4) } ty (row a) (row b) (row c)) with
  | .next t => if t.issue.last = .done then some ((List.range 4).map (fun j => (t.rowOf 0 0 5).data.toNat / 2 ^ (e * j) % 2 ^ e)) else none
  | _ => none

/-- 11 R140, R143 on INT8: by hand. -/
theorem test_vector_int :
    [vres (.vadd .rne .wrap 4 5 1 2) .int8 [0x7F, 1, 2, 0xFF] [1, 1, 1, 1] [], vres (.vadd .rne .sat 4 5 1 2) .int8 [0x7F, 1, 2, 0xFF] [1, 1, 1, 1] [],
      vres (.vsub .rne .wrap 4 5 1 2) .int8 [0, 5, 0x80, 1] [1, 2, 1, 1] [], vres (.vmul .rne .sat 4 5 1 2) .int8 [0x10, 2, 3, 4] [0x10, 2, 3, 0xFF] [],
      vres (.vmulh .rne .wrap 4 5 1 2) .int16 [0x4000, 0xFFFF, 2, 3] [4, 2, 2, 3] [],
      vres (.vmin 4 5 1 2) .int8 [0xFF, 1, 2, 3] [1, 2, 1, 0x80] [], vres (.vmax 4 5 1 2) .int8 [0xFF, 1, 2, 3] [1, 2, 1, 0x80] [],
      vres (.vabs .sat 4 5 1) .int8 [0x80, 0xFF, 1, 0] [] [], vres (.vneg .wrap 4 5 1) .int8 [0x80, 0xFF, 1, 0] [] [],
      vres (.vfma .rne 4 5 1 2) .int16 [2, 3, 4, 0xFFFF] [5, 6, 7, 8] []] =
    [some [0x80, 2, 3, 0], some [0x7F, 2, 3, 0], some [0xFF, 3, 0x7F, 0], some [0x7F, 4, 9, 0xFC], some [1, 0xFFFF, 0, 0],
      some [0xFF, 1, 1, 0x80], some [1, 2, 2, 3], some [0x7F, 1, 1, 0], some [0x80, 1, 0xFF, 0],
      some [10, 18, 28, 0xFFF8]] := by decide +kernel

theorem test_vector_logic :
    [vres (.vand 4 5 1 2) .int8 [0xF0, 1, 2, 3] [0x3C, 1, 1, 1] [], vres (.vor 4 5 1 2) .int8 [0xF0, 1, 2, 3] [0x0F, 1, 1, 1] [],
      vres (.vxor 4 5 1 2) .fp32 [0x80000000, 1, 2, 3] [0x80000000, 1, 1, 1] [],
      vres (.vshl .wrap 4 5 1 2) .int8 [1, 1, 1, 1] [7, 8, 64, 1] [], vres (.vshl .sat 4 5 1 2) .int8 [1, 1, 0xFF, 1] [7, 8, 9, 1] [],
      vres (.vshr 4 5 1 2) .int8 [0x80, 0x80, 0x80, 1] [7, 8, 64, 1] [], vres (.vsar 4 5 1 2) .int8 [0x80, 0x80, 0x40, 1] [3, 9, 9, 0] [],
      vres (.vcmp .ltu 4 5 1 2) .int8 [0xFF, 1, 2, 3] [1, 2, 2, 4] [], vres (.vcmp .lt 4 5 1 2) .int8 [0xFF, 1, 2, 3] [1, 2, 2, 4] [],
      vres (.vclamp 4 5 1 2 3) .int8 [0xFF, 1, 9, 3] [0, 0, 0, 0] [5, 5, 5, 5], vres (.vsel 4 5 1 2 3) .int8 [1, 2, 3, 4] [5, 6, 7, 8] [0, 1, 0, 0xFF]] =
    [some [0x30, 1, 0, 1], some [0xFF, 1, 3, 3], some [0, 0, 3, 2], some [0x80, 0, 1, 2], some [0x7F, 0x7F, 0x80, 2],
      some [1, 0, 0x80, 0], some [0xF0, 0xFF, 0, 1], some [0, 0xFF, 0, 0xFF], some [0xFF, 0xFF, 0, 0xFF], some [0, 1, 5, 3],
      some [5, 2, 7, 4]] := by decide +kernel

/-- FP32: 1, 2, 3, 4 and others (11 R140, R144, R145). -/
theorem test_vector_float :
    let one := 0x3F800000
    let two := 0x40000000
    let three := 0x40400000
    let four := 0x40800000
    [vres (.vadd .rne .wrap 4 5 1 2) .fp32 [one, two, three, 0x7F800000] [one, one, one, 0xFF800000] [],
      vres (.vsub .rne .wrap 4 5 1 2) .fp32 [two, two, three, four] [one, two, one, three] [],
      vres (.vmul .rne .wrap 4 5 1 2) .fp32 [two, two, 0, 0x80000000] [one, two, one, one] [],
      vres (.vdiv .rne 4 5 1 2) .fp32 [four, two, one, 0] [two, two, 0, 0] [],
      vres (.vsqrt .rne 4 5 1) .fp32 [four, one, 0x80000000, 0xBF800000] [] [],
      vres (.vrcp .rne 4 5 1) .fp32 [two, one, four, 0] [] [], vres (.vrsq .rne 4 5 1) .fp32 [four, one, 0x41800000, 0] [] [],
      vres (.vexp2 .rne 4 5 1) .fp32 [one, two, 0, 0xFF800000] [] [], vres (.vlog2 .rne 4 5 1) .fp32 [one, two, four, 0] [] [],
      vres (.vfma .rne 4 5 1 2) .fp32 [two, two, three, one] [two, one, two, one] [],
      vres (.vmin 4 5 1 2) .fp32 [0x80000000, one, 0x7FC00000, two] [0, two, one, one] [],
      vres (.vabs .wrap 4 5 1) .fp32 [0xBF800000, one, 0xFFC00000, 0x80000000] [] [],
      vres (.vcmp .eq 4 5 1 2) .fp32 [0, one, 0x7FC00000, two] [0x80000000, two, one, two] []] =
    [some [two, three, four, 0x7FC00000], some [one, 0, two, one], some [two, four, 0, 0x80000000],
      some [two, one, 0x7F800000, 0x7FC00000], some [two, one, 0x80000000, 0x7FC00000],
      some [0x3F000000, one, 0x3E800000, 0x7F800000], some [0x3F000000, one, 0x3E800000, 0x7F800000],
      some [two, four, one, 0], some [0, one, two, 0xFF800000], some [four, two, 0x40C00000, one],
      some [0x80000000, one, one, one], some [one, one, 0x7FC00000, 0], some [0xFFFFFFFF, 0, 0, 0xFFFFFFFF]] := by
  decide +kernel

theorem test_vector_moves :
    [vres (.vmov 4 5 1) .int8 [9, 8, 7, 6] [] [], vres (.vbcast 4 5 2) .int8 [] [] [], vres (.viota 4 5) .int8 [] [] [],
      vres (.viota 4 5) .fp32 [] [] [], vres (.vins 4 5 2 3) .int8 [] [] [], vres (.vperm 4 5 1 2) .int8 [9, 8, 7, 6] [3, 0, 129, 2] [],
      vres (.vcomp 4 5 1 2) .int8 [9, 8, 7, 6] [0, 1, 0, 1] [], vres (.vexpand 4 5 1 2) .int8 [9, 8, 7, 6] [0, 1, 0, 1] []] =
    [some [9, 8, 7, 6], some [0x33, 0x33, 0x33, 0x33], some [0, 1, 2, 3], some [0, 0x3F800000, 0x40000000, 0x40400000],
      some [0, 0, 0x33, 0], some [6, 9, 8, 7], some [8, 6, 0, 0], some [0, 9, 0, 8]] := by decide +kernel

theorem test_vector_reductions :
    [vres (.vredsum .rne 4 5 1) .int8 [9, 8, 7, 0xFF] [] [], vres (.vredsum .rne 4 5 1) .fp32 [0x3F800000, 0x3F800000, 0x40000000, 0x40000000] [] [],
      vres (.vredmax 4 5 1) .int8 [9, 8, 7, 0xFF] [] [], vres (.vredmin 4 5 1) .int8 [9, 8, 7, 0xFF] [] [],
      vres (.vcvt .rne .sat 4 5 1 .int32) .fp32 [0x40200000, 0xBF800000, 0x7F800000, 0] [] [],
      vres (.vsort 4 5 1) .int8 [9, 8, 7, 0xFF] [] [], vres (.vhist 4 5 1) .int8 [2, 2, 0, 1] [] []] =
    [some [23, 0, 0, 0], some [0x40C00000, 0, 0, 0], some [9, 0, 0, 0], some [0xFF, 0, 0, 0],
      some [2, 0xFFFFFFFF, 0x7FFFFFFF, 0], none, none] ∧
    [vres (.vextr 4 1 1 3) .int8 [9, 8, 7, 6] [] []].map Option.isSome = [true] := by decide +kernel

/-- A tile of INT8 and one of FP32 with rows 1 to 3, and q1 to q4 counting 0 to 3, in a core of d8, where FEAT has bit 3. -/
def vst (ty : Fmt) : State :=
  let t : Thread := { thr 0 0x33 2 0 with q := Vector.ofFn (fun (i : Fin 8) => .val (i.val - 1)) }
  let s : State := tiled t ty 0x04030201 0x01010101 0x05050505
  { s with cur := ⟨8, 0, 0⟩, threads := [(8 * 4096, { t with tile := some 0 })], cores := [(8 * 256, s.core p0)] }

theorem witness_VectorTwoSourceResults : ∀ ty ∈ [Fmt.int8, .int16, .int32, .bf16, .fp16, .fp32],
    (vst ty).running ∧ (vst ty).src.tile = some 0 ∧ ((vst ty).srcTiles[(0 : Fin 8)]).typ = ty ∧
    ((vst ty).srcTiles[(0 : Fin 8)]).typ.shape = ty.shape := by
  simp only [List.mem_cons, List.not_mem_nil, or_false, forall_eq_or_imp, forall_eq]
  and_intros <;> rfl

theorem witness_VectorReads : ∃ (x y z : Row) (n : Nat) (s2 s3 : State),
    ((vst .int8).readQ 0 = .ok 128 ∧ (vst .int8).readQ 2 = .ok n ∧ n = 1 ∧ (vst .int8).readQ 1 = .ok 0) ∧
    (((vst .int8).checkPoisonGV [] [1, 2] = .ok () ∧ (vst .int8).readV 1 = .ok (x, vst .int8) ∧
      (vst .int8).readV 2 = .ok (y, vst .int8))) ∧
    ((vst .int8).checkPoisonGV [] [1, 2, 3] = .ok () ∧ (vst .int8).readV 3 = .ok (z, vst .int8)) ∧
    (vst .int8).checkDestV 5 = .ok () ∧ (vst .fp32).checkDestV 5 = .ok () ∧ (vst .int8).checkPoisonGV [] [5, 1, 2] = .ok () ∧
    ((vst .int8).checkPoisonGV [3] [1] = .ok () ∧ (vst .int8).readG 3 = .ok (2, s2) ∧ s2.checkDest 1 = .ok ()) ∧
    (Reads2 (vst .int8) 2 3 0x33 2 s3 ∧ s3.aliasStream 5 = none) ∧ Reads1 (vst .int8) 2 0x33 (vst .int8) :=
  ⟨_, _, _, _, _, _, ⟨rfl, rfl, rfl, rfl⟩, ⟨rfl, rfl, rfl⟩, ⟨rfl, rfl⟩, rfl, rfl, rfl, ⟨rfl, rfl, rfl⟩, ⟨rfl, rfl⟩, rfl, rfl⟩

theorem witness_ReadsV : ∃ x y z : Row, ReadsV (vst .int8) [1, 2] [x, y] (vst .int8) ∧ ReadsV (vst .int8) [1] [x] (vst .int8) ∧
    ReadsV (vst .int8) [1, 2, 3] [x, y, z] (vst .int8) ∧ ReadsV (vst .int8) [3, 1, 2] [z, x, y] (vst .int8) :=
  ⟨_, _, _, ⟨rfl, _, rfl, _, rfl, rfl⟩, ⟨rfl, _, rfl, rfl⟩, ⟨rfl, _, rfl, _, rfl, _, rfl, rfl⟩, ⟨rfl, _, rfl, _, rfl, _, rfl, rfl⟩⟩

theorem witness_VectorReductionsAndFills : (Config.feat (vst .int8).cur.die).testBit 3 = true ∧
    (Config.feat (world (thr 0 0 0 0)).cur.die).testBit 3 = false ∧
    (let f := flightOf (.vfill 0 0 5 3) (.va 0) 0 0 0
     (waiting f).flight? 7 = some f ∧ (waiting f).clock 0 < 3 ∧
       3 ≤ ({ waiting f with dies := [(0, { DieSt.reset with clock := 3 })] } : State).clock 0) := by
  and_intros <;> first | decide +kernel | rfl

/-- VSORT and VHIST on a die that has them (11 R150). -/
theorem test_sort_and_histogram :
    nextIs (exec (.vsort 4 5 1) ((vst .int8).setCore ⟨8, 0, 0⟩ { (vst .int8).core ⟨8, 0, 0⟩ with
      tiles := ((vst .int8).core ⟨8, 0, 0⟩).tiles.set 0 ⟨.int8, some 0, Tile.reset.rows.set 1 ⟨0x0201FF03, .full⟩⟩ }))
      (fun t => (t.rowOf 2048 0 5).data == 0x00_03_01_FF) = true ∧
    nextIs (exec (.vhist 4 5 1) (vst .int8)) (fun t => (t.rowOf 2048 0 5).data == 0x01010100) = true := by decide +kernel

/-- FP32: −0 is below +0, a quiet NaN is passed over and a signalling one is written quiet; with no active lane VREDSUM gives +0 and
VREDMAX writes nothing (11 R148). -/
theorem test_reductions_float :
    [vres (.vredmax 4 5 1) .fp32 [0x80000000, 0, 0x80000000, 0xBF800000] [] [],
      vres (.vredmin 4 5 1) .fp32 [0x3F800000, 0, 0x80000000, 0] [] [],
      vres (.vredmax 4 5 1) .fp32 [0x7FC00001, 0x3F800000, 0xC0000000, 0] [] [],
      vres (.vredmin 4 5 1) .fp32 [0x3F800000, 0x7F800001, 0x7FC00002, 0] [] [],
      vres (.vredmax 4 5 1) .fp32 [0x7FC00001, 0x7FC00002, 0xFFC00003, 0x7FC00004] [] [],
      vres (.vredsum .rne 4 5 1) .fp32 [0x80000000, 0x80000000, 0x80000000, 0x80000000] [] []] =
    [some [0, 0, 0, 0], some [0x80000000, 0, 0, 0], some [0x3F800000, 0, 0, 0], some [0x7FC00001, 0, 0, 0],
      some [0x7FC00001, 0, 0, 0], some [0x80000000, 0, 0, 0]] ∧
    nextIs (exec (.vredsum .rne 1 5 1) (vst .fp32)) (fun t => decide ((t.rowOf 2048 0 5).data = 0 ∧ t.issue.last = .done)) = true ∧
    nextIs (exec (.vredmax 1 5 1) ((vst .fp32).setMe { (vst .fp32).me with pc := 0x200 })) (fun t =>
      t.flights.isEmpty && decide (t.me.pc = 0x104 ∧ (t.rowOf 2048 0 5).fill = .full)) = true ∧
    nextIs (exec (.vredsum .sr 4 5 1) (vst .fp32)) (fun t =>
      t.me.seed == w64 (stepSeed (stepSeed ((vst .fp32).me.seed.toNat % 2 ^ 32)))) = true := by
  decide +kernel

/-- VSORT orders FP32 as totalOrder does (11 R149). -/
theorem test_sort_float :
    nextIs (exec (.vsort 0 5 1) ((vst .fp32).setCore ⟨8, 0, 0⟩ { (vst .fp32).core ⟨8, 0, 0⟩ with
      tiles := ((vst .fp32).core ⟨8, 0, 0⟩).tiles.set 0 ⟨.fp32, some 0, Tile.reset.rows.set 1
        ⟨BitVec.ofNat 1024 (rowOfL 32 ([0x7FC00000, 0x3F800000, 0, 0x80000000, 0xFFC00000] ++ List.replicate 27 0x7F800000)), .full⟩⟩ }))
      (fun t => (List.range 5).map (fun j => (t.rowOf 2048 0 5).data.toNat / 2 ^ (32 * j) % 2 ^ 32) ==
        [0xFFC00000, 0x80000000, 0, 0x3F800000, 0x7F800000] &&
          (t.rowOf 2048 0 5).data.toNat / 2 ^ 992 == 0x7FC00000) = true := by decide +kernel

/-- VCVT of INT8 lanes to INT32 fills the row with the first 32 (11 R149). -/
theorem test_vcvt_packs :
    nextIs (exec (.vcvt .rne .sat 0 5 1 .int32) (vst .int8)) (fun t =>
      (t.rowOf 2048 0 5).data == 0x00000004000000030000000200000001) = true := by decide +kernel

/-- In mode .sr the generator steps once for each lane, from a format to itself as well (11 R149). -/
theorem test_vcvt_draws :
    nextIs (exec (.vcvt .sr .sat 4 5 1 .int8) (vst .int8)) (fun t =>
      t.me.seed == w64 (Nat.repeat stepSeed 3 ((vst .int8).me.seed.toNat % 2 ^ 32))) = true := by decide +kernel

/-! ### Witnesses and values: tiles and the matrix unit -/

/-- Tile 3 with a row that waits, and tile 4 of another domain. -/
def tiles2 : State :=
  let s : State := world (thr 0 0x33 2 0)
  s.setCore p0 { s.core p0 with
    tiles := ((s.core p0).tiles.set 3 { Tile.reset with rows := Tile.reset.rows.set 31 ⟨0, .empty 5⟩ }).set 4
      { Tile.reset with tag := some 5 } }

theorem witness_TilesSetAndBound :
    tiles2.running ∧ ((tiles2.core p0).tiles[(0 : Fin 8)]).tag = none ∧ (∀ r < 32, (tiles2.rowOf 0 0 r).fill = .full) ∧
    ((tiles2.core p0).tiles[(3 : Fin 8)]).tag = none ∧ (tiles2.rowOf 0 3 31).fill = .empty 5 ∧
    ((tiles2.core p0).tiles[(4 : Fin 8)]).tag = some 5 ∧ tiles2.src.dom = 0 := by
  and_intros <;> first | decide +kernel | rfl

theorem test_tiles :
    nextIs (exec (.acfg 0 .int8) tiles2) (fun t => (vget (t.coreAt 0).tiles 0 Tile.reset).typ == .int8 && t.issue.last == .done) = true ∧
    nextIs (exec (.mzero 3) tiles2) (fun t => t.issue.last == .parked) = true ∧
    nextIs (exec (.abind 4) tiles2) (fun t => t.me.ecause == 6 && t.me.einfo == 4) = true ∧
    nextIs (exec (.abind 2) tiles2) (fun t => t.me.tile == some 2) = true ∧
    nextIs (exec .abindNone (tiled (thr 0 0 0 0) .fp32 0 0 0)) (fun t => t.me.tile == none) = true ∧
    nextIs (exec (.mzero 0) (tiled (thr 0 0 0 0) .fp32 5 0 0)) (fun t => t.rowOf 0 0 1 == ⟨0, .full⟩) = true := by decide +kernel

/-- FMTA = FMTB = INT8, an INT32 tile, slot w0 loaded for domain 0, g2 = A in the home polder, g3 = B tile 0 of w0; A[0, 0] = 2
and B[0, 0] = 3, A[1, 0] = -1. -/
def matrix (g3 : Word) : State :=
  let t : Thread := { thr 0 0x8000000000004000 g3 0x8000000000006000 with fmta := 5, fmtb := 5 }
  let s : State := world t
  let s : State := s.setCore p0 { s.core p0 with tiles := (s.core p0).tiles.set 0 { Tile.reset with typ := .int32 } }
  let s : State := s.setWslot p0 0 ⟨.loaded, 0, 0, [], none⟩
  let s : State := { s with wmem := Memory.writeN [] (weightBase 0 0) 3 1 }
  (s.writeSram (homeByte p0 0x4000) 1 2).writeSram (homeByte p0 0x4080) 1 0xFF

theorem witness_MatrixWordsAppend : ∃ (l : Loc) (n feat : Nat) (fa fb : Fmt),
    (matrix 0).running ∧ (matrix 0).formPair .mma = some (fa, fb, .int32, feat) ∧ (matrix 0).formPair .mmas = some (fa, fb, .int32, feat) ∧
    Nat.land (Config.feat 0) feat = feat ∧ (matrix 0).checkTag 0 = .ok () ∧ ((matrix 0).tileNow 0).typ = .int32 ∧
    (∀ r < 32, ((matrix 0).rowOf 0 0 r).fill = .full) ∧
    ((matrix 0).wslot p0 0).isFree = false ∧ scaleCode true fa 5 ≠ 3 ∧ ((matrix 0).wslot p0 0).dom = 0 ∧ tileBytes ((matrix 0).wslot p0 0).code fb = some n ∧
    n ≤ 131072 ∧ (matrix 0).checkScales (scaleCode false fa 5) 0 0 (kOf fa / 32) = .ok (matrix 0) ∧
    Reads2 (matrix 0) 2 3 0x8000000000004000 0 (matrix 0) ∧ (matrix 0).checkAWindow 0x8000000000004000 = .ok l ∧
    ((matrix 0).core p0).mq.length < 4 ∧ Reads1 (matrix 0) 3 0 (matrix 0) := by
  refine ⟨_, _, _, _, _, rfl, rfl, rfl, rfl, rfl, rfl, ?_, ?_, ?_, rfl, rfl, ?_, rfl, rfl, rfl, ?_, rfl, rfl⟩ <;> decide +kernel

/-- Stream 1 brings rows of 128 bytes from A's place; two of them are in its buffer. -/
def matrixStream : State :=
  let s := matrix 0
  let q := 2 * 2 ^ 22 + 7 * 2 ^ 32 + 256 * 2 ^ 7
  let x : Stream := { s.newStream (w64 q) (.sram (homeByte p0 0x7000)) (homeByte p0 0x4000) with
    words := some [0x800000000000C000, 64 + 2 ^ 16 + 2 ^ 32 + 2 ^ 48, 128, 0, 0, 0, 0, 0], filled := 2 }
  s.setMe { s.me with streams := Vector.ofFn (fun (i : Fin 8) => if i.val = 1 then some x else none) }

theorem witness_MatrixWordsAppend_stream : ∃ x : Stream,
    Reads1 matrixStream 3 0 matrixStream ∧ matrixStream.checkAStream 1 = .ok x ∧ matrixStream.me.stream? 1 = some x ∧
    x.filled = 2 ∧ x.moved = 0 ∧ matrixStream.formPair .mma = (matrix 0).formPair .mma ∧
    (matrixStream.wslot p0 0) = (matrix 0).wslot p0 0 ∧ (matrixStream.core p0).mq.length < 4 := by
  refine ⟨_, ⟨rfl, rfl⟩, rfl, rfl, rfl, rfl, ?_, ?_, ?_⟩ <;> decide +kernel

/-- The command claims the rows present and waits for the others (11 R161). -/
theorem test_mma_stream : nextIs (exec (.mma 0 true (.stream 1) 3) matrixStream) (fun t =>
    (t.core p0).mq.map (fun m => (m.a.isSome, m.aRows.length)) == [(false, 2)] &&
      (t.me.stream? 1).map (·.moved) == some 32) = true := by decide +kernel

/-- C := A × B: 6 and -3 in column 0 (11 R151, R158). -/
theorem test_mma :
    (runs [.mma 0 true (.window 2) 3, .matrixCommandStart 0 0, .matrixCommandComplete 0 0] (matrix 0)).map (fun t =>
      (t.rowOf 0 0 0, t.rowOf 0 0 1, (t.core p0).mq.length)) = some (⟨6, .full⟩, ⟨0xFFFFFFFD, .full⟩, 0) := by decide +kernel

/-- MRSUM adds a row's elements into every element of the row; MTRANS moves element [j, 32 g + i] to [i, j]. -/
theorem test_mrsum_mtrans :
    (runs [.mrsum 0 2, .matrixCommandStart 0 0, .matrixCommandComplete 0 0] (matrix 0)).map (fun t =>
      ((t.rowOf 0 0 0).data.toNat % 2 ^ 64, (t.rowOf 0 0 1).data.toNat % 2 ^ 32)) = some (0x0000000200000002, 0xFFFFFFFF) ∧
    (runs [.mtrans 0 2 3, .matrixCommandStart 0 0, .matrixCommandComplete 0 0] (matrix 0)).map (fun t =>
      ((t.rowOf 0 0 0).data.toNat % 2 ^ 64, (t.rowOf 0 0 1).data.toNat % 2 ^ 32)) = some (0xFFFFFFFF00000002, 0) := by
  decide +kernel

/-- MPERM with an index vector of zeros copies element [i, 0] to the whole row. -/
theorem test_mperm :
    (runs [.mperm 0 2 4, .matrixCommandStart 0 0, .matrixCommandComplete 0 0] (matrix 0)).map (fun t =>
      (t.rowOf 0 0 0).data.toNat % 2 ^ 64) = some 0x0000000200000002 := by decide +kernel

theorem witness_MatrixPermute : ∃ i : Nat, Reads2 (matrix 0) 2 4 0x8000000000004000 0x8000000000006000 (matrix 0) ∧
    0x8000000000006000 / 2 ^ 63 = 1 ∧ 0x8000000000006000 / 2 ^ 22 % 2 ^ 41 = 0 ∧
    (matrix 0).checkWindow 0x8000000000006000 = .ok i ∧ poisonIn (matrix 0).sramPoison i 32 = false ∧
    (matrix 0).checkPort (.sram i) 32 false = .ok () ∧ (matrix 0).pendingStores (matrix 0).issueFlight = [] ∧ Reads2 (matrix 3) 2 3 0x8000000000004000 3 (matrix 3) ∧ 3 < kOf .int8 / 32 :=
  ⟨_, rfl, rfl, rfl, rfl, rfl, rfl, rfl, rfl, by decide +kernel⟩

/-- A command of MRSUM at the head of the queue, its last block still to run; with A's first granule of that block poisoned, or not. -/
def command (bad : Bool) : State :=
  let s := matrix 0
  let m : MatCmd := ⟨7, 0, 1, .mrsum, 0, false, 0, some (.sram (homeByte p0 0x4000)), 0x8000000000004000, [], 0, 5, 5, 0, 0, 0, 0, 0x100, 0,
    [], 3, false, 0, false, List.replicate 16 0, false⟩
  let s : State := s.setCore p0 { s.core p0 with mq := [m] }
  { s with sramPoison := if bad then [(homeByte p0 0x4000 + 96) / 16] else [], nextOp := 8 }

/-- The queue of the core is full. -/
def fullQueue : State :=
  let s := matrix 0
  s.setCore p0 { s.core p0 with mq := List.replicate 4 ((command false).core p0).mq |>.flatten }

theorem witness_MatrixWordsAppend_full : ∃ l : Loc, (fullQueue.core p0).mq.length = 4 ∧ fullQueue.running ∧
    fullQueue.checkTag 0 = .ok () ∧ (fullQueue.tileNow 0).typ = .int32 ∧ (∀ r < 32, (fullQueue.rowOf 0 0 r).fill = .full) ∧
    Reads2 fullQueue 2 3 0x8000000000004000 0 fullQueue ∧ fullQueue.checkAWindow 0x8000000000004000 = .ok l ∧
    fullQueue.checkScales (scaleCode false .int8 5) 0 0 4 = .ok fullQueue ∧ Reads2 fullQueue 2 4 0x8000000000004000 0x8000000000006000 fullQueue := by
  refine ⟨_, ?_, rfl, rfl, rfl, ?_, rfl, rfl, rfl, rfl⟩ <;> decide +kernel

/-- Each of the matrix words parks before it issues (11 R151). -/
theorem test_matrix_full : [Instr.mma 0 true (.window 2) 3, .mmas 0 true (.window 2) 3, .mtrans 0 2 3, .mperm 0 2 4, .mrsum 0 2].map (fun i =>
    nextIs (exec i fullQueue) (fun t => t == fullQueue.parkBefore .matrixQueue)) = List.replicate 5 true := by decide +kernel

/-- What running its blocks gives. -/
def ranOf (bad : Bool) : MatRun × State :=
  match (command bad).nextCore 0, (command bad).headReady 0 with
  | some (_, pos, left), some m =>
    ((command bad).setClusterAt 0 { (command bad).clusterAt 0 with muPos := pos, muLeft := left }).runBlocks p0 m m.formats.1
      m.formats.2 ((List.range (kOf m.formats.1 / 32)).filter (fun b => decide (m.block ≤ b)))
      ⟨accOf (vget ((command bad).coreAt 0).tiles m.tile Tile.reset), m.counts, none⟩
  | _, _ => (⟨[], [], none⟩, State.reset)

theorem witness_MatrixUnitRuns :
    (command false).nextCore 0 = some (0, 0, 0) ∧ nth (clusterCores 0) 0 1 = 0 ∧
    (((command false).headReady 0).map (fun m => (m.formats, m.tile, m.zero))) = some ((.int8, .int8), 0, false) ∧
    (ranOf false).1.hold = none ∧ (ranOf false).1.acc ≠ [] ∧ ((ranOf true).1.hold.map (·.1)) = some 3 ∧
    ((ranOf true).2.thread? p0).any (fun v => !v.quitting) = true := by
  and_intros <;> decide +kernel

/-- A held command: MFAULT names the block, and the slot owes cause 0x0B (11 R168). -/
theorem test_matrix_hold :
    nextIs (exec (.matrixCommandStart 0 0) (command true)) (fun t => decide (t.me.mfault.toNat % 8 = 3) && bit t.me.mfault.toNat 63 &&
      (t.me.owed.map (·.cause) == [0x0B]) && (((t.core p0).mq.map (·.held)) == [true])) = true := by decide +kernel

/-- A command with the zero option: a hold takes the option off (11 R168; log 40). -/
theorem test_matrix_zero :
    let s := command true
    let s : State := s.setCore p0 { s.core p0 with mq := (s.core p0).mq.map (fun m => { m with zero := true }) }
    nextIs (exec (.matrixCommandStart 0 0) s) (fun t => ((t.core p0).mq.map (fun m => (m.held, m.zero))) == [(true, false)]) = true := by
  decide +kernel

/-- MTC of MFAULT with HOLD = 0 resumes it at the block written (11 R168). -/
def heldCommand : State :=
  match exec (.matrixCommandStart 0 0) (command true) with
  | .next t => t.setMe { t.me with owed := [], status := 1 }
  | _ => State.reset

theorem witness_ControlRegisters_mfault : heldCommand.running ∧ wbit heldCommand.me.mfault 63 = true ∧
    (heldCommand.core p0).mq.map (fun m => (m.ctx, m.held, m.block)) = [(heldCommand.me.ctx, true, 3)] := by
  refine ⟨rfl, ?_⟩; decide +kernel

theorem test_mfault : nextIs (exec (.mtc .mfault 0) heldCommand) (fun t =>
    (t.core p0).mq.map (fun m => (m.held, m.resumed, m.block)) == [(false, true, 0)]) = true := by decide +kernel

/-- The command has run, after a hold and its resumption, and has counted one INEXACT. -/
def ranCommand : State :=
  let s := command false
  let s : State := s.setCore p0 { s.core p0 with
    mq := (s.core p0).mq.map (fun m => { m with done := true, resumed := true, counts := m.counts.set evInexact 3 }) }
  let s : State := s.setClusterAt 0 { s.clusterAt 0 with muRun := [(0, 7)] }
  s.setMe { s.me with mfault := w64 (2 ^ 63) }

theorem witness_MatrixCommandComplete :
    (ranCommand.clusterAt (0 * 32 + 0)).muRun = (0, 7) :: [] ∧
    ((ranCommand.coreAt 0).mq.find? (fun c => c.id == 7)).any (fun m => decide (m.tile < 8) && m.resumed && m.ctx == 1) = true ∧
    ranCommand.thread? ⟨0 / 256, 0 % 256, 0⟩ = some ranCommand.me ∧ ranCommand.me.ctx = 1 := by
  and_intros <;> first | decide +kernel | rfl

/-- At its completion the counts reach the core's counters, and MFAULT.VALID clears (11 R153, R168). -/
theorem test_matrix_complete : nextIs (exec (.matrixCommandComplete 0 0) ranCommand) (fun t =>
    vget (t.core p0).ev evInexact 0 == 3 && t.me.mfault == 0 && (t.core p0).mq.isEmpty) = true := by decide +kernel

theorem witness_BlockStep :
    (let a : List (List Nat) := List.replicate 32 (List.replicate 32 0xFF)
     let b : List (List Nat) := List.replicate 32 (List.replicate 32 2)
     let acc : List (List Nat) := List.replicate 32 (List.replicate 32 0x80000000)
     (nth a 31 []).length = 32 ∧ (nth b 31 []).length = 32 ∧
       nth (nth (blockStep .mma .int8 .int8 a b (fun _ => .val 1 0) (fun _ => .val 1 0) 0 acc).1 31 []) 31 0 = 0x80000000 ∧
       nth (nth (blockStep .mma .int8 .int8 a b (fun _ => .val 1 0) (fun _ => .val 1 0) 0 (List.replicate 32 (List.replicate 32 100))).1 31 []) 31 0 = 36) := by
  decide +kernel

/-- g2 = a source in the home polder; g3 = a WLOAD descriptor: LEN 64, OFF 2047. -/
def wl : State := world (thr 0 0x8000000000004000 (64 + 2046 * 2 ^ 18) 0)

/-- The load of it on its way. -/
def wlFlight : Flight :=
  { flightOf (.wload 3 0x8000000000004000 64 false) (.sram (homeByte p0 0x4000)) 0x8000000000004000 64 0 with id := 7 }

def wlComing : State :=
  let s : State := { wl with flights := [wlFlight], nextOp := 8 }
  (s.setWslot p0 3 ⟨.loading, 0, 0, [⟨0, 64, 7⟩], none⟩).writeSram (homeByte p0 0x4000) 1 0x5A

theorem witness_WeightSlots : ∃ (l : Loc) (s2 : State) (c : ClusterSt),
    (Reads2 wl 2 3 0x8000000000004000 (64 + 2046 * 2 ^ 18) wl ∧ (64 + 2046 * 2 ^ 18) / 2 ^ 31 = 0 ∧
      wlen (64 + 2046 * 2 ^ 18) = 64 ∧ woff (64 + 2046 * 2 ^ 18) + 64 ≤ 131072 ∧ wl.checkSlotDomain 3 = .ok () ∧
      wl.checkAccess 0x8000000000004000 64 64 needR = .ok (l, s2) ∧ (s2.cluster s2.cur).weirRegister s2.nextOp [(l, 64, false)] = .ok c) ∧
    (wlComing.flight? 7 = some wlFlight ∧ wlComing.slotInUse 0 3 false 7 = false ∧ wlComing.earlierDone 1 7 false true = true ∧
      poisonIn wlComing.sramPoison (homeByte p0 0x4000) 64 = false ∧
      wlComing.unread 0 3 7 = false ∧ wlComing.pastAcquires 1 7 = true ∧
      wlComing.pendingStores { wlFlight with kind := .load (.tile 0) } = [] ∧ (wlComing.wslot p0 3).st = .loading ∧
      (wlComing.wslot p0 3).recs.any (fun r => r.op == 7) = true) :=
  ⟨_, _, _, ⟨rfl, rfl, rfl, by decide, rfl, rfl, rfl⟩, rfl, rfl, rfl, rfl, rfl, rfl, rfl, rfl, rfl⟩

/-- A command that has yet to read slot w3 stands in the core's queue. -/
def wlRead (s : State) : State :=
  s.setCore p0 { s.core p0 with mq := (command false |>.core p0).mq.map (fun m => { m with form := .mma, gb := 3, id := 3 }) }

theorem witness_WeightSlots_later :
    wl.checkSlotDomain 3 = .ok () ∧ (wlRead wl).checkSlotDomain 3 = .ok () ∧
    (∀ k ∈ clusterCores (Party.clusterKey wl.cur), (wl.coreAt k).mq = []) ∧ (0 ∈ clusterCores 0) ∧
    ((wlRead wl).coreAt 0).mq.any (fun m => !m.done && m.wslot? == some 3 && decide (m.id < (wlRead wl).nextOp)) = true := by
  and_intros <;> first | decide +kernel | rfl

/-- A held command of the context waits for a repeat of the load that filled its slot (11 R154, R168). -/
def wlHeld : State :=
  let s := wlRead wl
  let r : WRec := ⟨0x8000000000004000, 64 + 2046 * 2 ^ 18, 2⟩
  let s : State := s.setWslot p0 3 ⟨.loaded, 0, 0, [r], none⟩
  s.setCore p0 { s.core p0 with mq := (s.core p0).mq.map (fun m => { m with held := true, recs := [r] }) }

/-- The repeat on its way. -/
def wlAgain : State :=
  { wlHeld with flights := [{ wlFlight with kind := .wload 3 0x8000000000004000 (64 + 2046 * 2 ^ 18) true }], nextOp := 8 }

theorem witness_WeightSlots_again :
    Reads2 wlHeld 2 3 0x8000000000004000 (64 + 2046 * 2 ^ 18) wlHeld ∧ wlHeld.checkSlotDomain 3 = .ok () ∧
    okIs (wlHeld.checkAccess 0x8000000000004000 64 64 needR) (fun o =>
      ((o.2.cluster o.2.cur).weirRegister o.2.nextOp [(o.1, 64, false)]).toOption.isSome) = true ∧
    (wlHeld.coreAt 0).mq.any (fun m => m.held && m.wslot? == some 3 && m.ctx == wlHeld.src.ctx &&
      m.recs.any (fun r => r.ga == 0x8000000000004000 && r.gb == 64 + 2046 * 2 ^ 18)) = true ∧
    wlAgain.unread 0 3 7 = true ∧ wlAgain.earlierDone 1 7 false true = true := by
  and_intros <;> first | decide +kernel | rfl

/-- It reaches the slot past the commands that have yet to read it. -/
theorem test_wload_again :
    (runs [.wload 3 2 3] wlHeld).map (fun t => t.flights.map (fun f => f.kind)) =
      some [.wload 3 0x8000000000004000 (64 + 2046 * 2 ^ 18) true] ∧
    nextIs (exec (.wloadComplete 7) (wlAgain.writeSram (homeByte p0 0x4000) 1 0x5A)) (fun t =>
      Memory.read t.wmem (weightBase 0 3 + woff (64 + 2046 * 2 ^ 18)) == 0x5A && t.flights.isEmpty) = true := by decide +kernel

/-- The slot is free at once for a WLOAD, but its bytes wait for the command (11 R157). -/
theorem test_wfree_later :
    nextIs (exec (.wfree 3) (wlRead wlComing)) (fun t => (t.wslot p0 3).isFree && (t.wslot p0 3).recs.length == 1) = true ∧
    (wlRead wlComing).slotInUse 0 3 false 7 = true := by decide +kernel

theorem test_weights :
    (runs [.wload 3 2 3] wl).map (fun t => (t.wslot p0 3).recs.length) = some 1 ∧
    nextIs (exec (.wloadComplete 7) wlComing) (fun t => decide ((t.wslot p0 3).st = .loaded) &&
      (Memory.read t.wmem (weightBase 0 3) == 0x5A)) = true ∧
    nextIs (exec (.wfree 3) wlComing) (fun t => t.wslot p0 3 == WSlot.reset) = true := by decide +kernel

/-- g2 = a local address, g3 = a transfer descriptor: stride 128, or with a conversion to INT8. -/
def tr (g3 : Word) : State :=
  let t : Thread := thr 0 0x8000000000004000 g3 0
  let s : State := world t
  s.setCore p0 { s.core p0 with tiles := (s.core p0).tiles.set 0 ⟨.int32, some 0, Tile.reset.rows.set 1 ⟨rowV (fun i => i), .full⟩⟩ }

theorem witness_TileTransfers : ∃ (ls ls2 ls3 : List (Nat × Loc)) (s2 s3 s4 : State),
    (Reads2 (tr 128) 2 3 0x8000000000004000 128 (tr 128) ∧ (tr 128).checkTag 0 = .ok () ∧ s2.checkRows 0 = .ok () ∧
      (tr 128).checkTransfer 0x8000000000004000 128 128 false = .ok () ∧
      State.checkTileRows 0x8000000000004000 128 128 needR (List.range 32) (tr 128) = .ok (ls, s2) ∧ s2.weirRows 128 false ls = .ok ()) ∧
    ((tr 128).checkTransfer 0x8000000000004000 128 128 true = .ok () ∧ ((tr 128).tileNow 0).oldestPoison = none ∧
      State.checkTileRows 0x8000000000004000 128 128 needW (List.range 32) (tr 128) = .ok (ls2, s3) ∧ s3.weirRows 128 true ls2 = .ok ()) ∧
    (let y := 128 + 5 * 2 ^ 24 + 2 ^ 28
     (tr (w64 y)).checkTransfer 0x8000000000004000 y 32 true = .ok () ∧
       State.checkTileRows 0x8000000000004000 128 32 needW (List.range 32) (tr (w64 y)) = .ok (ls3, s4) ∧ s4.weirRows 32 true ls3 = .ok ()) := by
  refine ⟨_, _, _, _, _, _, ⟨rfl, rfl, ?_, rfl, rfl, rfl⟩, ⟨rfl, rfl, rfl, rfl⟩, rfl, rfl, rfl⟩
  rfl

/-- The load of the tile on its way. -/
def mloading : Option State := runs [.mload .rlx .slot 0 2 3] (tr 128)

theorem witness_TileTransfers_row : someIs mloading (fun s => someIs (s.flight? 7) (fun f =>
    decide (f.kind = .load (.tile 0)) && f.parts.length == 256 &&
    (List.range 8).all (fun i => (f.parts[8 + i]?).any (fun p => p.loc == .sram (homeByte p0 0x4080 + 16 * i) && p.size == 16 && p.fail.isNone) &&
      s.mayPerform f (8 + i)) &&
    !poisonIn s.sramPoison (homeByte p0 0x4080) 128 && (s.pendingStores f).isEmpty && !s.discards f && !s.latched.contains f.id &&
    s.flights.all (fun e => !orderBefore e f) && decide ((s.rowOf 0 0 1).fill = .empty 7))) = true := by decide +kernel

theorem test_tile_transfer :
    (runs [.mload .rlx .slot 0 2 3, .mloadRowArrival 7 1] ((tr 128).writeSram (homeByte p0 0x4080) 1 0x77)).map (fun t => t.rowOf 0 0 1) =
      some ⟨0x77, .full⟩ ∧
    (runs [.mstore .rlx .slot 0 2 3, .storePerformed 7 8] (tr 128)).map (fun t => t.readSram (homeByte p0 0x4084) 8) =
      some 0x0000000200000001 ∧
    (runs [.mstore .rlx .slot 0 2 3, .storePerformed 7 2] (tr (w64 (128 + 5 * 2 ^ 24 + 2 ^ 28)))).map
      (fun t => t.readSram (homeByte p0 0x4080) 4) = some 0x03020100 := by decide +kernel

theorem witness_MwaitParks : wl.matrixIdle p0 1 = true ∧ wlComing.matrixIdle p0 1 = false := ⟨rfl, rfl⟩

/-! ### Witnesses and values: polders -/

/-- g2 = polder 8 of the cluster, g3 = window 1, g4 = window 5, which the unit holds, with polder 9. -/
def pol (f : List Flight) : State :=
  let t : Thread := { thr 0 8 1 5 with g := ((thr 0 8 1 5).g.set 5 (.empty 7)).set 6 (.val 0x101) }
  let s : State := { world t with flights := f, nextOp := 8 }
  let s : State := s.setWindow p0 5 (some ⟨.opened, 9, 0, 1, none⟩)
  (s.setAttach 9 ⟨.attached, 5, 0, 0, false, 0, 0, 0, 0, 3⟩).writeSram (polderBase 8) 4 0xDEADBEEF

theorem witness_PoldersAttachAndDetach_words : ∃ (n : Nat),
    Reads2 (pol []) 2 3 8 1 (pol []) ∧ (pol []).window? p0 1 = none ∧ (pol []).polderNamed p0 8 false = some n ∧ n = 8 ∧
    (pol []).checkAsync 1 = .ok () ∧
    Reads1 (pol []) 4 5 (pol []) ∧ (pol []).checkRelease = .ok () ∧ (pol []).heldWindow 5 = .ok (5, ⟨.opened, 9, 0, 1, none⟩) ∧
    (pol []).window? p0 63 = none ∧ (pol []).queried 5 = .ok (some 9) ∧ ((pol []).attachOf 9).dom = (pol []).src.dom ∧
    (pol []).checkDest 1 = .ok () :=
  ⟨_, rfl, rfl, rfl, rfl, rfl, ⟨rfl, rfl⟩, rfl, rfl, rfl, rfl, rfl, rfl⟩

def polFlight (k : FlightKind) : Flight := { flightOf k (.va 0) 0 0 0 with parts := [] }

theorem witness_PoldersAttachAndDetach_events :
    (let f := polFlight (.status (.attach 8 1 true 1) 5)
     (pol [f]).flight? 7 = some f ∧ vget (at0 (pol [f])).g 5 (.val 0) = .empty 7 ∧ ((pol [f]).attachOf 8).st = .detached ∧
       ((pol [f]).attachOf 8).dom = 0) ∧
    (let f := { polFlight (.status (.attach 9 1 true 1) 5) with dom := 3 }
     (pol [f]).flight? 7 = some f ∧ ((pol [f]).attachOf 9).st = .attached) ∧
    (let f := { polFlight (.status (.attach 8 1 true 1) 5) with dom := 3 }
     ((pol [f]).attachOf 8).dom ≠ f.dom) ∧
    (let f := polFlight (.detach 5 9)
     (pol [f]).polderIdle p0 9 7 = true ∧
       (pol [{ flightOf .store (.sram (polderBase 9)) 0x8000000000050000 8 0 with id := 6 }, f]).polderIdle p0 9 7 = false) ∧
    (let f := polFlight (.pzero 5 9)
     (pol [f]).flight? 7 = some f ∧ (pol [f]).polderIdle p0 9 7 = true) := by
  and_intros <;> first | decide +kernel | rfl

theorem test_polders :
    (runs [.attach 1 2 3, .attachPerform 8] (pol [])).map (fun t => ((t.attachOf 8).st, (t.attachOf 8).window,
      vget t.me.g 1 (.val 9), t.readSram (polderBase 8) 4)) = some (.attached, 1, .val 0, 0xDEADBEEF) ∧
    nextIs (exec (.attachPerform 7) (pol [{ polFlight (.status (.attach 8 1 false 1) 5) with dom := 3 }])) (fun t =>
      vget t.me.g 5 (.val 9) == .val 1 && t.readSram (polderBase 8) 4 == 0) = true ∧
    nextIs (exec (.attachPerform 7) (pol [polFlight (.status (.attach 9 1 false 1) 5)])) (fun t =>
      vget t.me.g 5 (.val 9) == .val 2 && (t.window? p0 1).isNone) = true ∧
    (runs [.detach 4, .detachFlip 8] (pol [])).map (fun t => ((t.attachOf 9).st, t.window? p0 5)) = some (.detached, none) ∧
    (runs [.pzero 4, .pzeroComplete 8] ((pol []).writeSram (polderBase 9) 1 7)).map (fun t => t.readSram (polderBase 9) 1) = some 0 ∧
    nextIs (exec (.pquery 1 4) (pol [])) (fun t => vget t.me.g 1 (.val 9) == .val (3 + 5 * 2 ^ 56 + 2 ^ 62)) = true := by
  decide +kernel

/-- An arrival with tag 1 that its core sees; and one that it has handed on and keeps. -/
def arrived : State :=
  let s := pol []
  (s.setCore p0 { s.core p0 with arrivals := [⟨8, 1, 0x21, none, 0, true, 3⟩], arrivalCount := 1 }).setAttach 8
    ⟨.handing, 0, 0, 0, false, 0, 0, 0, 0, 1⟩

theorem witness_PoldersHandOver : ∃ (n : Nat) (u : State) (k : Nat),
    (Reads2 (pol []) 4 3 5 1 (pol []) ∧ (pol []).checkRelease = .ok () ∧ (pol []).reachable 9 1 = true ∧ (pol []).bufferIn p0 9 = none ∧
      (1 : Word).toNat / 2 ^ 24 = 0) ∧
    (Reads2 arrived 3 6 1 0x101 arrived ∧ arrived.window? p0 1 = none ∧ arrived.checkDest 1 = .ok () ∧
      (arrived.core p0).arrivals.find? (fun e => e.seen) = some ⟨8, 1, 0x21, none, 0, true, 3⟩ ∧
      ((pol []).core p0).arrivals.find? (fun e => e.seen) = none) ∧
    ((pol []).heldWindow 5 = .ok (5, ⟨.opened, 9, 0, 1, none⟩) ∧ (pol []).reachable 9 0 = true) ∧
    (arrived.polderNamed p0 8 false = some n ∧ arrived.takeBack n = .ok u ∧ (pol []).takeBack 8 = .error k) ∧
    (let f := polFlight (.hand 5 9 1 0x33 (some 2) none)
     (pol [f]).flight? 7 = some f ∧ (pol [f]).polderIdle p0 9 7 = true ∧ ((pol [f]).core ⟨0, 1, 0⟩).arrivals.length < 16 ∧
       (pol [f]).handsAsked 0 1 = []) :=
  ⟨_, _, _, ⟨rfl, rfl, rfl, rfl, by decide⟩, ⟨rfl, rfl, rfl, rfl, rfl⟩, ⟨rfl, rfl⟩, ⟨rfl, rfl, rfl⟩, rfl, by decide +kernel, by decide +kernel, by decide +kernel⟩

/-- A flip to the same core asked before, with place 3; the HAND's own has not asked, or asked with place 2 or 4. -/
def handing (place : Option Nat) : State :=
  pol [{ polFlight (.hand 7 11 1 0x44 none (some 3)) with id := 5 }, polFlight (.hand 5 9 1 0x33 none place)]

theorem witness_HandFlip_waits :
    (handing none).polderIdle p0 9 7 = true ∧ (3 ∈ (handing none).handsAsked 0 1) ∧
    ((handing none).core ⟨0, 1, 0⟩).arrivals.length < 16 ∧ (handing (some 4)).polderIdle p0 9 7 = true ∧
    (3 ∈ (handing (some 4)).handsAsked 0 1) ∧ (∀ m ∈ (handing (some 2)).handsAsked 0 1, 2 ≤ m) ∧
    (pol [{ flightOf .store (.sram (polderBase 9)) 0x8000000000050000 8 0 with id := 6 },
      polFlight (.hand 5 9 1 0x33 none none)]).polderIdle p0 9 7 = false := by
  and_intros <;> decide +kernel

/-- The place is the next after those asked; the earlier one goes first (13 R180). -/
theorem test_hand_places :
    nextIs (exec (.handFlip 7) (handing none)) (fun t =>
      (t.flight? 7).map (·.kind) == some (.hand 5 9 1 0x33 none (some 4)) && (t.attachOf 9).st == .attached) = true ∧
    nextIs (exec (.handFlip 7) (handing (some 4))) (fun t => t == handing (some 4)) = true ∧
    nextIs (exec (.handFlip 7) (handing (some 2))) (fun t => (t.attachOf 9).st == .handing) = true := by decide +kernel

theorem test_hand_over :
    (runs [.hand 4 3, .handFlip 8, .polderArrival 8] (pol [])).map (fun t => ((t.attachOf 9).st, (t.attachOf 9).count,
      (t.core ⟨0, 1, 0⟩).arrivals.map (fun a => (a.polder, a.sender, a.seen)))) = some (.handing, 4, [(9, 0, true)]) ∧
    nextIs (exec (.pwait 1 3 6) arrived) (fun t => vget t.me.g 1 (.val 0) == .val (1 + 0x21 * 2 ^ 8 + 8 * 2 ^ 16) &&
      (t.window? p0 1).isSome) = true ∧
    nextIs (exec (.pwait 1 3 3) (pol [])) (fun t => t.issue.last == .parked) = true ∧
    nextIs (exec (.pkeep 1 4 3) (pol [])) (fun t => (t.attachOf 9).keeper == Config.posOf 1 && vget t.me.g 1 (.val 9) == .val 0) = true := by
  decide +kernel

/-! ### Witnesses and values: streams and channels -/

/-- Four-byte elements, two rows of buffer at 0x8000 of the home polder. -/
def qcw (out : Nat) : Nat := 2 * 2 ^ 22 + 2 * 2 ^ 32 + 256 * 2 ^ 7 + out * 2 ^ 35

/-- g2 = the descriptor's address, g3 = the control word; the descriptor names two rows of 32 words from 0x8000_0000_0000_C000. -/
def str (out : Nat) (streams : List (Nat × Stream)) : State :=
  let t : Thread := thr 0 0x8000000000007000 (w64 (qcw out)) 0
  let s : State := world { t with streams := Vector.ofFn (fun (i : Fin 8) => (streams.find? (fun e => e.1 == i.val)).map (·.2)) }
  let s : State := s.writeSram (homeByte p0 0x7000) 8 0x800000000000C000
  let s : State := s.writeSram (homeByte p0 0x7008) 8 (32 + 2 * 2 ^ 16 + 2 ^ 32 + 2 ^ 48)
  let s : State := s.writeSram (homeByte p0 0x7010) 8 (4 + 128 * 2 ^ 32)
  (s.writeSram (homeByte p0 0xC000) 8 0x0000000500000004).writeSram (homeByte p0 0xC080) 4 0x66

/-- The stream that SBIND makes, once its descriptor is read, with `moved` rows popped and `filled` read. -/
def bound (out moved filled : Nat) : Stream :=
  { (str out []).newStream (w64 (qcw out)) (.sram (homeByte p0 0x7000)) (homeByte p0 0x8000) with
    words := some [0x800000000000C000, 32 + 2 * 2 ^ 16 + 2 ^ 32 + 2 ^ 48, 4 + 128 * 2 ^ 32, 0, 0, 0, 0, 0]
    moved := moved
    filled := filled }

theorem witness_StreamWords_bind : ∃ (buf : Nat) (d1 d2 : Loc) (s1 s2 : State) (c : ClusterSt),
    (Reads2 (str 0 []) 2 3 0x8000000000007000 (w64 (qcw 0)) (str 0 []) ∧ (str 0 []).me.stream? 0 = none ∧ qcwOk (qcw 0) = true ∧
      (str 0 []).checkWindow (2 ^ 63 + 0x8000) = .ok buf ∧ (str 0 []).checkAccess 0x8000000000007000 64 64 needR = .ok (d1, s1) ∧
      s1.inService 0 0 < 16) ∧
    (qcwOk (qcw 1) = true ∧ (str 1 []).checkAccess 0x8000000000007000 64 64 needR = .ok (d2, s2) ∧ d2 = .sram (homeByte p0 0x7000) ∧
      poisonIn s2.sramPoison (homeByte p0 0x7000) 64 = false ∧ s2.checkPort d2 64 false = .ok () ∧
      s2.pendingStores s2.issueFlight = [] ∧ (bound 1 0 0).descOk = true ∧
      (s2.cluster p0).weirRange s2.nextOp (s2.weirRuns p0 (bound 1 0 0).range.1 (bound 1 0 0).range.2) = .ok c) :=
  ⟨_, _, _, _, _, _, ⟨rfl, rfl, rfl, rfl, rfl, by decide +kernel⟩, rfl, rfl, rfl, rfl, rfl, rfl, rfl, rfl⟩

theorem witness_StreamWords_bound :
    ((str 0 [(0, bound 0 1 2)]).me.stream? 0 = some (bound 0 1 2) ∧ (bound 0 1 2).outbound = false ∧
      (str 0 [(0, bound 0 1 2)]).checkDest 1 = .ok ()) ∧
    ((bound 1 1 1).outbound = true ∧ (str 0 [(1, bound 1 1 1)]).checkAsync 1 = .ok () ∧
      (str 0 [(1, bound 1 1 1)]).me.stream? 1 = some (bound 1 1 1)) ∧
    (str 0 []).me.stream? 0 = none ∧
    ((str 0 [(0, bound 0 1 2)]).aliasStream 24 = some (0, bound 0 1 2) ∧ (bound 0 1 2).qid = none ∧ (bound 0 1 2).words.isSome = true ∧
      (bound 0 1 2).fault = none ∧ (bound 0 1 2).moved < (bound 0 1 2).rows ∧ (bound 0 1 2).bad = []) ∧
    (bound 0 2 2).rows ≤ (bound 0 2 2).moved ∧ (bound 0 1 1).filled ≤ (bound 0 1 1).moved ∧ (bound 0 1 1).moved < (bound 0 1 1).rows := by
  and_intros <;> first | decide +kernel | rfl

theorem test_streams :
    (runs [.sbind 0 2 3, .streamDescriptorRead p0 0, .streamFill p0 0, .streamFill p0 0] (str 0 [])).map (fun t =>
      ((t.me.stream? 0).map (fun x => (x.filled, x.fault)), t.readSram (homeByte p0 0x8000) 8, t.readSram (homeByte p0 0x8080) 8)) =
      some (some (2, none), 0x0000000500000004, 0x66) ∧
    okIs ((str 0 [(0, bound 0 1 2)]).readV 24) (fun x => (x.2.me.stream? 0).map (·.moved) == some 2) = true ∧
    okIs ((str 0 [(0, bound 0 2 2)]).readV 24) (fun _ => true) = false ∧
    (runs [.sstat 1 0] (str 0 [(0, bound 0 1 2)])).map (fun t => vget t.me.g 1 (.val 0)) = some (.val 0x8000004000000001) ∧
    (runs [.sflush 1 0] (str 0 [(0, bound 0 1 2)])).map (fun t => (vget t.me.g 1 (.val 0), (t.me.stream? 0).map (·.filled))) =
      some (.val 1, some 1) ∧
    (runs [.sfree 0] (str 0 [(0, bound 0 1 2)])).map (fun t => (t.me.stream? 0).isNone) = some true := by decide +kernel

/-- A row on its way to the pattern of an outbound stream. -/
def rowFlight : Flight := flightOf (.row (bound 1 1 0).op 1 0 (homeByte p0 0x8000)) (.sram (homeByte p0 0xC000)) 0x800000000000C000 4 0x77

/-- Whether row r of a stream passes its checks and its elements are read. -/
def rowReads (s : State) (x : Stream) (r : Nat) : Bool :=
  match s.rowCheck p0 none x r with
  | (.ok ls, s1) =>
    match s1.readElems (x.flight p0 1) x.esize ls with
    | (.ok _, _) => true
    | _ => false
  | _ => false

def rowBad (s : State) (x : Stream) (r : Nat) : Bool :=
  match s.rowCheck p0 none x r with
  | (.bad _, _) => true
  | _ => false

theorem witness_StreamTransfers :
    (let x : Stream := { bound 0 0 0 with words := none }
     x.words = none ∧ (at0 (str 0 [(0, x)])).stream? 0 = some x ∧ x.desc = .sram (homeByte p0 0x7000) ∧
       poisonIn (str 0 []).sramPoison (homeByte p0 0x7000) 64 = false ∧ (str 0 [(0, x)]).pendingStores (x.flight p0 1) = []) ∧
    ((str 0 [(0, bound 0 0 1)]).mayFill (at0 (str 0 [(0, bound 0 0 1)])) (bound 0 0 1) = true ∧ (bound 0 0 1).claims = [] ∧
      0 < (bound 0 0 1).depth ∧ rowReads (str 0 [(0, bound 0 0 1)]) (bound 0 0 1) 1 = true) ∧
    rowBad (str 0 []) { bound 0 0 0 with words := some [2 ^ 60, 32 + 2 ^ 16 + 2 ^ 32 + 2 ^ 48, 4, 0, 0, 0, 0, 0] } 0 = true ∧
    (let s : State := { str 0 [(1, bound 1 1 0)] with flights := [rowFlight], nextOp := 8 }
     s.flight? 7 = some rowFlight ∧ s.mayPerform rowFlight 0 = true) := by
  and_intros <;> decide +kernel

/-- A token queue's descriptor is to be read, with queue number 2; `taken` says whether the core has that queue already. -/
def tokenDesc (taken : Bool) : State :=
  let x : Stream := { bound 0 0 0 with words := none, qcw := w64 (2 * 2 ^ 22 + 7 * 2 ^ 32 + 256 * 2 ^ 7) }
  let s := str 0 ((0, x) :: (if taken then [(1, { x with qid := some 2 })] else []))
  ((s.writeSram (homeByte p0 0x7000) 64 0).writeSram (homeByte p0 0x7020) 8 (2 ^ 56 + 2 * 2 ^ 48))

theorem witness_StreamTransfers_tokens :
    (tokenDesc false).tokenQueue 0 0 2 = none ∧ ((tokenDesc true).tokenQueue 0 0 2).isSome = true ∧
    (tokenDesc false).pendingStores (({ bound 0 0 0 with words := none } : Stream).flight p0 1) = [] ∧
    ((at0 (tokenDesc true)).stream? 0).any (fun x => x.words.isNone && x.bad.isEmpty) = true := by
  and_intros <;> first | decide +kernel | rfl

/-- The stream takes the queue number, or fault 7 where its core has that queue (19 R256, R284). -/
theorem test_token_descriptor :
    nextIs (exec (.streamDescriptorRead p0 0) (tokenDesc false)) (fun t =>
      (t.me.stream? 0).map (fun x => (x.qid, x.fault)) == some (some 2, none)) = true ∧
    nextIs (exec (.streamDescriptorRead p0 0) (tokenDesc true)) (fun t => (t.me.stream? 0).map (·.fault) == some (some 7)) = true := by
  decide +kernel

/-- SSTAT and SFLUSH count the rows since SBIND, those before a re-binding among them (19 R261, R263). -/
theorem test_stream_rows_before :
    (runs [.sstat 1 0] (str 0 [(0, { bound 0 1 2 with before := 5 })])).map (fun t => vget t.me.g 1 (.val 0)) =
      some (.val 0x8000004000000006) ∧
    (runs [.sflush 1 0] (str 0 [(0, { bound 0 1 2 with before := 5 })])).map (fun t => vget t.me.g 1 (.val 0)) = some (.val 6) := by
  decide +kernel

theorem test_stream_drain :
    nextIs (exec (.streamDrain p0 1) ({ str 0 [(1, bound 1 1 0)] with flights := [rowFlight], nextOp := 8 })) (fun t =>
      t.readSram (homeByte p0 0xC000) 8 == 0x0000000500000077 && (t.me.stream? 1).map (·.filled) == some 1) = true ∧
    nextIs (exec (.streamFill p0 0) (str 0 [(0, { bound 0 0 0 with words := some [2 ^ 60, 32 + 2 ^ 16 + 2 ^ 32 + 2 ^ 48, 4, 0, 0, 0, 0, 0] })]))
      (fun t => (t.me.stream? 0).map (·.fault) == some (some 6)) = true := by decide +kernel

theorem witness_StreamElements : (1 : Nat) < 32 ∧ (1 : Nat) < 2 ∧ (bound 0 0 0).word 1 = 32 + 2 * 2 ^ 16 + 1 * 2 ^ 32 + 1 * 2 ^ 48 ∧
    (bound 0 0 0).elemAddr (1 + 32 * (1 + 2 * (0 + 1 * 0))) = 0x800000000000C084 := by decide +kernel

/-- An acquire of slot 0 that is on its way, and the stream of its descriptor, which follows it or does not. -/
def acqAhead (after : Nat) : State :=
  { str 0 [(0, { bound 0 0 0 with words := none, after := after })] with
    flights := [{ flightOf (.load (.g 1 true)) (.va 0) 0 8 0 with ord := .acq, ctx := 1 }], nextOp := 8 }

theorem witness_StreamTransfers_acquires :
    (acqAhead 8).pastAcquires 1 8 = false ∧ (acqAhead 7).pastAcquires 1 7 = true ∧
    nextIs (exec (.streamDescriptorRead p0 0) (acqAhead 8)) (fun t => (t.me.stream? 0).map (·.words) == some none) = true ∧
    nextIs (exec (.streamDescriptorRead p0 0) (acqAhead 7)) (fun t => (t.me.stream? 0).any (·.words.isSome)) = true := by
  decide +kernel

/-- g2 = endpoint 0 of slot 1 of the core, g3 = an outbound binding, g4 = an inbound one with 4 grants. -/
def chn (chans : List (Nat × Chan)) (f : List Flight) : State :=
  let t : Thread := { thr 0 0x100 0x80 4 with
    chans := Vector.ofFn (fun (i : Fin 8) => (chans.find? (fun e => e.1 == i.val)).map (·.2)) }
  let u : Thread := { thr 0 0 0 0 with ctx := 2, chans := (thr 0 0 0 0).chans.set 0 (some { endpoint false .opened 0 0 0 with peer := p0, conn := some 3, g := 4 }) }
  { world t with threads := [(0, t), (1, u)], flights := f, nextOp := 8 }

theorem witness_Channels_words : ∃ i : Nat,
    (Reads2 (chn [] []) 2 3 0x100 0x80 (chn [] []) ∧ (chn [] []).me.chan? 0 = none ∧ chanOperandsOk 0x100 0x80 = true ∧
      (chn [] []).corePresent 0 0 = true ∧ (chn [] []).inPartition p0 (chn [] []).src 0 0 = true) ∧
    (Reads2 (chn [] []) 2 4 0x100 4 (chn [] []) ∧ chanOperandsOk 0x100 4 = true ∧
      (List.range 8).find? (fun i => !((chn [] []).rbufs p0).contains i) = some i) ∧
    ((chn [(1, endpoint false .opened 31 1 0)] []).me.chan? 1 = some (endpoint false .opened 31 1 0) ∧
      Reads1 (chn [(1, endpoint false .opened 31 1 0)] []) 4 4 (chn [(1, endpoint false .opened 31 1 0)] []) ∧
      (chn [(1, endpoint false .opened 31 1 0)] []).checkDest 1 = .ok ()) ∧
    (Nat.testBit 4 2 = true ∧ (chn [(2, endpoint false .opened 0 0 0)] []).src.chan? 2 = some (endpoint false .opened 0 0 0)) :=
  ⟨_, ⟨rfl, rfl, rfl, rfl, rfl⟩, ⟨rfl, rfl, rfl⟩, ⟨rfl, ⟨rfl, rfl⟩, rfl⟩, rfl, rfl⟩

theorem test_channels :
    (runs [.cbind 3 2 3] (chn [] [])).map (fun t => ((t.me.chan? 3).map (·.out), t.flights.length)) = some (some true, 1) ∧
    (runs [.cbind 3 2 4] (chn [] [])).map (fun t => (t.me.chan? 3).map (·.g)) = some (some 4) ∧
    (runs [.cpoll 1 1] (chn [(1, endpoint false .opened 31 1 0)] [])).map (fun t => vget t.me.g 1 (.val 0)) = some (.val 1) ∧
    (runs [.cgrant 1 1 4] (chn [(1, endpoint false .opened 31 1 0)] [])).map (fun t => (vget t.me.g 1 (.val 0), t.flights.length)) =
      some (.val 4, 1) ∧
    (runs [.alt 1 4] (chn [(2, endpoint false .opened 0 1 0)] [])).map (fun t => vget t.me.g 1 (.val 0)) = some (.val 2) ∧
    (runs [.alt 1 4] (chn [(2, endpoint false .opened 0 0 0)] [])).map (fun t => t.issue.last) = some .parked ∧
    (runs [.cfree 2] (chn [(2, endpoint false .opened 0 0 0)] [])).map (fun t => (t.me.chan? 2).isNone) = some true := by decide +kernel

def chFlight (k : FlightKind) : Flight := { flightOf k (.va 0) 0 0 0 with parts := [] }

/-- Slot 0 waits for a word on c1, whose peer is on its own die, for more than 5 cycles; and c1 outbound, with connection 5. -/
def waits (waited bto : Nat) : State :=
  let s := chn [(1, endpoint false .opened 31 0 0)] []
  { s with threads := [(0, { at0 s with park := some ⟨.word 1 1, false, waited, false⟩, btoDie := bto })] }

theorem witness_Channels_events :
    (let f := chFlight (.connect 0 ⟨0, 0, 1⟩ 0)
     let s := chn [(0, { endpoint true .waiting 0 0 0 with conn := none })] [f]
     s.flight? 7 = some f ∧ ((s.thread ⟨0, 0, 1⟩).chan? 0).map (fun c => (c.out, c.peer, c.ep)) = some (false, p0, 0) ∧
       (s.me.chan? 0).isSome = true) ∧
    (let f := chFlight (.word 5 0xABC)
     let s := chn [(1, endpoint false .opened 31 1 0)] [f]
     s.flight? 7 = some f ∧ f.moved = false ∧ s.earlierWord f 5 = false ∧ s.mayPerform f 0 = true ∧
       s.endpoint 5 false = some (p0, 1, endpoint false .opened 31 1 0)) ∧
    (let f := chFlight (.grant 5 3)
     let s := chn [(1, endpoint true .opened 0 0 0)] [f]
     s.flight? 7 = some f ∧ s.endpoint 5 true = some (p0, 1, endpoint true .opened 0 0 0)) ∧
    ((waits 5 5).wakes p0 (at0 (waits 5 5)) (.word 1 1) = false ∧ ParkWhy.endpoints (.word 1 1) = [1] ∧
      (at0 (waits 6 5)).park = some ⟨.word 1 1, false, 6, false⟩ ∧
      ((at0 (waits 6 5)).chan? 1).map (fun c => c.peer.die) = some 0) := by
  and_intros <;> first | decide +kernel | rfl

/-- The connect's thread is saved. -/
def connSaved : State :=
  let s := chn [(0, { endpoint true .waiting 0 0 0 with conn := none })] [chFlight (.connect 0 ⟨0, 0, 1⟩ 0)]
  { s with saved := [⟨0, p0, s.me, none, 0, [], [], [], [], 0, 0, 0, none⟩] }

theorem witness_Channels_saved : connSaved.flight? 7 = some (chFlight (.connect 0 ⟨0, 0, 1⟩ 0)) ∧
    connSaved.saved.any (fun x => x.thread.ctx == (chFlight (.connect 0 ⟨0, 0, 1⟩ 0)).ctx) = true := by decide +kernel

theorem test_channel_events :
    nextIs (exec (.channelConnect 7) connSaved) (fun t => (t.flight? 7).isSome) = true ∧
    nextIs (exec (.channelConnect 7) (chn [(0, { endpoint true .waiting 0 0 0 with conn := none })] [chFlight (.connect 0 ⟨0, 0, 1⟩ 0)]))
      (fun t => (t.me.chan? 0).map (fun c => (c.st, c.a, c.conn)) == some (.opened, 4, some 3)) = true ∧
    nextIs (exec (.channelConnect 7) (chn [(0, { endpoint true .waiting 0 0 0 with conn := none })]
      [{ chFlight (.connect 0 ⟨0, 0, 1⟩ 0) with dom := 9 }])) (fun t => (t.me.chan? 0).map (·.st) == some .refused) = true ∧
    nextIs (exec (.channelWordArrival 7) (chn [(1, endpoint false .opened 31 1 0)] [chFlight (.word 5 0xABC)])) (fun t =>
      (t.me.chan? 1).map (·.b) == some 2 && t.readSram (homeByte p0 0x0800) 8 == 0xABC) = true ∧
    nextIs (exec (.channelGrantArrival 7) (chn [(1, endpoint true .opened 0 0 0)] [chFlight (.grant 5 3)])) (fun t =>
      (t.me.chan? 1).map (·.a) == some 3) = true ∧
    nextIs (exec (.channelTimeout p0) (waits 6 5)) (fun t => t.me.ecause == 0x0D && t.me.einfo == 0x16) = true ∧
    nextIs (exec (.channelTimeout p0) (waits 5 5)) (fun t => t.me.ecause == 0) = true := by decide +kernel

/-- An outbound stream 1 beside a bound tile of INT8, for VINS into it. -/
def vinsInto : State :=
  let s := str 0 [(1, bound 1 0 0)]
  let s : State := s.setMe { s.me with tile := some 0, g := (s.me.g.set 2 (.val 0x33)).set 3 (.val 2) }
  s.setCore p0 { s.core p0 with tiles := (s.core p0).tiles.set 0 ⟨.int8, some 0, Tile.reset.rows⟩ }

theorem witness_VectorMovesAndPermutes_stream : vinsInto.src.tile = some 0 ∧ vinsInto.readQ 0 = .ok 128 ∧
    Reads2 vinsInto 2 3 0x33 2 vinsInto ∧ okIs (vinsInto.checkDestV 25) (fun _ => true) = true ∧
    (vinsInto.aliasStream 25).map (·.1) = some 1 ∧ (vinsInto.me.stream? 1).map (·.moved) = some 0 := by
  refine ⟨rfl, rfl, rfl, ?_⟩; decide +kernel

/-- VINS pushes a row (19 R254). -/
theorem test_vins_stream : nextIs (exec (.vins 0 25 2 3) vinsInto) (fun t => t.issue.last == .done &&
    (t.me.stream? 1).map (fun x => (x.moved, x.filled)) == some (1, 0)) = true := by decide +kernel

/-- The bundle popped the one word of c2 before ALT; and c2 holds a second one. -/
def popped (left : Nat) : State :=
  let s := chn [(2, endpoint false .opened 31 (left + 1) 0)] []
  { s with issue := { s.issue with pre := some ⟨s.me, (s.core p0).tiles, none⟩ } }.setMe { s.me with chans := (s.me.chans.set 2 (some (endpoint false .opened 32 left 0))) }

/-- ALT names an endpoint that still holds a word, else one that held it before its bundle's pops (log 125). -/
theorem witness_Channels_alt :
    [0, 1].map (fun n => ((popped n).me.chan? 2).map (·.b)) = [some 0, some 1] ∧
    [0, 1].map (fun n => ((popped n).src.chan? 2).map (·.b)) = [some 1, some 2] ∧
    [0, 1].all (fun n => nextIs (exec (.alt 1 4) (popped n)) (fun t => vget t.me.g 1 (.val 0) == .val 2)) = true := by decide +kernel

/-- A connect for a place whose endpoint has connection 3, of which a word is still on its way. -/
def reconnect (w : List Flight) : State :=
  chn [(0, { endpoint true .waiting 0 0 0 with conn := none })] (chFlight (.connect 0 ⟨0, 0, 1⟩ 0) :: w)

theorem witness_Channels_connect :
    (((reconnect []).thread? ⟨0, 0, 1⟩).bind (·.chan? 0)).map (·.conn) = some (some 3) ∧
    [[], [{ chFlight (.word 3 1) with id := 5 }]].map (fun w => (runs [.channelConnect 7] (reconnect w)).map (fun t =>
      (t.me.chan? 0).map (·.st))) = [some (some .opened), some (some .waiting)] := by decide +kernel

/-- c1 inbound with connection 5, and its outbound endpoint, which has moved to d1. -/
def peerMoved (waited : Nat) : State :=
  let s := waits waited 5
  { s with threads := (s.threads.map (fun e => (e.1, { e.2 with btoPkg := 9 }))) ++
    [(Party.key ⟨1, 0, 0⟩, { thr 0 0 0 0 with ctx := 5, chans := (thr 0 0 0 0).chans.set 4 (some (endpoint true .opened 0 0 0)) })] }

/-- The limit is that of the die where the peer is now (19 R270). -/
theorem witness_Channels_limit : (peerMoved 6).peerPlace (endpoint false .opened 31 0 0) = ⟨1, 0, 0⟩ ∧
    (waits 6 5).peerPlace { endpoint false .opened 31 0 0 with conn := none } = ⟨0, 0, 1⟩ ∧
    [6, 10].map (fun n => (runs [.channelTimeout p0] (peerMoved n)).map (fun t => t.me.ecause)) = [some 0, some 0x0D] := by decide +kernel

/-! ### Witnesses and values: copies, barriers, routing, revisions -/

/-- g2 = a copy descriptor: 32 bytes from 0x8000 to 0xC000 of the home polder, with a flag at 0x5000. -/
def cop (flag full : Nat) : State :=
  let s : State := mapped (world (thr 0 0x8000000000007000 0 0))
  let s : State := s.writeSram (homeByte p0 0x7000) 8 0x800000000000C000
  let s : State := s.writeSram (homeByte p0 0x7008) 8 0x8000000000008000
  let s : State := (s.writeSram (homeByte p0 0x7010) 8 32).writeSram (homeByte p0 0x7018) 8 flag
  let s : State := (s.writeSram (homeByte p0 0x8000) 8 0x1111).writeSram (homeByte p0 0x8010) 8 0x2222
  let c : Copy := { (s.newCopy (.sram 0) (.sram 64) ⟨0, 0, 16, 0, true⟩ false .slot) with op := 3, ctx := 9 }
  s.setDie 0 { s.dieAt 0 with engines := (List.range (Config.engines 0)).map (fun e => (e, ⟨List.replicate full c⟩)) }

/-- The hypotheses of a copy word. -/
def copyHyps (s : State) (xc : Bool) : Bool :=
  okIs (s.checkAccess 0x8000000000007000 32 32 needR) (fun o =>
    let w (j : Nat) : Nat := o.2.readSram (homeByte p0 0x7000 + 8 * j) 8
    o.1 == .sram (homeByte p0 0x7000) && !poisonIn o.2.sramPoison (homeByte p0 0x7000) 32 && (o.2.pendingStores o.2.issueFlight).isEmpty &&
      okIs (o.2.checkPort (.sram (homeByte p0 0x7000)) 32 false) (fun _ => true) &&
      w 0 % 16 == 0 && w 1 % 16 == 0 && w 2 == 32 && (xc || w 3 == 0) && decide (w 1 + w 2 ≤ w 0) &&
    okIs (o.2.checkAccess (w 1) (w 2) 16 needR) (fun a => okIs (a.2.checkAccess (w 0) (w 2) 16 needW) (fun b =>
      okIs (if xc then b.2.checkGlobal (w 3) 4 needW else .ok b.2) (fun s5 =>
        (weirRegConflict (s5.cluster s5.cur).weir b.1 32 true).isNone && (weirRegConflict (s5.cluster s5.cur).weir a.1 32 false).isNone &&
          okIs (s5.checkDest 1) (fun _ => true)))))

theorem witness_Copies_words : (cop 0 0).running ∧ (cop 0 0).checkRelease = .ok () ∧
    Reads1 (cop 0 0) 2 0x8000000000007000 (cop 0 0) ∧ copyHyps (cop 0 0) false = true ∧ copyHyps (cop 0x5000 0) true = true ∧
    (cop 0 0).pickEngine 0 = some 0 ∧ (cop 0 16).pickEngine 0 = none ∧
    ((List.range 32).filter (fun j => (vget ((cop 0 0).cluster p0).weir j none).isNone)).length = 32 ∧
    (cop 0 0).copiesOf 1 = [] ∧ (cop 0 1).copiesOf 9 ≠ [] := by
  refine ⟨rfl, rfl, ⟨rfl, rfl⟩, ?_⟩; decide +kernel

theorem test_copies :
    (runs [.copy .slot 1 2, .copyEngineStart 0 0 [1], .copyEngineComplete 0 0] (cop 0 0)).map (fun t => (vget t.me.g 1 (.val 9),
      t.readSram (homeByte p0 0xC000) 8, t.readSram (homeByte p0 0xC010) 8, (t.engine 0 0).queue.length)) = some (.val 0, 0x1111, 0x2222, 0) ∧
    (runs [.copy .slot 1 2, .copyEngineStart 0 0 [1]] (cop 0 0)).map (fun t => (t.readSram (homeByte p0 0xC000) 8,
      t.readSram (homeByte p0 0xC010) 8)) = some (0, 0x2222) ∧
    (runs [.copy .slot 1 2] (cop 0 16)).map (fun t => vget t.me.g 1 (.val 9)) = some (.val 1) ∧
    (runs [.copy .slot 1 2, .cwait .slot] (cop 0 0)).map (fun t => t.issue.last) = some .parked ∧
    (runs [.xcopy .slot 1 2, .copyEngineComplete 0 0] (cop 0x5000 0)).map (fun t => vget t.me.g 1 (.val 9)) = some (.val 0) := by
  decide +kernel

/-- A copy that runs: 32 bytes between polders; and one whose destination is not mapped. -/
def copyOf (dst : Loc) : Copy :=
  { (cop 0 0).newCopy dst (.sram (homeByte p0 0x8000)) ⟨0x2000000000, 0x8000000000008000, 32, 0, true⟩ false .slot with op := 7 }

def copying (c : Copy) : State :=
  { (cop 0 0).setEngine 0 0 ⟨[c]⟩ with nextOp := 8 }

theorem witness_Copies_engines :
    ((copying (copyOf (.sram (homeByte p0 0xC000)))).runnable 0 0 = some (copyOf (.sram (homeByte p0 0xC000))) ∧
      poisonIn (cop 0 0).sramPoison (homeByte p0 0x8000) 32 = false ∧
      (copying (copyOf (.sram (homeByte p0 0xC000)))).pendingStores (copyOf (.sram (homeByte p0 0xC000))).flight = []) ∧
    (let c := copyOf (.va 0x2000000000)
     (copying c).runnable 0 0 = some c ∧
       (((copying c).moveGranules c c.left []).1.map (fun x => (x.1, x.2.2))) = some (0, 0x2000000000) ∧
       ((copying c).moveGranules c c.left []).2.2.thread? p0 = some (cop 0 0).me ∧ (cop 0 0).me.ctx = c.ctx ∧
       (cop 0 0).me.quitting = false) := by
  and_intros <;> decide +kernel

theorem test_copy_fault : nextIs (exec (.copyEngineFault 0 0) (copying (copyOf (.va 0x2000000000)))) (fun t =>
    t.me.held.length == 1 && t.me.owed.length == 1) = true := by decide +kernel

/-- A barrier of two members, of which the first, or both, have arrived; slot 0 waits for it. -/
def bars (arr : List (Member × Nat)) (t : Thread) : State :=
  let s : State := { world t with threads := [(0, t), (1, { thr 0 0 0 0 with ctx := 2 })] }
  s.setBarrier 0 3 { Barrier.reset with members := [⟨p0, 1⟩, ⟨⟨0, 0, 1⟩, 2⟩], phase := 5, arrived := arr }

def both : List (Member × Nat) := [(⟨p0, 1⟩, 3), (⟨⟨0, 0, 1⟩, 2⟩, 4)]

def waiter (waited bto : Nat) : Thread :=
  { thr 0 0 0 0 with arrived := [(3, ⟨3, 5, none⟩)], park := some ⟨.barw 3 5 1, true, waited, false⟩, btoDie := bto }

theorem witness_Barriers :
    ((bars [] (thr 0 1 0 0)).running ∧ (bars [] (thr 0 1 0 0)).checkRelease = .ok () ∧
      Reads1 (bars [] (thr 0 1 0 0)) 2 1 (bars [] (thr 0 1 0 0)) ∧ ((bars [] (thr 0 1 0 0)).barrier 0 3).dom = 0 ∧
      ((bars [] (thr 0 1 0 0)).barrier 0 4).members = [] ∧ ((bars [] (thr 0 1 0 0)).barrier 0 4).changed.members = []) ∧
    (((bars [] (thr 0 1 0 0)).barrier 0 3).member 1 = true ∧ ((bars [] (thr 0 1 0 0)).barrier 0 3).hasArrived 1 = false ∧
      (bars [] (thr 0 1 0 0)).checkDest 1 = .ok () ∧ (bars [] (thr 0 1 0 0)).checkAsync 1 = .ok ()) ∧
    (tget (thr 0 1 0 0).arrived 3 = none ∧ tget ({ thr 0 1 0 0 with arrived := [(3, ⟨3, 5, some 1⟩)] } : Thread).arrived 3 = some ⟨3, 5, some 1⟩ ∧
      tget (waiter 0 0).arrived 3 = some ⟨3, 5, none⟩) ∧
    okIs ((mapped (bars [] (thr 0 0x5000 0 0))).checkAccess 0x5000 136 8 needW) (fun _ => true) = true ∧
    ((bars both (waiter 0 0)).phaseDone ((bars both (waiter 0 0)).barrier 0 3) = true ∧
      (bars [(⟨p0, 1⟩, 3)] (waiter 0 0)).phaseDone ((bars [(⟨p0, 1⟩, 3)] (waiter 0 0)).barrier 0 3) = false ∧
      ((bars both (waiter 0 0)).barrier 0 3).csums = [] ∧ ((bars both (waiter 0 0)).barrier 0 3).changes = [] ∧
      (∀ e ∈ (bars both (waiter 0 0)).threads, e.2.ctx = 1 → e = (0, waiter 0 0)) ∧ (bars both (waiter 0 0)).saved = []) ∧
    ((waiter 5 5).park = some ⟨.barw 3 5 1, true, 5, false⟩ ∧ (waiter 6 5).btoDie = 5) := by
  refine ⟨⟨rfl, rfl, ⟨rfl, rfl⟩, ?_, ?_, ?_⟩, ⟨?_, ?_, rfl, rfl⟩, ?_⟩ <;> decide +kernel

theorem test_barriers :
    (runs [.barm 2 4] (bars [] (thr 0 1 0 0))).map (fun t => (t.barrier 0 4).member 1) = some true ∧
    (runs [.bara 1 3] (bars [] (thr 0 1 0 0))).map (fun t => (vget t.me.g 1 (.val 9), (t.barrier 0 3).hasArrived 1)) = some (.val 5, true) ∧
    (runs [.barr 1 3] (bars [] (thr 0 1 0 0))).map (fun t => t.issue.last) = some .parked ∧
    (runs [.barw 1 3] (bars [] { thr 0 1 0 0 with arrived := [(3, ⟨3, 5, some 1⟩)] })).map (fun t => vget t.me.g 1 (.val 9)) = some (.val 1) ∧
    (runs [.bto false 2, .bto true 3] (bars [] (thr 0 7 8 0))).map (fun t => (t.me.btoDie, t.me.btoPkg)) = some (7, 8) ∧
    (runs [.csum 2 3] (mapped (bars [] (thr 0 0x5000 0 0)))).map (fun t => (t.barrier 0 3).csums.length) = some 1 ∧
    nextIs (exec (.barrierComplete 0 3) (bars both (waiter 0 0))) (fun t => (t.barrier 0 3).phase == 6 && t.me.park == none &&
      vget t.me.g 1 (.val 9) == .val 0 && t.me.pc == 0x104) = true ∧
    nextIs (exec (.barrierTimeout p0) (bars both (waiter 6 5))) (fun t => t.me.ecause == 0x15 && t.me.einfo == 0x31) = true ∧
    nextIs (exec (.barrierTimeout p0) (bars both (waiter 5 5))) (fun t => t.me.ecause == 0) = true := by decide +kernel

/-- Both members have arrived, and slot 1's leave waits; the core has a pending SLOTTAB; with one CSUM record, of slot 0. -/
def barsChange (csums : List CsumRec) : State :=
  let s := bars both (waiter 0 0)
  let s : State := s.setBarrier 0 3 { s.barrier 0 3 with changes := [(⟨⟨0, 0, 1⟩, 2⟩, false)], csums := csums }
  let s : State := mapped s
  s.setCore p0 { s.core p0 with slottab := 5, slottabNext := some 6, ev := (s.core p0).ev.set 2 9 }

def oneCsum : CsumRec := ⟨⟨p0, 1⟩, 0x5000, 0, 0, false, 0x100, 5⟩

theorem witness_Barriers_complete : [[], [oneCsum]].all (fun c => (barsChange c).phaseDone ((barsChange c).barrier 0 3)) = true ∧
    ((barsChange [oneCsum]).barrier 0 3).changes = [(⟨⟨0, 0, 1⟩, 2⟩, false)] ∧ ((barsChange [oneCsum]).barrier 0 3).counts = [] ∧
    (barsChange [oneCsum]).revs = [] ∧ ((barsChange [oneCsum]).barrier 0 3).csums = [oneCsum] ∧
    oneCsum.phase = ((barsChange [oneCsum]).barrier 0 3).phase := by
  decide +kernel

/-- The leave takes effect, the core takes its table, and the record gives the counts of one core (03 R42, 19 R275, R280). -/
theorem test_barrier_complete : nextIs (exec (.barrierComplete 0 3) (barsChange [oneCsum])) (fun t =>
    (t.barrier 0 3).members == [⟨p0, 1⟩] && (t.core p0).slottab == 6 && (t.core p0).slottabNext == none &&
    Memory.readN t.mem 0x5000 8 == 0 && Memory.readN t.mem 0x5010 8 == 9 && Memory.readN t.mem 0x5080 8 == 1) = true := by decide +kernel

/-- A BARR that waits before its arrival, for its earlier accesses, again or for the first time. -/
def barrWaits (again : Bool) (waited : Nat) : State :=
  let s := bars [] { thr 0 0 0 0 with btoDie := 5, park := some ⟨.barrier 3 5 again, false, waited, false⟩ }
  { s with flights := [{ farLoad with ctx := 1 }], nextOp := 8 }

theorem witness_Barriers_before : (barrWaits true 6).wakes p0 (at0 (barrWaits true 6)) (.barrier 3 5 true) = false ∧
    [(true, 6), (true, 5), (false, 6)].map (fun e => (runs [.barrierTimeout p0] (barrWaits e.1 e.2)).map (fun t => (t.me.ecause, t.me.einfo))) =
      [some (0x15, 0x31), some (0, 0), some (0, 0)] := by decide +kernel

/-- Entry 1 has two replicas: queue 1 of core 0 of d0, and core 5. g2 = entry 1 with hash 3; g3 = entry 2. Stream 0 of slot 0 is
queue 1 with `filled` rows in its two places, and row 1 of the bound tile is the token. -/
def tok (filled : Nat) (flights : List Flight) : State :=
  let x : Stream := { bound 0 0 filled with qid := some 1, words := some [0, 0, 0, 0, 2 ^ 56 + 2 ^ 48, 0xD000, 0, 0], op := 3 }
  let t : Thread := { thr 0 0x301 2 0 with streams := (thr 0 0 0 0).streams.set 0 (some x) }
  let s : State := mappedTile { t with g := t.g.set 1 (.empty 7) } .fp32 0x77 0 0
  { s.setDie 0 { s.dieAt 0 with bank := [0, 0, 0, 0, 2 ^ 63 + 2 ^ 12, 2 ^ 63 + 5, 0, 0, 0, 0, 0, 0] } with flights := flights, nextOp := 8 }

/-- A token for a queue, and one for a queue that nothing binds. -/
def tokFlight (w : Nat) : Flight := { chFlight (.token 0x77 w 1 1 0) with id := 7 }

theorem witness_TokenRouting_words : ∃ (row : Row) (v : Stream),
    (tok 0 []).running ∧ (tok 0 []).src.tile.isSome = true ∧ (tok 0 []).checkPoisonGV [2] [1] = .ok () ∧
    (tok 0 []).readG 2 = .ok (0x301, tok 0 []) ∧ (tok 0 []).readV 1 = .ok (row, tok 0 []) ∧ (tok 0 []).checkAsync 4 = .ok () ∧
    (0x301 : Word).toNat < 2 ^ 40 ∧
    ((List.range 4).takeWhile (fun j => (nth ((tok 0 []).dieAt 0).bank (4 * 1 + j) 0).testBit 63)).length = 2 ∧
    ((List.range 4).takeWhile (fun j => (nth ((tok 0 []).dieAt 0).bank (4 * 2 + j) 0).testBit 63)).length = 0 ∧
    (tok 0 []).me.stream? 0 = some v ∧ v.outbound = false ∧ v.words.isSome = true ∧ v.qid.isSome = true :=
  ⟨_, _, rfl, rfl, rfl, rfl, rfl, rfl, by decide, by decide +kernel, by decide +kernel, rfl, rfl, rfl, rfl⟩

theorem witness_TokenRouting_swap :
    (superv (thr 0 0x5000 0 0)).running ∧ (world (thr 0 0x5000 0 0)).src.sup = false ∧
    (let s : State := mapped (superv (thr 0 0x5000 0 0))
     s.src.sup = true ∧ okIs (s.readG 2) (fun o => o.1 == 0x5000) = true ∧ okIs (s.checkAsync 1) (fun _ => true) = true ∧
       okIs (s.checkGlobal 0x5000 8192 needR) (fun _ => true) = true) := by
  refine ⟨rfl, ?_⟩; decide +kernel

theorem witness_TokenRouting_arrival :
    ((tok 0 [tokFlight (2 ^ 63 + 2 ^ 12)]).flight? 7 = some (tokFlight (2 ^ 63 + 2 ^ 12)) ∧
      (tok 0 [tokFlight (2 ^ 63 + 2 ^ 12)]).mayPerform (tokFlight (2 ^ 63 + 2 ^ 12)) 0 = true ∧
      (tok 0 [tokFlight (2 ^ 63 + 2 ^ 12)]).earlierToken (tokFlight (2 ^ 63 + 2 ^ 12)) (2 ^ 63 + 2 ^ 12) 0 = false ∧
      ((tok 0 []).queueAt (2 ^ 63 + 2 ^ 12) 0 0).map (fun r => (r.1, r.2.1)) = some (p0, 0) ∧
      ((tok 0 []).queueAt (2 ^ 63 + 2 ^ 12) 0 0).map (fun r => ((tok 0 []).placeToken p0 0 r.2.2 0x77).1) = some 0 ∧
      ((tok 2 []).queueAt (2 ^ 63 + 2 ^ 12) 0 0).map (fun r => ((tok 2 []).placeToken p0 0 r.2.2 0x77).1) = some 1) ∧
    (tok 0 []).queueAt (2 ^ 63 + 5) 0 0 = none ∧ (tok 0 []).queueSaved (2 ^ 63 + 5) 0 0 = false ∧
    ((tok 0 []).tokenQueue 0 0 1).map (fun r => (r.1, r.2.1)) = some (p0, 0) ∧ (tok 0 []).swaps = 0 := by
  and_intros <;> decide +kernel

theorem test_tokens :
    (runs [.route 4 2 1] (tok 0 [])).map (fun t => t.flights.map (fun f => f.kind)) = some [.token 0x77 (2 ^ 63 + 5) 1 4 0] ∧
    (runs [.route 4 3 1] (tok 0 [])).map (fun t => vget t.me.g 4 (.val 0)) = some (.val 3) ∧
    nextIs (exec (.tokenArrival 7) (tok 0 [tokFlight (2 ^ 63 + 2 ^ 12)])) (fun t => vget t.me.g 1 (.val 9) == .val 0x100 &&
      t.readSram (homeByte p0 0x8000) 8 == 0x77) = true ∧
    nextIs (exec (.tokenArrival 7) (tok 2 [tokFlight (2 ^ 63 + 2 ^ 12)])) (fun t => vget t.me.g 1 (.val 9) == .val 0x101 &&
      Memory.readN t.mem 0xD000 8 == 0x77) = true ∧
    nextIs (exec (.tokenArrival 7) (tok 0 [tokFlight (2 ^ 63 + 5)])) (fun t => vget t.me.g 1 (.val 9) == .val 0x105) = true ∧
    nextIs (exec (.tokenDrained 0 0 1) (tok 0 [])) (fun t => (t.me.stream? 0).map (·.drained) == some true) = true ∧
    nextIs (exec (.tokenDrained 0 0 1) ({ tok 0 [tokFlight (2 ^ 63 + 2 ^ 12)] with swaps := 1 })) (fun t =>
      (t.me.stream? 0).map (·.drained) == some false) = true := by decide +kernel

/-- An RTSWAP whose image at 0x5000 is all zeros: no replicas. -/
def swapFlight : Flight := { flightOf (.status (.rtswap 0x5000) 1) (.va 0x5000) 0x5000 8192 0 with parts := [] }

def swapping : State := { waiting swapFlight with mem := [] }

theorem witness_TokenRouting_image : swapping.flight? 7 = some swapFlight ∧ swapping.mayPerform swapFlight 0 = true ∧
    swapping.swapPending = false ∧ (match swapping.readRows swapFlight 0x5000 (List.range 64) with
      | (.ok _, _) => true
      | _ => false) = true := by
  and_intros <;> decide +kernel

/-- An image whose replica 1 stands without replica 0 is not well formed (19 R282). -/
theorem test_rtswap :
    bankOk (0 :: 2 ^ 63 :: List.replicate 1022 0) = false ∧
    nextIs (exec (.rtswap 1 2) (mapped (superv (thr 0 0x5000 0 0)))) (fun t => t.flights.length == 1) = true := by decide +kernel

/-! Revisions. -/

/-- A region descriptor at 0x5000: base 0x10000, 64 bytes, stitch type 1, elements of 8 bytes; g2 names it, g3 = revision 1. -/
def regDesc (stitch : Nat) : List Nat := [0x10000, 64 + stitch * 2 ^ 40 + 3 * 2 ^ 44, 0, 0]

def rev1 : Rev := ⟨0, 0, 1, 1, 1, true, true, false, 2, [(0x400, ⟨0xBB, 0, 0x400⟩)], [(0x400, ⟨0xAA, 0, 0x400⟩)], none⟩

def rv (stitch : Nat) (revs : List (Nat × Rev)) (f : List Flight) : State :=
  let t : Thread := { thr 0 0x5000 1 0 with g := (thr 0 0x5000 1 0).g.set 1 (.empty 7) }
  let s : State := mapped { world t with flights := f, nextOp := 8 }
  let s : State := (s.writePa 0x5000 8 0x10000).writePa 0x5008 8 (64 + stitch * 2 ^ 40 + 3 * 2 ^ 44)
  { s with revs := revs }

/-- The hypotheses of REGION. -/
def regionHyps (s : State) : Bool :=
  okIs (s.checkAccess 0x5000 32 32 needR) (fun o => o.2.earlierDone o.2.src.ctx o.2.nextOp true true &&
    (match o.2.readPart o.2.issueFlight (o.2.loadPart 0x5000 o.1 32) with
      | (.ok v, s3) =>
        let ws := (List.range 4).map (fun i => v / 2 ^ (64 * i) % 2 ^ 64)
        let r := Region.ofWords ws
        regionOk ws && stitchOk r.stitch r.esize && okIs (s3.checkGlobal r.base r.len (needR + needW)) (fun _ => true)
      | _ => false))

theorem witness_Revisions_words : regionHyps (rv 1 [] []) = true ∧ (rv 1 [] []).running ∧
    Reads1 (rv 1 [] []) 2 0x5000 (rv 1 [] []) ∧ (rv 1 [] []).checkRelease = .ok () ∧ (rv 1 [] []).checkAsync 4 = .ok () ∧
    Reads1 (rv 1 [(1, rev1)] []) 3 1 (rv 1 [(1, rev1)] []) ∧ (rv 1 [(1, rev1)] []).uses 1 = 0 ∧
    tget (rv 1 [(1, rev1)] []).revs 1 = some rev1 ∧ rev1.hold = true ∧ rev1.owner = 1 ∧
    ((rv 1 [(1, rev1)] []).setMe { (rv 1 [(1, rev1)] []).me with rev := 1 }).uses 1 ≠ 0 := by
  refine ⟨?_, rfl, ⟨rfl, rfl⟩, rfl, rfl, ⟨rfl, rfl⟩, ?_⟩ <;> decide +kernel

def stFlight (op : StatusOp) : Flight := { flightOf (.status op 1) (.va 0) 0 0 0 with parts := [] }

theorem witness_Revisions_status :
    (let f := stFlight .fork
     (rv 1 [] [f]).flight? 7 = some f ∧ (rv 1 [] [f]).mayPerform f 0 = true ∧ (rv 1 [] [f]).me.g[(1 : Reg)] = .empty 7 ∧
       ¬ ((rv 1 [] [f]).depthOf 0 = 15 ∨ 4096 ≤ (rv 1 [] [f]).revs.length + 1 ∨ (rv 1 [] [f]).linesLeft < (rv 1 [] [f]).reserveFor 0)) ∧
    (let f := stFlight (.region (regDesc 1))
     (rv 1 [] [f]).mayPerform f 0 = true ∧ tgetD (rv 1 [] [f]).regions 0 [] = []) ∧
    (rv 1 [(14, { rev1 with depth := 15 })] []).depthOf 14 = 15 ∧
    overlap 0x10000 64 0x10000 64 = true := by
  and_intros <;> decide +kernel

/-- Revision 1 joins its parent: its line of 0x10000 holds 0xBB where its ancestor image holds 0xAA. -/
def joins (todo : List (Nat × Nat × Nat × Nat)) (stitch : Nat) : State :=
  rv stitch [(1, { rev1 with live := false, hold := false, joining := some ⟨7, 1, p0, 1, some todo, 2⟩ })] [stFlight (.join 1)]

theorem witness_Revisions_join :
    (∃ f, (joins [] 1).flight? 7 = some f ∧ f.kind = .status (.join 1) 1) ∧ (joins [] 1).me.g[(1 : Reg)] = .empty 7 ∧
    (tget (joins [] 1).revs 1).any (fun r => r.joining.any (fun j => (joins [] 1).joinRuns r 1 j)) = true ∧
    (∃ e, [((0x10000, 0x10000, 8, 1) : Nat × Nat × Nat × Nat)].find? (fun e => e.1 == 0x10000) = some e) ∧
    (match (joins [(0x10000, 0x10000, 8, 1)] 1).translate 0 0x10000 0 true none with
      | (.ok _, _) => true
      | _ => false) = true ∧
    (let r := { rev1 with abandoned := true }
     r.abandoned = true ∧ (rv 1 [(1, r)] []).uses 1 = 0) := by
  refine ⟨⟨_, rfl, rfl⟩, ?_, ?_, ⟨_, rfl⟩, ?_⟩ <;> decide +kernel

/-- The same, with an element on an unmapped page; behind an earlier JOIN that is not over; with an error in the child's granule. -/
def joinsFar : State := joins [(0x2000000000, 0x10000, 8, 1)] 1

def joinsLater : State :=
  let s := joins [(0x10000, 0x10000, 8, 1)] 1
  { s with revs := s.revs ++ [(2, { rev1 with live := false, joining := some ⟨6, 0, p0, 1, some [(0x10040, 0x10040, 8, 1)], 0⟩ })] }

def joinsBad : State :=
  let s := joins [(0x10000, 0x10000, 8, 1)] 1
  { s with revs := s.revs.map (fun e => (e.1, { e.2 with view := [(0x400, ⟨0xBB, 1, 0x400⟩)] })) }

theorem witness_Revisions_stitch :
    (match joinsFar.translate 0 0x2000000000 0 true none with
      | (.error _, s1) => (s1.ctxThread 1).any (fun u => !u.quitting)
      | _ => false) = true ∧
    (tget joinsLater.revs 1).any (fun r => r.joining.any (fun j => joinsLater.joinRuns r 1 j)) = false ∧
    (joinsBad.lineIn 1 0x400).poison.testBit 0 = true ∧ (joinsBad.lineIn 0 0x400).poison = 0 ∧
    ((joins [(0x10000, 0x10000, 8, 1)] 1).lineIn 1 0x400).poison = 0 ∧ 0x10000 % 8 = 0 := by
  and_intros <;> decide +kernel

/-- What a stitch leaves (21 R301, R308): a conflict of CHILD where the parent has changed the element as well; a held store; nothing
before its turn; a poisoned granule. -/
theorem test_stitch_cases :
    nextIs (exec (.joinStitch 1 0x10000) ((joins [(0x10000, 0x10000, 8, 1)] 1).writePa 0x10000 8 0xCC)) (fun t =>
      Memory.readN t.mem 0x10000 8 == 0xBB && (tget t.revs 1).any (fun r => r.joining.any (fun j => j.conflicts == 3))) = true ∧
    nextIs (exec (.joinStitch 1 0x2000000000) joinsFar) (fun t => t.me.held.map (·.what) == [.stitch 1 0x100 0x2000000000]) = true ∧
    nextIs (exec (.joinStitch 1 0x10000) joinsLater) (fun t => t == joinsLater) = true ∧
    nextIs (exec (.joinComplete 1) joinsLater) (fun t => t == joinsLater) = true ∧
    nextIs (exec (.joinStitch 1 0x10000) joinsBad) (fun t => (t.lineIn 0 0x400).poison.testBit 0 &&
      (tget t.revs 1).any (fun r => r.joining.any (fun j => (j.todo == some []) && j.conflicts == 2))) = true := by decide +kernel

/-- Word 1 of the descriptor that REGION reads, where its earlier accesses are over. -/
def regionWord1 (s : State) : Option Nat :=
  match s.checkAccess 0x5000 32 32 needR with
  | .ok (l, s2) =>
    if s2.earlierDone s2.src.ctx s2.nextOp true true then
      match (s2.readPart s2.issueFlight (s2.loadPart 0x5000 l 32)).1 with
      | .ok v => some (v / 2 ^ 64 % 2 ^ 64)
      | .error _ => none
    else none
  | .error _ => none

/-- The descriptor at 0x5000 with another word 1. -/
def desc1 (w : Nat) : State := (rv 1 [] []).writePa 0x5008 8 w

/-- A descriptor without a length; one of FADD for bytes; a misaligned one; and an earlier load on its way. -/
theorem witness_Revisions_traps :
    regionWord1 (desc1 (2 ^ 40)) = some (2 ^ 40) ∧ regionWord1 (desc1 (64 + 4 * 2 ^ 40)) = some (64 + 4 * 2 ^ 40) ∧
    Reads1 (world (thr 0 0x5008 0 0)) 2 0x5008 (world (thr 0 0x5008 0 0)) ∧ (0x5008 : Word).toNat % 32 ≠ 0 ∧
    (rv 1 [] [{ farLoad with ctx := 1 }]).earlierDone 1 8 true true = false ∧
    (2 ^ 13 : Nat) ≤ (0x5000 : Word).toNat ∧ tget (rv 1 [] []).revs 1 = none ∧
    Reads1 (rv 1 [] []) 3 1 (rv 1 [] []) := by
  refine ⟨?_, ?_, ⟨rfl, rfl⟩, ?_, ?_, ?_, rfl, rfl, rfl⟩ <;> decide +kernel

theorem test_region_traps :
    nextIs (exec (.region 4 2) (desc1 (2 ^ 40))) (fun t => decide (t.me.ecause = 6 ∧ t.me.eaddr = 0x5000 ∧ t.me.einfo = 4)) = true ∧
    nextIs (exec (.region 4 2) (desc1 (64 + 4 * 2 ^ 40))) (fun t => decide (t.me.ecause = 0x19 ∧ t.me.einfo = 4)) = true ∧
    nextIs (exec (.region 4 2) (rv 1 [] [{ farLoad with ctx := 1 }])) (fun t => t.issue.last == .parked) = true ∧
    nextIs (exec (.revq 4 2) (rv 1 [] [])) (fun t => decide (t.me.ecause = 6 ∧ t.me.eaddr = 0x5000 ∧ t.me.einfo = 4)) = true ∧
    nextIs (exec (.join 4 3) (rv 1 [] [])) (fun t => vget t.me.g 4 (.val 0) == .val (-1)) = true ∧
    nextIs (exec (.join 4 3) ((rv 1 [(1, rev1)] []).setMe { (rv 1 [(1, rev1)] []).me with rev := 1 })) (fun t =>
      t.issue.last == .parked) = true := by decide +kernel

/-- The page is revisioned, and domain 0 has one region of 64 bytes: two version lines for a fork. -/
def lines (capacity : Nat) (f : List Flight) : State :=
  let s := (rv 1 [] f).writePa 0x4000 8 0xC200000000000000
  { s with regions := [(0, [⟨0x10000, 64, 1, 3⟩])], port := { s.port with block := s.port.block.set 3 (64 * capacity) } }

theorem witness_Revisions_limits :
    (rv 1 [(14, { rev1 with depth := 15 })] [{ stFlight .fork with rev := 14 }]).mayPerform { stFlight .fork with rev := 14 } 0 = true ∧
    4096 ≤ (rv 1 ((List.range 4095).map (fun i => (i + 1, rev1))) []).revs.length + 1 ∧
    2 * ((lines 1 []).revisionedBytes (tgetD (lines 1 []).regions 0 []) / 64) = 2 ∧ portWord (lines 1 []) 3 % 2 ^ 48 / 64 = 1 ∧
    portWord (lines 2 []) 3 % 2 ^ 48 / 64 = 2 ∧ (lines 2 [stFlight .fork]).mayPerform (stFlight .fork) 0 = true ∧
    (∀ va < 64, ((lines 1 []).walk (0x10000 + va)).toOption.any (fun l => l.revd && l.attr != 3) = true) ∧
    (∀ va < 64, ((rv 1 [] []).walk (0x10000 + va)).toOption.any (fun l => !l.revd) = true) := by
  and_intros <;> decide +kernel

/-- The codes of FORK, REGION and REVQ (21 R298, R299, R303). -/
theorem test_revision_codes :
    nextIs (exec (.loadReply 7 0) (lines 1 [stFlight .fork])) (fun t => vget t.me.g 1 (.val 9) == .val (-1) && t.revs.isEmpty) = true ∧
    nextIs (exec (.loadReply 7 0) (lines 2 [stFlight .fork])) (fun t => vget t.me.g 1 (.val 9) == .val 1 &&
      (tget t.revs 1).map (·.reserved) == some 2) = true ∧
    nextIs (exec (.loadReply 7 0) (rv 1 [(14, { rev1 with depth := 15 })] [{ stFlight .fork with rev := 14 }])) (fun t =>
      vget t.me.g 1 (.val 9) == .val (-3)) = true ∧
    nextIs (exec (.loadReply 7 0) (rv 1 [(1, rev1), (3, rev1)] [stFlight .fork])) (fun t => vget t.me.g 1 (.val 9) == .val 2) = true ∧
    [1, 0].map (fun st => (runs [.loadReply 7 0] (lines 1 [stFlight (.region (regDesc st))])).map (fun t => (vget t.me.g 1 (.val 9),
      (tgetD t.regions 0 []).length))) = [some (.val 2, 1), some (.val 0, 0)] ∧
    nextIs (exec (.loadReply 7 0) { lines 1 [stFlight (.region (regDesc 1))] with regions := [(0, (List.range 16).map (fun i =>
      ⟨0x20000 + 64 * i, 64, 1, 3⟩))] }) (fun t => vget t.me.g 1 (.val 9) == .val 1) = true ∧
    nextIs (exec (.loadReply 7 0) (lines 2 [stFlight (.revq (2 ^ 12))])) (fun t => vget t.me.g 1 (.val 9) == .val 2) = true ∧
    [0, 1, 2].map (fun q => (runs [.loadReply 7 0] (rv 1 [(1, rev1)] [stFlight (.revq q)])).map (fun t => vget t.me.g 1 (.val 9))) =
      [some (.val (w64 (2 ^ 63 + 2 ^ 62 + 1))), some (.val (w64 (2 ^ 63 + 2 ^ 62 + 2 ^ 61 + 2 ^ 56 + 2 ^ 16))), some (.val 0)] := by
  decide +kernel

theorem test_revisions :
    nextIs (exec (.loadReply 7 0) (rv 1 [] [stFlight .fork])) (fun t => vget t.me.g 1 (.val 9) == .val 1 && (tget t.revs 1).isSome) = true ∧
    nextIs (exec (.loadReply 7 0) (rv 1 [] [stFlight (.region (regDesc 1))])) (fun t => vget t.me.g 1 (.val 9) == .val 0 &&
      (tgetD t.regions 0 []).length == 1) = true ∧
    nextIs (exec (.loadReply 7 0) (rv 1 [(1, rev1)] [stFlight (.region (regDesc 1))])) (fun t => vget t.me.g 1 (.val 9) == .val 3) = true ∧
    nextIs (exec (.join 4 2) (rv 1 [(1, rev1)] [])) (fun t => t.me.ecause != 0 || vget t.me.g 4 (.val 9) == .val (-1)) = true ∧
    (runs [.join 4 3] (rv 1 [(1, rev1)] [])).map (fun t => (tget t.revs 1).map (fun r => r.live)) = some (some false) ∧
    nextIs (exec (.joinStitch 1 0x10000) (joins [(0x10000, 0x10000, 8, 1)] 1)) (fun t => Memory.readN t.mem 0x10000 8 == 0xBB) = true ∧
    nextIs (exec (.joinComplete 1) (joins [] 1)) (fun t => vget t.me.g 1 (.val 9) == .val 2 && (tget t.revs 1).isNone) = true ∧
    nextIs (exec (.revisionDiscard 1) (rv 1 [(1, { rev1 with abandoned := true })] [])) (fun t => t.revs.isEmpty) = true ∧
    (runs [.fork 4] (rv 1 [] [])).map (fun t => t.flights.length) = some 1 ∧ (runs [.revq 4 3] (rv 1 [] [])).map (fun t => t.flights.length) = some 1 ∧
    (runs [.region 4 2] (rv 1 [] [])).map (fun t => t.flights.map (fun f => f.kind)) = some [.status (.region (regDesc 1)) 4] := by
  decide +kernel

/-- 21 Table 21.2: CHILD, PARENT, IADD, IMAX and OR-like stitches of bytes. -/
theorem test_stitches :
    [stitchOf 1 1 5 7 9, stitchOf 2 1 5 7 9, stitchOf 2 1 5 5 9, stitchOf 3 1 250 5 1, stitchOf 7 1 5 7 9, stitchOf 8 1 0xF0 0xF1 0x70].map (·.1) =
      [9, 7, 9, 12, 9, 0x71] := by decide +kernel

/-- Queue 1 with both places filled and `tail` rows in its spillway at `base`. -/
def spilling (base tail : Nat) : State :=
  let s := tok 2 []
  s.setMe { s.me with streams := s.me.streams.set 0 ((s.me.stream? 0).map (fun x =>
    { x with spTail := tail, words := some [0, 0, 0, 0, 2 ^ 56 + 2 ^ 48, base, 0, 0] })) }

/-- What TOKEN_ARRIVAL gives at that queue, with the rows of the spillway and the core's count of spills. -/
def spilled (base tail : Nat) : Option (Nat × Option (Option Nat) × Nat) :=
  ((spilling base tail).queueAt (2 ^ 63 + 2 ^ 12) 0 0).map (fun r =>
    let o := (spilling base tail).placeToken p0 0 r.2.2 0x77
    (o.1, (o.2.me.stream? 0).map (fun x => some x.spTail), (o.2.core p0).ev[11]))

/-- A row with room is stored (1); a full spillway, and a store on no page, refuse the token (2). -/
theorem witness_TokenRouting_spill : (spilling 0xD000 0).revs = [] ∧
    ((spilling 0xD000 0).me.stream? 0).map (·.spRows) = some 16 ∧
    [(0xD000, 0), (0xD000, 16), (0x2000000000, 0)].map (fun e => spilled e.1 e.2) =
      [some (1, some (some 1), 1), some (2, some (some 16), 0), some (2, some (some 0), 0)] := by
  decide +kernel

/-- The queue of stream operation 3 has moved away from core 5, whose entry forwards its tokens under bank 0. -/
def forwarded : State :=
  let s := tok 0 []
  s.setCore ⟨0, 5, 0⟩ { s.core ⟨0, 5, 0⟩ with fwd := [.queue 3 0] }

theorem witness_TokenRouting_target : (tok 0 []).queuesBeyond (2 ^ 63 + 2 ^ 12) 0 = [] ∧
    forwarded.queuesBeyond (2 ^ 63 + 2 ^ 12 + 5) 0 = [3] ∧ forwarded.queueMoving (2 ^ 63 + 2 ^ 12 + 5) 0 = false ∧
    (forwarded.contexts.any (fun e => e.1 == p0 && e.2 == forwarded.me)) = true ∧
    (forwarded.me.stream? 0).map (fun y => (y.op, y.qid)) = some (3, some 1) ∧
    forwarded.queuesBeyond (2 ^ 63 + 2 ^ 12 + 5) 1 = [] ∧
    (forwarded.tokenTarget (2 ^ 63 + 2 ^ 12 + 5) 0).map (fun r => (r.1, r.2.1)) = some (p0, 0) := by
  decide +kernel

/-- JOIN of its child by the thread that forked it, which nothing uses. -/
theorem witness_Revisions_joinWord : (rv 1 [(1, rev1)] []).running ∧ (rv 1 [(1, rev1)] []).checkRelease = .ok () ∧
    (rv 1 [(1, rev1)] []).checkAsync 4 = .ok () ∧ ((3 : Nat) < 2 ^ 12) ∧ rev1.joining = none ∧
    nextIs (exec (.join 4 3) (rv 1 [(1, rev1)] [])) (fun t => (tget t.revs 1).any (fun r => r.joining.any (fun j => j.todo == none))) = true := by
  refine ⟨rfl, rfl, rfl, ?_⟩; decide +kernel

/-- The elements are those that differ when the stitch begins (log 68): none of the one region of type 1, then the one written. -/
theorem witness_Revisions_list :
    let j : Joining := ⟨7, 1, p0, 1, none, 0⟩
    let s (w : Nat) : State := { rv 1 [(1, { rev1 with view := [(0x400, ⟨w, 0, 0x400⟩)], joining := some j })] [stFlight (.join 1)] with
      regions := [(0, [⟨0x10000, 64, 1, 3⟩])] }
    [0xAA, 0xBB].map (fun w => ((tget (s w).revs 1).map (fun r => (s w).joinTodo r j))) = [some [], some [(0x10000, 0x10000, 8, 1)]] ∧
    nextIs (exec (.joinStitch 1 0x10000) (s 0xBB)) (fun t => Memory.readN t.mem 0x10000 8 == 0xBB &&
      (tget t.revs 1).any (fun r => r.joining.any (fun j => j.todo == some []))) = true ∧
    nextIs (exec (.joinComplete 1) (s 0xBB)) (fun t => t == s 0xBB) = true := by
  decide +kernel

/-! ### Witnesses and values: launches, gangs, rings and codelets -/

/-- A record: PC 0x20000, ARG 0x99, one gang of one thread, waiting for the word at `wait` to reach 1. -/
def recordOf (wait : Nat) : List Nat := [0x20000, 0x99, 0, 0, 0, 1, wait, 0, 0, 0, 1, 0]

/-- Queue 0 owns d0: its block at 0x6000, ring 0 of four records at 0x7000 with HEAD and TAIL as given; g2 = the queue, g3 = a record
at 0x9000. -/
def que (head tail wait : Nat) (f : LQueue → LQueue) (fl : List Flight) : State :=
  let t : Thread := { thr 0 0x6000 0x9000 0 with g := (thr 0 0x6000 0x9000 0).g.set 5 (.empty 7) }
  let s : State := mapped { world t with
    flights := fl
    nextOp := 8
    units := [(1, ⟨some 0, none, none, 0, 0, [p0], 1, 0, 0, 0, .running, none, none, false, none⟩)]
    queues := [(0, f ⟨[0x6000, 2 ^ 12, 1, 0, 0x400, 0, 0x1000000, 1], 0, 0, 0, none, false, [], [0, 0, 0], [], [], 0, true, [], [], false, []⟩)] }
  let s : State := (s.writePa 0x6000 8 (0x7000 + 2 * 2 ^ 56)).writePa 0x6008 8 (tail + head * 2 ^ 32)
  let r := recordOf wait
  let w (s : State) (a : Nat) : State := ((((s.writePa a 8 (nth r 0 0)).writePa (a + 8) 8 (nth r 1 0)).writePa (a + 40) 8 (nth r 5 0)).writePa
    (a + 48) 8 (nth r 6 0)).writePa (a + 80) 8 (nth r 10 0)
  w (w s (0x7000 + 96 * (head % 4))) 0x9000

/-- The queue with an accepted launch at its head. -/
def launched (wait : Nat) (l : Launch) : State :=
  { que 0 1 wait (fun q => { q with launches := [1] }) [] with launches := [(1, l)], nextLaunch := 2 }

def launchOf (wait : Nat) : Launch := ⟨0, 0, 0, recordOf wait, [], 0, 0, false⟩

def launchFlight : Flight := { flightOf (.status (.launch 0x6000 0x9000) 5) (.va 0x9000) 0x9000 96 0 with scope := .sys }

theorem witness_LaunchesAndGangs_word : (que 0 0 0 id []).running ∧ (que 0 0 0 id []).checkRelease = .ok () ∧
    Reads2 (que 0 0 0 id []) 2 3 0x6000 0x9000 (que 0 0 0 id []) ∧
    okIs ((que 0 0 0 id []).checkGlobal 0x6000 16 (needR + needW)) (fun s2 => okIs (s2.checkAccess 0x9000 96 1 needR) (fun o =>
      okIs (o.2.checkAsync 1) (fun _ => true))) = true := by
  refine ⟨rfl, rfl, rfl, ?_⟩; decide +kernel

/-- How an append goes: read the ring entry, then the record, check the place, write. -/
def appendHyps (s : State) : Bool :=
  let own : Flight := { launchFlight with kind := .load (.tile 0) }
  let base : Flight := { own with rev := 0 }
  match s.readPart base (mkPart 0x6000 (.va 0x6000) 16 0) with
  | (.ok v, s1) => decide (bits v 59 56 = 2) && decide ((bits v 95 64 + 2 ^ 32 - bits v 127 96) % 2 ^ 32 < 4) &&
    (match s1.readPieces own 0x9000 (.va 0x9000) [0, 1, 2] with
      | (.ok w, s2) =>
        (match s2.unitCheck 0 0 false needW 0x7000 96 4 with
          | (true, s3) =>
            (match s3.writePieces base 0x7000 w [0, 1, 2] with
              | (none, s4) => (s4.homeWrite base 0x6008 4 1).1.isNone
              | _ => false)
          | _ => false)
      | _ => false)
  | _ => false

theorem witness_LaunchesAndGangs_append :
    (que 0 0 0 id [launchFlight]).flight? 7 = some launchFlight ∧ (que 0 0 0 id [launchFlight]).mayPerform launchFlight 0 = true ∧
    appendHyps (que 0 0 0 id [launchFlight]) = true ∧ bits 0x6000 6 2 = 0 ∧ 0x9000 % 32 = 0 := by
  and_intros <;> decide +kernel

theorem test_launch_append :
    nextIs (exec (.loadReply 7 0) (que 0 0 0 id [launchFlight])) (fun t => vget t.me.g 5 (.val 9) == .val 0 &&
      Memory.readN t.mem 0x6008 4 == 1 && Memory.readN t.mem 0x7008 8 == 0x99) = true ∧
    nextIs (exec (.loadReply 7 0) (que 0 4 0 id [launchFlight])) (fun t => vget t.me.g 5 (.val 9) == .val (-1)) = true ∧
    nextIs (exec (.loadReply 7 0) (que 3 4 0 id [{ launchFlight with kind := .status (.launch 0x6008 0x9000) 5 }])) (fun t =>
      vget t.me.g 5 (.val 9) == .val (-3)) = true := by decide +kernel

theorem witness_LaunchesAndGangs_accept : ∃ q : LQueue, (que 0 1 0 id []).queue 0 = some q ∧ q.rejects = [] ∧
    (que 0 1 0 id []).acceptedOn q.die < 64 ∧
    okIs (match (que 0 1 0 id []).schedRead 0x6000 16 with
      | .ok e => (.ok e : Except Stop Nat)
      | .error _ => .error (.park .quit)) (fun e => decide (bits e 59 56 ≤ 12) && decide (bits e 63 60 = 0)) = true ∧
    (que 0 1 0 id []).readRecord 0x7000 = some (recordOf 0) ∧ ((que 0 1 0 id []).schedWrite 0x600C 4 1).isSome = true ∧
    usedWaits (recordOf 0) = [] ∧ (que 0 1 0 id []).recordReason { q with launches := [1] } (recordOf 0) = none := by
  refine ⟨_, rfl, rfl, ?_⟩; decide +kernel

theorem test_accept :
    nextIs (exec (.schedulerAccept 0 0) (que 0 1 0 id [])) (fun t => (t.launches.map (·.1)) == [1] && Memory.readN t.mem 0x600C 4 == 1) = true ∧
    nextIs (exec (.schedulerAccept 0 0) (que 0 0 0 id [])) (fun t => t.launches.isEmpty) = true ∧
    nextIs (exec (.schedulerAccept 0 0) (que 0 5 0 id [])) (fun t => (t.queue 0).map (fun q => q.rejects.map (·.reason)) == some [0x0B]) = true := by
  decide +kernel

/-- The granule at a physical address is poisoned: the queue block at 0x6000, of which HEAD is known, or the record at 0x7000. -/
def unreadableAt (pa : Nat) : State := { que 0 1 0 (fun q => { q with heads := [(0, 3)] }) [] with memPoison := [pa / 16] }

/-- A ring of SIZE 13. -/
def badEntry : State := (que 0 1 0 id []).writePa 0x6000 8 (0x7000 + 13 * 2 ^ 56)

/-- The first result of a read. -/
def readOf (r : Except Nat Nat) : Option Nat := r.toOption

theorem witness_LaunchesAndGangs_turned_down :
    readOf ((unreadableAt 0x6000).schedRead 0x6000 16) = none ∧ ((unreadableAt 0x6000).queue 0).map (fun q => tget q.heads 0) = some (some 3) ∧
    (readOf ((unreadableAt 0x7000).schedRead 0x6000 16)).any (fun e => bits e 95 64 != bits e 127 96) = true ∧
    (unreadableAt 0x7000).readRecord 0x7000 = none ∧ (unreadableAt 0x7000).acceptedOn 0 < 64 ∧
    (readOf (badEntry.schedRead 0x6000 16)).any (fun e => decide (12 < bits e 59 56) && bits e 95 64 != bits e 127 96) = true ∧
    (que 0 5 0 id []).readRecord 0x7000 = some (recordOf 0) ∧
    ((que 0 1 0 id []).queue 0).any (fun q => ((que 0 1 0 id []).recordReason q [0x20001, 0, 0, 0, 0, 1, 0, 0, 0, 0, 0, 0]).isSome) = true := by
  and_intros <;> decide +kernel

/-- The reason of the first rejection of queue 0 and its INDEX. -/
def rejectOf (s : State) : Option (Nat × Nat) :=
  match exec (.schedulerAccept 0 0) s with
  | .next t => (t.queue 0).bind (fun q => q.rejects.head?.map (fun r => (r.reason, r.index)))
  | _ => none

theorem test_turned_down :
    [rejectOf (unreadableAt 0x6000), rejectOf (unreadableAt 0x7000), rejectOf badEntry] = [some (0x0A, 3), some (0x0A, 0), some (0x01, 0)] := by
  decide +kernel

theorem witness_LaunchesAndGangs_waits :
    tget (launched 0xA000 (launchOf 0xA000)).launches 1 = some (launchOf 0xA000) ∧ recWait (recordOf 0xA000) 0 ≠ 0 ∧
    (launched 0xA000 (launchOf 0xA000)).regionRights 0 false needR 2 0xA000 0xA004 = true ∧
    okIs (match ((launched 0xA000 (launchOf 0xA000)).writePa 0xA000 4 1).schedRead 0xA000 4 with
      | .ok e => (.ok e : Except Stop Nat)
      | .error _ => .error (.park .quit)) (fun e => e == 1) = true := by
  and_intros <;> decide +kernel

/-- A launch with two wait words, one of which matched when it was last read. -/
def halfMatched : Launch := { launchOf 0xA000 with words := [0x20000, 0x99, 0, 0, 0, 1, 0xA000, 0xA008, 0, 0, 1, 0], matched := [0] }

theorem witness_LaunchesAndGangs_unmatched : tget (launched 0xA000 halfMatched).launches 1 = some halfMatched ∧
    halfMatched.dead = false ∧ halfMatched.eligible = false ∧ 0 ∈ halfMatched.matched ∧
    (launchOf 0xA000).eligible = false ∧ { launchOf 0xA000 with matched := [0] }.eligible = true ∧
    (launched 0xA000 halfMatched).regionRights (recDom halfMatched.words) false needR 2 0xA000 0xA004 = true ∧
    nextIs (exec (.waitWordRead 1 0) (launched 0xA000 halfMatched)) (fun t => (tget t.launches 1).map (·.matched) == some []) = true ∧
    nextIs (exec (.waitWordRead 1 0) ((launched 0xA000 halfMatched).writePa 0xA000 4 1))
      (fun t => t == (launched 0xA000 halfMatched).writePa 0xA000 4 1) = true ∧
    nextIs (exec (.waitWordRead 1 0) (launched 0xA000 { launchOf 0xA000 with matched := [0] }))
      (fun t => t == launched 0xA000 { launchOf 0xA000 with matched := [0] }) = true := by
  and_intros <;> decide +kernel

theorem test_waits :
    nextIs (exec (.waitWordRead 1 0) ((launched 0xA000 (launchOf 0xA000)).writePa 0xA000 4 1)) (fun t =>
      (tget t.launches 1).map (·.matched) == some [0]) = true ∧
    nextIs (exec (.waitWordRead 1 0) (launched 0xA000 (launchOf 0xA000))) (fun t => (tget t.launches 1).map (·.matched) == some []) = true := by
  decide +kernel

/-- A reported rejection of the record at HEAD. -/
def refused : State := que 0 1 0 (fun q => { q with rejects := [⟨0, 5, 0, none, true⟩] }) []

theorem witness_LaunchesAndGangs_reason : (refused.schedWrite 0x6040 1 0).isSome = true ∧ (refused.schedWrite 0x6040 1 0xFF).isSome = true ∧
    (refused.queue 0).map (·.rejects) = some [⟨0, 5, 0, none, true⟩] := by
  and_intros <;> decide +kernel

theorem test_reason :
    nextIs (exec (.hostReasonWrite 0 0) refused) (fun t => (t.queue 0).map (·.rejects) == some [] && Memory.readN t.mem 0x600C 4 == 0) = true ∧
    nextIs (exec (.hostReasonWrite 0 0xFF) refused) (fun t => Memory.readN t.mem 0x600C 4 == 1 && Memory.readN t.mem 0x6040 1 == 0) = true := by
  decide +kernel

theorem witness_LaunchesAndGangs_dispatch : ∃ q : LQueue, (launched 0 (launchOf 0)).queue 0 = some q ∧ q.stopped = false ∧ q.current = true ∧
    q.fails = [] ∧ select q.selC (fun j => ((launched 0 (launchOf 0)).headOf q j).isSome) = some 0 ∧
    (launched 0 (launchOf 0)).headOf q 0 = some (1, launchOf 0) ∧
    ((launched 0 (launchOf 0)).startBlock 0 q 1 (launchOf 0) (launchOf 0).blockLeft 0).isSome = true ∧
    recCores (recordOf 0) = 1 ∧ recSlots (recordOf 0) = 1 ∧ recPolders (recordOf 0) = 0 ∧
    (launched 0 (launchOf 0)).freeSlots 0 (Config.coreAt 0 0) = 1 :: (List.range 14).map (· + 2) := by
  refine ⟨_, rfl, rfl, rfl, rfl, ?_⟩; decide +kernel

theorem test_dispatch : nextIs (exec (.blockDispatch 0) (launched 0 (launchOf 0))) (fun t =>
    t.threads.any (fun e => e.2.pc == 0x20000 && e.2.arg == 0x99 && e.2.ctx == 2)) = true := by decide +kernel

/-- A gang of two cores, two threads on each, and two polders. -/
def gangOf4 : List Nat := (recordOf 0).set 5 (1 + 2 ^ 32 + 2 ^ 34 + 2 * 2 ^ 38)

/-- What starting it gives. -/
def gangStarted : State :=
  match (launched 0 (launchOf 0)).queue 0 with
  | some q => (launched 0 (launchOf 0)).startGang 0 q 1 gangOf4 0 0 0 0
  | none => State.reset

theorem witness_LaunchesAndGangs_gang :
    recCores gangOf4 = 2 ∧ recSlots gangOf4 = 2 ∧ recPolders gangOf4 = 2 ∧ (3 + 1) * recCores gangOf4 ≤ 8 ∧
    (launched 0 (launchOf 0)).groupFits (recShape gangOf4) 0 0 0 = true ∧
    (launched 0 (launchOf 0)).groupFits (recShape gangOf4) 0 0 3 = true ∧
    2 ≤ ((launched 0 (launchOf 0)).freePolders 0).length := by
  and_intros <;> decide +kernel

/-- Its last thread stands in the second free slot of the second core, and the windows 1 and 2 of its first core are open. -/
theorem test_gang :
    (gangStarted.thread? ⟨0, Config.coreAt 0 1, 1⟩).map (fun t => (t.pc, t.wid, t.ctx)) = some (0x20000, 17, 5) ∧
    ((gangStarted.window? p0 1).map (·.st), (gangStarted.window? p0 2).map (·.st), (gangStarted.window? p0 3).isNone) =
      (some .opened, some .opened, true) := by
  decide +kernel

/-- The unit of a launch, with and without a thread. -/
def unitOf (empty : Bool) (l : Launch) : State :=
  let s := launched 0 l
  let s : State := s.setWork 1 ⟨some 0, some 1, none, 0, 0, [p0], 1, 0, 0, 0, .running, none, none, false, none⟩
  if empty then { s with threads := [] } else s

theorem witness_LaunchesAndGangs_retire : (unitOf true (launchOf 0)).unitDone 1 = true ∧ (unitOf false (launchOf 0)).unitDone 1 = false ∧
    tget (unitOf true { launchOf 0 with started := 1 }).launches 1 = some { launchOf 0 with started := 1 } ∧
    ((unitOf true (launchOf 0)).work 1).map (·.launch) = some (some 1) := by
  and_intros <;> decide +kernel

theorem test_retire :
    nextIs (exec (.gangRetire 1) (unitOf true { launchOf 0 with started := 1 })) (fun t => t.launches.isEmpty && (t.work 1).isNone) = true ∧
    nextIs (exec (.gangRetire 1) (unitOf false { launchOf 0 with started := 1 })) (fun t => (t.work 1).isSome) = true := by decide +kernel

/-- g2 = a descriptor at 0x4020 of the home polder that names ring 1; ring 1 of core 0 has head and tail as given; the core has issued in this cycle.
-/
def rng (head tail : Nat) (fl : List Flight) : State :=
  let s : State := que 0 0 0 id fl
  let s : State := s.setMe { s.me with g := (s.me.g.set 2 (.val 0x4020)).set 3 (.val 4) }
  let s : State := s.setCore p0 { s.core p0 with rings := (s.core p0).rings.set 1 (head, tail), lastCycle := some 0 }
  let s : State := (s.writeSram (homeByte p0 0x4020) 8 (0x20000 + 2 ^ 56 + 2 ^ 58)).writeSram (homeByte p0 0x4028) 8 0x55
  (s.writeSram (homeByte p0 0x4030) 4 1).writeSram (homeByte p0 (0x200 + 8 * (head % 64))) 8 0x4020

/-- The pop for an idle slot has been served in this cycle. -/
def popServed (s : State) : State := s.setCore p0 { s.core p0 with ringCycle := 0, ringStep := 2 }

def cdecFlight : Flight := { flightOf (.cdec 0 0 0x4020) (.va 0) 0 0 0 with parts := [] }

theorem witness_Rings_words :
    Reads1 (rng 0 64 []) 2 0x4020 (rng 0 64 []) ∧ (rng 0 64 []).checkDest 1 = .ok () ∧
    bits ((rng 0 64 []).readSram (homeByte p0 0x4020) 8) 57 56 = 1 ∧
    64 ≤ (vget ((rng 0 64 []).coreAt 0).rings 1 (0, 0)).2 ∧ (vget ((rng 1 64 []).coreAt 0).rings 1 (0, 0)).2 - 1 < 64 ∧
    select ((rng 0 64 []).coreAt 0).ringC ((rng 0 64 []).ringHas 0) = some 1 ∧
    select ((rng 5 5 []).coreAt 0).ringC ((rng 5 5 []).ringHas 0) = none ∧ (rng 0 64 []).checkRelease = .ok () ∧
    (rng 0 64 []).corePresent 0 0 = true ∧ (rng 0 64 []).inPartition p0 (rng 0 64 []).src 0 0 = true := by
  refine ⟨⟨rfl, rfl⟩, rfl, ?_, ?_, ?_, ?_, ?_, rfl, ?_⟩ <;> decide +kernel

theorem test_rings :
    (runs [.rpush 1 2, .storePerformed 8 0, .atomicPerform 9] (popServed (rng 0 63 []))).map (fun t => (vget t.me.g 1 (.val 9), vget (t.core p0).rings 1 (0, 0),
      t.readSram (homeByte p0 (0x200 + 8 * 63)) 8, bit (t.readSram (homeByte p0 0x4020) 8) 58)) = some (.val 1, (0, 64), 0x4020, false) ∧
    (runs [.rpush 1 2] (popServed (rng 0 64 []))).map (fun t => vget t.me.g 1 (.val 9)) = some (.val 0) ∧
    (runs [.rpop 1 3] (rng 0 1 [])).map (fun t => (vget t.me.g 1 (.val 9), vget (t.core p0).rings 1 (0, 0))) = some (.val 0x4020, (1, 1)) ∧
    (runs [.rpop 1 3] (rng 1 1 [])).map (fun t => vget t.me.g 1 (.val 9)) = some (.val 0) ∧
    (runs [.cdec 2, .cdecPerform 8] (rng 0 1 [])).map (fun t => t.issue.last) = some .done := by decide +kernel

theorem witness_Rings_cdec :
    (rng 0 1 [cdecFlight]).flight? 7 = some cdecFlight ∧ (rng 0 1 [cdecFlight]).mayPerform cdecFlight 0 = true ∧
    ((rng 0 1 [cdecFlight]).readNow (.sram (homeByte p0 0x4030)) 4).1 = 1 ∧
    (((rng 0 1 [cdecFlight]).writeSram (homeByte p0 0x4030) 4 7).readNow (.sram (homeByte p0 0x4030)) 4).1 = 7 ∧
    ((rng 0 1 []).ringPush ⟨0, 0, 15⟩ 0x4020).isSome = true ∧ (rng 0 64 []).ringPush ⟨0, 0, 15⟩ 0x4020 = none := by
  and_intros <;> decide +kernel

/-- An RPUSH has yet to clear OVF; the core has yet to issue in this cycle. -/
def ovfFlight : Flight := { flightOf (.atomic .and 0xFB 0 0) (.sram (homeByte p0 0x4027)) (2 ^ 63 + 0x4027) 1 0 with id := 3 }

def unissued (s : State) : State := s.setCore p0 { s.core p0 with lastCycle := none }

theorem witness_Rings_order :
    (rng 0 1 [ovfFlight, cdecFlight]).clearing ⟨0, 0, 15⟩ 0x4020 = true ∧ (rng 0 1 [cdecFlight]).clearing ⟨0, 0, 15⟩ 0x4020 = false ∧
    (unissued (rng 0 1 [])).ringServe ⟨0, 0, 15⟩ 3 = none ∧ (popServed (rng 0 1 [])).ringServe p0 2 = none ∧
    ((popServed (rng 0 1 [])).ringServe p0 3).isSome = true := by
  and_intros <;> decide +kernel

/-- A full ring with an idle slot: the pop comes first, or has been made. -/
theorem witness_Rings_pop_first :
    ((rng 0 64 []).popPlan 0 0).isSome = true ∧ ((rng 0 64 []).core p0).ringStep < 2 ∧ ((popServed (rng 0 64 [])).core p0).ringStep = 2 ∧
    (rng 5 5 []).popPlan 0 0 = none ∧
    (rng 0 1 []).checkPort (.sram (homeByte p0 0x4020)) 8 false = .ok () ∧
    (rng 0 1 []).checkPort (.sram (homeByte p0 (0x200 * 1 + 8 * 0))) 2 false = .ok () ∧
    (rng 0 1 []).portBusy ⟨0, 0, 0⟩ ((rng 0 1 []).ringEntry ⟨0, 0, 0⟩ 1) 2 false 8 = false ∧
    (rng 0 1 []).portBusy ⟨0, 0, 0⟩ (.sram (homeByte p0 0x4020)) 32 false 8 = false := by
  and_intros <;> decide +kernel

/-- Popping comes before RPUSH, which then finds room (09 R129). -/
theorem test_rpush_after_pop : (runs [.rpush 1 2] (rng 0 64 [])).map (fun t =>
    (vget t.me.g 1 (.val 9), (t.thread? ⟨0, 0, 1⟩).isSome)) = some (.val 1, true) := by decide +kernel

/-- Each waits for what is before it (09 R126, R129). -/
theorem test_ring_order :
    nextIs (exec (.cdecPerform 7) (rng 0 1 [ovfFlight, cdecFlight])) (fun t => t == rng 0 1 [ovfFlight, cdecFlight]) = true ∧
    nextIs (exec (.cdecPerform 7) (unissued (rng 0 1 [cdecFlight]))) (fun t => t == unissued (rng 0 1 [cdecFlight])) = true ∧
    nextIs (exec (.codeletStart ⟨0, 0, 1⟩) (popServed (rng 0 1 []))) (fun t => t == popServed (rng 0 1 [])) = true := by
  decide +kernel

theorem test_cdec :
    nextIs (exec (.cdecPerform 7) (rng 0 1 [cdecFlight])) (fun t => vget (t.core p0).rings 1 (0, 0) == (0, 2) &&
      t.readSram (homeByte p0 0x4030) 4 == 0) = true ∧
    nextIs (exec (.cdecPerform 7) (rng 0 64 [cdecFlight])) (fun t => vget (t.core p0).ev evRingovf 0 == 1 &&
      (t.core p0).msgs == [(1, 0x4020)]) = true := by decide +kernel

/-- Slot 1 is idle and a ring holds a descriptor. -/
def p1 : Party := ⟨0, 0, 1⟩

theorem witness_Codelets : ∃ q : LQueue, (rng 0 1 []).idleSlot 0 0 = some 1 ∧ (rng 0 1 []).queueOf 0 0 = some 0 ∧
    (rng 0 1 []).queue 0 = some q ∧ q.stopped = false ∧ ((rng 0 1 []).ringPop p1 1).1 = 0x4020 ∧
    (rng 0 1 []).codeletOk q (wordsOf (((rng 0 1 []).readNow (.sram (homeByte p1 0x4020)) 32).1) 4) = true ∧
    (rng 0 1 []).codeletOk q [2, 0, 0, 0] = false := by
  refine ⟨_, ?_, ?_, rfl, ?_⟩ <;> decide +kernel

theorem witness_Codelets_stopped : ∃ q : LQueue, (rng 0 1 []).queue 0 = some q ∧
    (((rng 0 1 []).setQueue 0 { q with stopped := true }).queue 0).map (·.stopped) = some true ∧
    ((rng 0 1 []).setQueue 0 { q with stopped := true }).idleSlot 0 0 = some 1 ∧
    nextIs (exec (.codeletStart p1) ((rng 0 1 []).setQueue 0 { q with stopped := true })) (fun t => (t.thread? p1).isNone) = true := by
  refine ⟨_, rfl, ?_⟩; decide +kernel

theorem test_codelet : nextIs (exec (.codeletStart p1) (rng 0 1 [])) (fun t =>
    let u := t.thread p1
    u.pc == 0x20000 && vget u.g 3 (.val 0) == .val 0x55 && vget u.g 4 (.val 0) == .val 0x8000000000004020) = true := by decide +kernel

/-- Two queues that share d0 with slices of 65,536 cycles; queue 0 is current since cycle 0. -/
def tenants (clock : Nat) : State :=
  let e : List Nat := [0x6000, 2 ^ 12 + 2 ^ 25, 1, 0, 0x400, 0, 0x1000000, 1]
  let s : State := que 0 0 0 (fun q => { q with entry := e }) []
  let s : State := s.setDie 0 { s.dieAt 0 with clock := clock }
  { s with queues := s.queues ++ [(1, ⟨e, 0, 0, 0, none, false, [], [0, 0, 0], [], [], 0, false, [], [], false, []⟩)] }

/-- The slice is over and slot 0 is to change. -/
def changing (full : Bool) : State :=
  let s := tenants 65536
  let s : State := match s.queue 0 with
    | some q => s.setQueue 0 { q with changing := [p0], current := false }
    | none => s
  if full then { s with flights := [{ flightOf .store (.va 0x5000) 0x5000 8 1 with id := 2 }] } else s

/-- The rotation has reached slot 0, or slot 1, which is empty. -/
def reachedAt (k : Nat) (full : Bool) : State :=
  let s := changing full
  match s.queue 0 with
    | some q => s.setQueue 0 { q with changing := [⟨0, 0, k⟩], reached := [⟨0, 0, k⟩] }
    | none => s

/-- Queue 1 has a launch whose block has failed to fit 64 times in a row: queue 0 starts none in the partition (03 R34). -/
def barredOf (tries : Nat) : State :=
  let s := tenants 0
  { s with
    queues := s.queues.map (fun e => if e.1 = 1 then (1, { e.2 with fails := [(5, tries)], launches := [5] })
      else (e.1, { e.2 with launches := [1] }))
    launches := [(1, launchOf 0), (5, { launchOf 0 with queue := 1 })] }

theorem witness_LaunchesAndGangs_barred :
    ((barredOf 64).queue 1).any (fun e => !e.stopped && e.fails.any (fun x => decide (64 ≤ x.2) && e.launches.contains x.1)) = true ∧
    ((barredOf 64).queue 0).any (fun q => ((barredOf 64).queue 1).any (fun e => e.sharesWith q)) = true ∧
    (tget (barredOf 64).launches 5).map (·.dead) = some false := by
  and_intros <;> decide +kernel

theorem test_barred :
    nextIs (exec (.blockDispatch 0) (barredOf 64)) (fun t => t == barredOf 64) = true ∧
    nextIs (exec (.blockDispatch 0) (barredOf 63)) (fun t => decide (t.threads.length = 2)) = true := by decide +kernel

theorem witness_Tenants :
    (((tenants 0).queues.find? (fun e => e.1 != 0 && (((tenants 0).queue 0).any (fun q => e.2.sharesWith q)) && e.2.slice != 0)).map (·.1)) =
      some 1 ∧
    ((tenants 0).queue 0).map (fun q => (q.current, q.slice, q.changing)) = some (true, 65536, []) ∧ (tenants 65535).clock 0 < 65536 ∧
    65536 ≤ (tenants 65536).clock 0 ∧
    ((changing false).queues.find? (fun e => !e.2.stopped && e.2.changing.contains p0)).map (·.1) = some 0 ∧
    (changing false).canSave p0 (changing false).me false = true ∧
    ((changing false).saveContext p0 (changing false).me 0 false).isSome = true ∧
    (changing true).canSave p0 (changing true).me false = false ∧ (changing false).queueOfThread p0 (changing false).me = some 0 := by
  and_intros <;> decide +kernel

theorem witness_Tenants_reached :
    (changing false).reaches p0 = true ∧ (changing false).comesTo p0 = true ∧ (changing false).offerable p0 = true ∧
    (changing false).queues.all (fun e => !e.2.reached.contains p0) = true ∧ (tenants 0).reaches p0 = false ∧
    ((reachedAt 0 false).queues.find? (fun e => !e.2.stopped && e.2.reached.contains p0)).map (·.1) = some 0 ∧
    ((reachedAt 0 false).queue 0).any (fun q => q.changing.contains p0) = true ∧ (reachedAt 0 false).ready p0 = false ∧
    (reachedAt 0 false).canSave p0 (reachedAt 0 false).me false = true ∧ (reachedAt 0 true).canSave p0 (reachedAt 0 true).me false = false ∧
    ((reachedAt 0 false).saveContext p0 (reachedAt 0 false).me 0 false).isSome = true ∧
    (reachedAt 1 false).thread? ⟨0, 0, 1⟩ = none := by
  and_intros <;> decide +kernel

theorem test_tenants :
    nextIs (exec (.tenantSliceEnd 0) (tenants 65536)) (fun t => (t.queue 1).map (·.current) == some true &&
      (t.queue 0).map (·.changing) == some [p0]) = true ∧
    nextIs (exec (.tenantSliceEnd 0) (tenants 65535)) (fun t => (t.queue 0).map (·.current) == some true) = true ∧
    nextIs (exec (.tenantSlotChange p0) (changing false)) (fun t => (t.thread? p0).isNone && t.saved.map (fun x => x.party) == [p0]) = true ∧
    nextIs (exec (.tenantSlotChange p0) (changing true)) (fun t => (t.thread? p0).isSome) = true := by decide +kernel

/-! ### Witnesses and values: contexts -/

/-- A supervisor's slot of queue 0; g2 = 3 and g3 = 0x7777. -/
def sup (f : Thread → Thread) : State :=
  let s := que 0 0 0 id []
  s.setMe (f { s.me with status := 0x1, g := ((s.me.g.set 2 (.val 3)).set 3 (.val 0x7777)).set 5 (.val 0) })

theorem witness_Contexts_swapout : ∃ (l : Loc) (s2 : State), (sup id).running ∧ (sup id).src.sup = true ∧
    (sup id).checkRelease = .ok () ∧ (sup id).imageAddr (.cache 1) = .ok (0x8000000000001180, sup id) ∧
    (sup id).checkAccess 0x8000000000001180 384 128 needW = .ok (l, s2) ∧ s2.checkWeir 0x8000000000001180 l 384 true = .ok () ∧
    s2.earlierDone s2.src.ctx s2.nextOp true true = true ∧ (s2.core s2.cur).mq = [] ∧ okIs s2.checkFilled (fun _ => true) = true ∧
    (0x8000000000001180 : Word).toNat % 128 = 0 :=
  ⟨_, _, rfl, rfl, rfl, rfl, rfl, rfl, rfl, rfl, by decide +kernel, rfl⟩

/-- The slot after its image is stored: 8-byte word k is at 0x1000 + 384 × 1 + 8 k of the home polder. -/
def swappedOut : Option State :=
  match exec (.swapout (.cache 1)) (sup (fun t => { t with epc := 0x500, status := 0x1 + 2 ^ 4 * 0 })) with
  | .next t =>
    (List.range 24).foldl (fun (o : Option State) k => o.bind (fun u =>
      match exec (.storePerformed 8 k) u with
      | .next v => some v
      | _ => none)) (some t)
  | _ => none

theorem test_swapout : someIs swappedOut (fun t =>
    let w (k : Nat) : Nat := t.readSram (homeByte p0 (0x1180 + 8 * k)) 8
    w 1 == 3 && w 2 == 0x7777 && w 31 == 0x500 && w 47 == 0 && w 37 == 0x400) = true := by decide +kernel

/-- Back in: g2 is overwritten first and EPC changed. -/
def swapBack : State :=
  match swappedOut with
  | some t => (world { at0 t with park := none, g := (at0 t).g.set 2 (.val 9), epc := 0, status := 0x1 }) |> fun s =>
      { mapped s with sram := t.sram, nextOp := 9 }
  | none => sup id

theorem witness_Contexts_swapin : swapBack.running ∧ swapBack.src.sup = true ∧
    okIs (swapBack.imageAddr (.cache 1)) (fun o => o.1.toNat % 128 == 0 &&
      o.2.earlierDone o.2.src.ctx o.2.nextOp true true && o.2.src.held.isEmpty &&
      okIs (o.2.checkAccess o.1.toNat 384 128 needR) (fun x => okIs (x.2.checkWeir o.1.toNat x.1 384 false) (fun _ => true) &&
        match x.2.readPieces { x.2.issueFlight with kind := .load (.tile 0) } o.1.toNat x.1 (List.range 12) with
        | (.ok v, _) => imageOk (wordsOf v 48) && !bit (nth (wordsOf v 48) 47 0) 56 && !bit (nth (wordsOf v 48) 46 0) 63
        | _ => false)) = true := by
  refine ⟨by unfold State.running; decide +kernel, ?_, ?_⟩ <;> decide +kernel

theorem test_swapin : nextIs (exec (.swapin (.cache 1)) swapBack) (fun t => t.issue.last == .done &&
    vget t.me.g 2 (.val 0) == .val 3 && t.me.epc == 0x500 && t.me.status == 0x1) = true := by decide +kernel

/-- A running gang of one slot in queue 0; g2 names a die. -/
def gang (st : UnitState) (die : Word) (f : Thread → Thread) : State :=
  let s := que 0 0 0 id []
  let s : State := s.setMe (f { s.me with g := (s.me.g.set 2 (.val die)).set 5 (.val 0) })
  let s : State := s.setDie 1 { DieSt.reset with started := true }
  s.setWork 1 ⟨some 0, none, none, 0, 0, [p0], 1, 0, 0, 0, st, none, none, false, none⟩

/-- The same where the queue owns d0 and d1. -/
def gang2 (st : UnitState) (die : Word) (f : Thread → Thread) : State :=
  let s := gang st die f
  match s.queue 0 with
  | some q => s.setQueue 0 { q with entry := setNth q.entry 1 (2 ^ 12 + 2 ^ 13) }
  | none => s

theorem witness_Contexts_migrate : (gang2 .running 1 id).running ∧ (gang2 .running 1 id).checkRelease = .ok () ∧
    Reads1 (gang2 .running 1 id) 2 1 (gang2 .running 1 id) ∧ Reads1 (gang2 .running 0 id) 2 0 (gang2 .running 0 id) ∧
    ((gang2 .running 1 id).dieAt 1).started = true ∧
    (gang2 .running 1 id).inPartition p0 (gang2 .running 1 id).src 1 0 = true ∧
    (gang2 .running 1 id).inPartition p0 (gang2 .running 1 id).src 0 0 = true ∧
    ((gang2 .running 1 id).work 1).map (fun w => (w.st, w.featNeed, w.need)) = some (.running, 0, 0) := by
  refine ⟨rfl, rfl, ⟨rfl, rfl⟩, ⟨rfl, rfl⟩, ?_⟩; decide +kernel

theorem test_migrate :
    nextIs (exec (.migrate 2) (gang2 .running 1 id)) (fun t => (t.work 1).map (fun w => (w.st, w.target)) == some (.moving, some 1)) = true ∧
    nextIs (exec (.migrate 2) (gang2 .running 0 id)) (fun t => (t.work 1).map (·.st) == some .running) = true ∧
    nextIs (exec (.migrate 2) (gang .running 1 id)) (fun t => decide (t.me.ecause = 0x06 ∧
      t.me.eaddr = 1 ∧ t.me.einfo = 4)) = true := by decide +kernel

/-- Queue 0 is stopped and its slot 0 still to change, with or without an access in flight. -/
def stopping (fl : List Flight) (f : LQueue → LQueue) (g : Thread → Thread) : State :=
  let s := que 0 0 0 (fun q => f { q with stopped := true, changing := [p0] }) fl
  s.setMe (g { s.me with g := (s.me.g.set 2 (.val 3)).set 5 (.val 0) })

def oneStore : List Flight := [flightOf .store (.va 0x5000) 0x5000 8 1]

theorem witness_Contexts_preempt :
    ((stopping [] id id).queues.find? (fun e => e.2.stopped && e.2.changing.contains p0)).map (·.1) = some 0 ∧
    ((stopping [] id id).thread? p0).map (·.quitting) = some false ∧
    ((stopping [] id (fun t => { t with quitting := true })).thread? p0).map (·.quitting) = some true ∧
    (stopping [] id id).queueOfThread p0 (stopping [] id id).me = some 0 ∧
    (stopping [] id id).canSave p0 (stopping [] id id).me false = true ∧
    (stopping oneStore id id).canSave p0 (stopping oneStore id id).me false = false ∧
    ((stopping [] id id).saveContext p0 (stopping [] id id).me 0 false).isSome = true ∧
    ((stopping [] (fun q => { q with entry := setNth q.entry 7 0 }) id).saveContext p0 (stopping [] id id).me 0 false).isNone = true := by
  and_intros <;> decide +kernel

/-- The image is at the lowest place of the save area, 0x60000 bytes above its base, and the directory names it (log 29). -/
theorem test_preempt :
    nextIs (exec (.preemptSave p0) (stopping [] id id)) (fun t => (t.thread? p0).isNone && (t.queue 0).map (·.changing) == some [] &&
      t.saved.map (fun x => (x.queue, x.addr, vget x.thread.g 2 (.val 0))) == [(0, 0x1060000, .val 3)] &&
      Memory.readN t.mem 0x1060008 8 == 3 && Memory.readN t.mem 0x1060000 8 == 0) = true ∧
    nextIs (exec (.preemptSave p0) (stopping oneStore id id)) (fun t => (t.thread? p0).isSome && t.saved.isEmpty) = true ∧
    nextIs (exec (.preemptSave p0) (stopping [] (fun q => { q with entry := setNth q.entry 7 0 }) id)) (fun t =>
      (t.thread? p0).isSome && (t.queue 0).map (·.saveFailed) == some true) = true := by decide +kernel

/-- The context saved, and its queue resumed. -/
def parted (stopped : Bool) : State :=
  let s : State := (stopping [] id id).preemptSave p0
  match s.queue 0 with
  | some q => s.setQueue 0 { q with stopped := stopped }
  | none => s

theorem witness_Contexts_resume : ∃ x : Saved, x ∈ (parted false).saved ∧
    ((parted false).saved.find? (fun x => x.party == p0 && x.cause != 0x09 && (parted false).unitRuns x.thread.unit &&
      ((parted false).queue x.queue).any (fun q => !q.stopped && q.current)) == some x) = true ∧
    ((parted false).cluster p0).quarantined = false ∧ ((parted false).dieAt 0).halted = false ∧
    someIs ((parted false).rereadSaved x) (fun y => ((parted false).restoreRead y p0 []).isSome &&
      (({ parted false with threads := [(0, thr 0 0 0 0)] } : State).restoreRead y p0 []).isNone) = true ∧ 384 ≤ x.len := by
  refine ⟨(parted false).saved.head (by decide +kernel), List.head_mem _, ?_⟩; decide +kernel

/-- The saved context has waited at BARW, whose wait has ended with status 1 into g4. -/
def woken : State := { parted false with saved := (parted false).saved.map (fun x => { x with woken := some (4, 1) }) }

theorem witness_Contexts_woken : ((woken.saved.find? (fun x => x.party == p0 && x.cause != 0x09 && woken.unitRuns x.thread.unit &&
      (woken.queue x.queue).any (fun q => !q.stopped && q.current))).any (fun x => x.woken == some (4, 1) && x.rest.isNone &&
      someIs (woken.rereadSaved x) (fun y => (woken.restoreRead y p0 []).isSome))) = true := by decide +kernel

/-- Another record of the gang holds a weight slot: it returns first (11 R169). -/
def carried : State :=
  let s := parted false
  let other (x : Saved) : Saved := { x with
    party := ⟨0, 0, 1⟩
    thread := { x.thread with ctx := 2 }
    weights := [(0, ⟨.loaded, 0, 0, [], none⟩)] }
  { s with saved := s.saved.flatMap (fun x => [x, other x]) }

theorem witness_Contexts_carried : carried.saved.any (fun y => carried.saved.any (fun x => x.party == p0 && y.carriesFor x)) = true := by
  decide +kernel

theorem test_resume :
    nextIs (exec (.contextResume p0) woken) (fun t => (t.thread? p0).map (fun v =>
      (v.pc, vget v.g 4 (.val 0), vget v.g 2 (.val 0))) == some (0x104, .val 1, .val 3)) = true ∧
    nextIs (exec (.contextResume p0) (parted false)) (fun t => t.saved.isEmpty && (t.thread? p0).map (fun v =>
      (v.pc, vget v.g 2 (.val 0), v.ctx)) == some (0x100, .val 3, 1)) = true ∧
    nextIs (exec (.contextResume p0) (parted true)) (fun t => t.saved.length == 1 && (t.thread? p0).isNone) = true := by
  decide +kernel

/-- The record in the save area is what returns: g2 is word 1 of its image (23 R320); one that cannot be read does not return. -/
theorem test_resume_reads_record :
    nextIs (exec (.contextResume p0) ((parted false).writePa 0x1060008 8 0x44)) (fun t =>
      (t.thread? p0).map (fun v => vget v.g 2 (.val 0)) == some (.val 0x44)) = true ∧
    nextIs (exec (.contextResume p0) { parted false with memPoison := [0x1060010 / 16] }) (fun t =>
      t.saved.length == 1 && (t.thread? p0).isNone) = true := by decide +kernel

theorem witness_Contexts_unreadable : ((parted false).saved.head?).any (fun x =>
    poisonIn ([0x1060010 / 16] : List Nat) x.addr x.len) = true := by decide +kernel

/-- Queue 0 with a limit of 2 × 4,096 cycles and a delay of 1 × 4,096, at a cycle. -/
def watched (clock : Nat) (stage1 : Option Nat) (stopped : Bool) : State :=
  let s := que 0 0 0 (fun q => { q with wdog := 0x100000002, stage1 := stage1, stopped := stopped }) []
  s.setDie 0 { s.dieAt 0 with clock := clock }

theorem witness_Contexts_watchdog : ∃ q q2 : LQueue, (watched 8191 none false).queue 0 = some q ∧
    (watched 12288 (some 8192) true).queue 0 = some q2 ∧
    bits q.wdog.toNat 31 0 * 4096 = 8192 ∧ bits q.wdog.toNat 63 32 * 4096 = 4096 ∧ q.stopped = false ∧ q.stage1 = none ∧
    (watched 8191 none false).placesOfQueue 0 = [p0] ∧ (watched 8191 none false).clock q.die < q.since + 8192 ∧
    q.since + 8192 ≤ (watched 8192 none false).clock q.die ∧ q2.stage1 = some 8192 ∧ q2.wdog = q.wdog ∧
    (watched 12287 (some 8192) true).clock 0 < 8192 + 4096 ∧ 8192 + 4096 ≤ (watched 12288 (some 8192) true).clock 0 ∧
    ((watched 12288 (some 8192) true).thread? p0).isSome = true := by
  refine ⟨_, _, rfl, rfl, ?_⟩; decide +kernel

theorem test_watchdog :
    nextIs (exec (.watchdogStage1 0) (watched 8191 none false)) (fun t => (t.queue 0).map (·.stopped) == some false) = true ∧
    nextIs (exec (.watchdogStage1 0) (watched 8192 none false)) (fun t => (t.queue 0).map (fun q => (q.stopped, q.stage1, q.changing)) ==
      some (true, some 8192, [p0])) = true ∧
    nextIs (exec (.watchdogStage2 0) (watched 12287 (some 8192) true)) (fun t => (t.work 1).map (·.st) == some .running) = true ∧
    nextIs (exec (.watchdogStage2 0) (watched 12288 (some 8192) true)) (fun t => (t.work 1).all (fun w => w.st == .dead)) = true := by
  decide +kernel

theorem witness_Contexts_quiesce : ∃ (w : Work) (s1 : State), (gang2 .moving 0 id).work 1 = some w ∧ w.st = .moving ∧
    (let s := gang2 .moving 0 id
     let es := s.contexts.filter (fun e => e.2.unit == 1 && !e.2.quitting)
     (es.all (fun e => s.canSave e.1 e.2 true) = true) ∧ s.entriesFree es = true ∧
     es.foldl (fun (o : Option State) e => o.bind (fun s => (s.takeEntries e.1 e.2).saveContext e.1 e.2 0x09 true)) (some s) =
       some s1) := by
  refine ⟨_, _, rfl, rfl, ?_, ?_, rfl⟩ <;> decide +kernel

/-- A gang saved for its migration. -/
def away (stopped : Bool) (features : Nat) : State :=
  let s : State := (gang2 .moving 0 id).quiesce 1
  let s : State := s.setWork 1 ⟨some 0, none, none, 0, 0, [p0], 1, 0, features, 0, .saved 0x09, none, some 1, false, none⟩
  match s.queue 0 with
  | some q => s.setQueue 0 { q with stopped := stopped }
  | none => s

theorem test_quiesce :
    nextIs (exec (.migrationQuiesce 1) (gang2 .moving 0 id)) (fun t => (t.work 1).map (·.st) == some (.saved 0x09) &&
      t.saved.map (fun x => x.cause) == [0x09] && (t.thread? p0).isNone) = true ∧
    nextIs (exec (.migrationQuiesce 1) (gang2 .running 0 id)) (fun t => (t.thread? p0).isSome) = true := by decide +kernel

/-- How the loader places a gang anew. -/
def goesHyps (s : State) (w : Work) : Bool :=
  someIs (s.queue 0) (fun q => !q.stopped && q.current && s.dieCanTake q w &&
    (match s.findMove q 1 w [1] with
      | some (d, c, g) => d == 1 && (s.moveUnit 1 w d c g).isSome
      | none => false))

theorem witness_Contexts_goes : someIs ((away false 0).work 1) (fun w => w.queue == some 0 && w.st == .saved 0x09 && w.target == some 1 &&
    goesHyps (away false 0) w) = true ∧ someIs ((away false (2 ^ 60)).work 1) (fun w =>
      someIs ((away false (2 ^ 60)).queue 0) (fun q => !(away false (2 ^ 60)).dieCanTake q w)) = true ∧
    someIs ((away false 0).work 1) (fun w => someIs ((away false 0).queue 0) (fun q =>
      ((away false 0).findMove q 1 { w with target := some 5 } [5]).isNone)) = true := by
  and_intros <;> decide +kernel

theorem test_goes :
    nextIs (exec (.migrationResume 1) (away false 0)) (fun t => (t.work 1).map (fun w => (w.st, w.target, w.members.map (·.die))) ==
      some (.running, none, [1]) && t.threads.any (fun e => (partyOf e.1).die == 1 && e.2.ctx == 1 && e.2.pc == 0x100)) = true ∧
    nextIs (exec (.migrationResume 1) (away true 0)) (fun t => (t.work 1).map (·.st) == some (.saved 0x09)) = true ∧
    nextIs (exec (.migrationResume 1) (away false (2 ^ 60))) (fun t => (t.work 1).all (fun w => w.st == .dead)) = true := by decide +kernel

/-- A load and an addition of a thread that has moved. -/
def late (k : FlightKind) (n data : Nat) : Flight := { flightOf k (.va 0x5000) 0x5000 n data with moved := true }

def lateS (f : Flight) : State := (waiting f).writePa 0x5000 8 0x77

theorem witness_Contexts_forward :
    let f := late (.load (.g 1 true)) 8 0
    let a := late (.atomic .add 5 0 1) 8 0
    (lateS f).flight? 7 = some f ∧ ((lateS f).findCtx 1).map (·.1) = some p0 ∧ f.moved = true ∧
    (lateS f).mayPerform { f with moved := false } 0 = true ∧ (lateS a).flight? 7 = some a ∧
    (lateS a).mayPerform { a with moved := false } 0 = true ∧ (lateS a).saved = [] ∧
    ((lateS a).atomicAt { a with moved := false } .add 5 0 (mkPart 0x5000 (.va 0x5000) 8 0)).1.toOption = some 0x77 := by
  and_intros <;> decide +kernel

theorem test_forward :
    nextIs (exec (.forwardDelivery 7) (lateS (late (.load (.g 1 true)) 8 0))) (fun t => vget t.me.g 1 (.val 0) == .val 0x77 &&
      t.flights.isEmpty) = true ∧
    nextIs (exec (.forwardDelivery 7) (lateS (late (.atomic .add 5 0 1) 8 0))) (fun t =>
      t == lateS (late (.atomic .add 5 0 1) 8 0)) = true := by decide +kernel

/-! ### Witnesses and values: caches, the device, the host -/

/-- A supervisor's slot with mapped memory: g2 = a, g3 = b. -/
def sys (a b : Word) : State := mapped (superv (thr 0 a b 0))

theorem witness_Caches_words : ∃ s2 : State,
    Reads2 (sys 0x10000 0x100) 2 3 0x10000 0x100 (sys 0x10000 0x100) ∧ (sys 0x10000 0x100).running ∧
    (sys 0x10000 0x100).checkGlobal 0x10000 0x100 needR = .ok s2 ∧ s2.checkWeir 0x10000 (.va 0x10000) 0x100 false = .ok () ∧
    s2.checkAsync 1 = .ok () ∧ (sys 0 0).src.sup = true ∧ Reads1 (sys 0xFF 0) 2 0xFF (sys 0xFF 0) ∧
    ((0x10000 : Word).toNat % 65536 = 0 ∧ (0xFF : Word).toNat < 256 ∧ (256 : Word).toNat ≤ 256) :=
  ⟨_, rfl, rfl, rfl, rfl, rfl, rfl, ⟨rfl, rfl⟩, by decide⟩

/-- d0's terp registers: register 1 has two hits and five misses of domain 0; with or without the others held. -/
def terped (a : Word) (supM : Bool) (dom : Nat) (full : Bool) (fl : List Flight) : State :=
  let s := mapped (world { thr 0 a 0 0 with status := if supM then 1 else 0 })
  let x : Terp := ⟨0x10000, 0x100, dom, 2, 5⟩
  let s : State := s.setDie 0 { s.dieAt 0 with terps := if full then Vector.replicate 8 (some x) else (s.dieAt 0).terps.set 1 (some x) }
  { s with flights := fl, nextOp := 8 }

theorem witness_Caches_unterp : (terped 1 false 0 false []).running ∧ Reads1 (terped 1 false 0 false []) 2 1 (terped 1 false 0 false []) ∧
    (terped 1 false 0 false []).checkDest 1 = .ok () ∧
    (vget ((terped 1 false 0 false []).dieAt 0).terps 1 none).map (·.dom) = some 0 ∧
    (vget ((terped 1 false 3 false []).dieAt 0).terps 1 none).map (·.dom) = some 3 ∧ (terped 1 false 3 false []).src.sup = false ∧
    Reads1 (terped 9 true 3 false []) 2 9 (terped 9 true 3 false []) ∧ (terped 9 true 3 false []).src.sup = true := by
  refine ⟨rfl, ⟨rfl, rfl⟩, rfl, ?_, ?_, rfl, ⟨rfl, rfl⟩, rfl⟩ <;> decide +kernel

theorem test_unterp :
    nextIs (exec (.unterp 1 2) (terped 1 false 0 false [])) (fun t => vget t.me.g 1 (.val 0) == .val 0x500000002 &&
      (vget (t.dieAt 0).terps 1 none).isNone) = true ∧
    nextIs (exec (.unterp 1 2) (terped 1 false 3 false [])) (fun t => vget t.me.g 1 (.val 0) == .val (-1) &&
      (vget (t.dieAt 0).terps 1 none).isSome) = true ∧
    nextIs (exec (.unterp 1 2) (terped 9 true 3 false [])) (fun t => vget t.me.g 1 (.val 0) == .val 0x500000002 &&
      (vget (t.dieAt 0).terps 1 none).map (fun x => (x.hits, x.missed)) == some (0, 0)) = true := by decide +kernel

def terpFlight (s : Bool) : Flight := { flightOf (.status (.terp 0x20000 0x200) 1) (.va 0) 0 0 0 with parts := [], sup := s }

theorem witness_Caches_terp : ((terped 0 false 0 false [terpFlight false]).flight? 7 = some (terpFlight false)) ∧
    (terped 0 false 0 false [terpFlight false]).mayPerform (terpFlight false) 0 = true ∧
    (terped 0 false 0 true [terpFlight true]).mayPerform (terpFlight true) 0 = true ∧
    ((List.range 8).filter (fun i => (vget ((terped 0 false 0 true []).dieAt 0).terps i none).any (fun t => t.dom == 0))).length = 8 ∧
    ((List.range 8).filter (fun i => (vget ((terped 0 false 0 false []).dieAt 0).terps i none).any (fun t => t.dom == 0))).length = 1 := by
  and_intros <;> decide +kernel

/-- The lowest free register; −2 where the domain holds four; −1 where none is free. -/
theorem test_terp :
    let w (s : State) : State := s.setMe { s.me with g := s.me.g.set 1 (.empty 7) }
    nextIs (exec (.loadReply 7 0) (w (terped 0 false 0 false [terpFlight false]))) (fun t => vget t.me.g 1 (.val 9) == .val 0 &&
      vget (t.dieAt 0).terps 0 none == some ⟨0x20000, 0x200, 0, 0, 0⟩) = true ∧
    nextIs (exec (.loadReply 7 0) (w (terped 0 false 0 true [terpFlight false]))) (fun t => vget t.me.g 1 (.val 9) == .val (-2)) = true ∧
    nextIs (exec (.loadReply 7 0) (w (terped 0 false 0 true [terpFlight true]))) (fun t => vget t.me.g 1 (.val 9) == .val (-1)) = true := by
  decide +kernel

/-- A load that a line of the L1 served at issue. -/
def hitLoad : List Flight := [{ flightOf (.load (.g 1 true)) (.va 0x5000) 0x5000 8 0 with
  parts := [{ mkPart 0x5000 (.va 0x5000) 8 0 with hit := some (0x9000, false) }] }]

/-- A slot that waits for a supervisor's operation, and one access in flight or none. -/
def waitsFor (w : SysOp) (fl : List Flight) : State :=
  let s := mapped (world { thr 0 0 0 0 with status := 1, park := some ⟨.sys w, true, 0, false⟩ })
  let c := s.clusterAt 0
  let s : State := s.setClusterAt 0 { c with tlb := [⟨0, 2 ^ 36, 0, 0, 0, false, 0x4000, true, true, some 0, []⟩] }
  let s : State := s.setCore p0 { s.core p0 with l1 := [⟨0x5000 / 64, 0, 0, 0x9000 / 64, 0xFFFF, 0, true, false, 0⟩] }
  { s with flights := fl }

theorem witness_Caches_complete :
    ((waitsFor (.harvest 0x0 0x10000) []).thread? p0).bind (·.park) = some ⟨.sys (.harvest 0x0 0x10000), true, 0, false⟩ ∧
    tget (waitsFor (.harvest 0x0 0x10000) []).rest (Party.key p0) = none ∧
    (waitsFor (.tlbsd 0x0 0x10000) []).acked 1 = true ∧ (waitsFor (.tlbsd 0x0 0x10000) []).noneInFlight 0 0x10000 = true ∧
    (waitsFor (.tlbsd 0x0 0x10000) hitLoad).noneInFlight 0 0x10000 = false := by
  and_intros <;> decide +kernel

theorem test_complete :
    nextIs (exec (.harvestComplete p0) (waitsFor (.harvest 0 0x10000) [])) (fun t => t.me.park.isNone && t.me.pc == 0x104 &&
      (t.clusterAt 0).tlb.all (fun e => !e.acc && !e.dirty) && bits (t.readPa 0x4000 8) 63 0 != 0xC000000000000000) = true ∧
    nextIs (exec (.tlbsdComplete p0) (waitsFor (.tlbsd 0 0x10000) [])) (fun t => t.me.park.isNone && (t.clusterAt 0).tlb.isEmpty &&
      (t.coreAt 0).l1.isEmpty) = true ∧
    nextIs (exec (.tlbsdComplete p0) (waitsFor (.tlbsd 0 0x10000) hitLoad)) (fun t => t.me.park.isSome) = true ∧
    nextIs (exec (.plbinvComplete p0) (waitsFor (.plbinv false 0) [])) (fun t => t.me.park.isNone && (t.coreAt 0).plb.isEmpty) = true ∧
    nextIs (exec (.plbinvComplete p0) (waitsFor (.plbinv false 1) [])) (fun t => t.me.park.isNone && (t.coreAt 0).plb.length == 1) = true := by
  decide +kernel

/-- A slot that waits for its PLB; a load whose page the translation buffer lacks. -/
def missing : State :=
  let s := mapped { world { thr 0 0 0 0 with park := some ⟨.plb 0x5000, false, 0, false⟩ } with flights := [flightOf (.load (.g 1 true)) (.va 0x5000) 0x5000 8 0], nextOp := 8 }
  let s : State := s.setClusterAt 0 { s.clusterAt 0 with tlb := [] }
  s.setCore p0 { s.core p0 with plb := [] }

theorem witness_Caches_fill : ((missing).thread? p0).bind (·.park) = some ⟨.plb 0x5000, false, 0, false⟩ ∧
    (missing.searchRegion 0 0x5000).toOption.isSome = true ∧
    missing.needsWalk 0 0x5000 0 = true ∧ (missing.clusterAt 0).tlbFind 0x5000 0 = none ∧ (missing.walk 0x5000).toOption.isSome = true ∧
    mm.needsWalk 0 0x5000 0 = false := by
  and_intros <;> decide +kernel

theorem test_fill :
    nextIs (exec (.plbFill p0 0x5000) missing) (fun t => (t.core p0).plbFind 0 0x5000 == some ⟨0, 0, 0xFFFF, true, true, true, false⟩) = true ∧
    nextIs (exec (.translationWalk 0 0 0x5000 0) missing) (fun t => (t.clusterAt 0).tlb.map (fun e => (e.vpage, e.size, e.base, e.leaf)) ==
      [(0, 2 ^ 36, 0, 0x4000)]) = true := by decide +kernel

/-- A gathered entry since cycle 0, at a cycle. -/
def gathered (clock : Nat) : State :=
  let s := waitsFor (.plbinv true 0) []
  s.setDie 0 { s.dieAt 0 with clock := clock }

theorem test_writeback :
    nextIs (exec (.adWritebackTimeout 0 0) (gathered 4194304)) (fun t => (t.clusterAt 0).tlb.all (fun e => e.since.isNone)) = true ∧
    nextIs (exec (.adWritebackTimeout 0 0) (gathered 4194303)) (fun t => (t.clusterAt 0).tlb.map (·.since) == [some 0]) = true := by decide +kernel

/-- The i-th line of the L2 set of the line 0x50, and it with what is held. -/
def l2Way (i : Nat) : Nat := 0x50 + i * 2 ^ 15

def l2Of (dirty strm : Bool) (pins : List Nat) (used : Nat) : L2Line := ⟨1, 0, dirty, strm, pins, 0, used⟩

/-- The line 0x50 of a set of `n` lines, its fellows used later. -/
def l2d (n : Nat) (l : L2Line) : State :=
  let s := mm
  s.setDie 0 { s.dieAt 0 with l2 := (0x50, l) :: (List.range (n - 1)).map (fun i => (l2Way (i + 1), l2Of false false [] (i + 9))) }

/-- Lines of the set, and its victim: 0x50 where it is unpinned and streamed or used least. -/
def l2Lines (s : State) : List (Nat × L2Line) := (s.dieAt 0).l2.filter (fun e => decide (s.l2SetOf e.1 = s.l2SetOf (0x5000 / 256)))

theorem witness_Caches_evict :
    homeDie 0x5000 = some 0 ∧ tget ((l2d 16 (l2Of true false [] 2)).dieAt 0).l2 (0x5000 / 256) = some (l2Of true false [] 2) ∧
    (l2Lines (l2d 16 (l2Of true false [] 2))).length = 16 ∧ (l2Lines (l2d 15 (l2Of true false [] 2))).length = 15 ∧
    l2Victim (l2Lines (l2d 16 (l2Of true false [] 2))) = some (0x5000 / 256) ∧
    l2Victim (l2Lines (l2d 16 (l2Of true true [] 99))) = some (0x5000 / 256) ∧
    l2Victim (l2Lines (l2d 16 (l2Of true false [] 99))) = some (l2Way 1) ∧
    l2Victim (l2Lines (l2d 16 (l2Of true true [3] 2))) = some (l2Way 1) ∧
    l2Victim [(0x50, l2Of true true [3] 2)] = none ∧ mm.present 0x5000 = true ∧ mm.flights = [] ∧ mm.present 0x5001 = true := by
  and_intros <;> decide +kernel

theorem test_evict :
    let gone (s : State) : Bool := nextIs (exec (.l2Eviction 0x5000 []) s) (fun t => (tget (t.dieAt 0).l2 0x50).isNone)
    nextIs (exec (.l1Eviction 0 0 0x140 []) (waitsFor (.plbinv true 0) [])) (fun t => (t.coreAt 0).l1.isEmpty && t.mem == mm.mem) = true ∧
    nextIs (exec (.l1Eviction 0 0 0x141 []) (waitsFor (.plbinv true 0) [])) (fun t => (t.coreAt 0).l1.length == 1) = true ∧
    gone (l2d 16 (l2Of true true [] 99)) = true ∧ gone (l2d 16 (l2Of true false [] 99)) = false ∧
    gone (l2d 16 (l2Of true true [3] 2)) = false ∧ gone (l2d 15 (l2Of true true [] 2)) = false ∧
    nextIs (exec (.l2Fill 0x5040) mm) (fun t => (tget (t.dieAt 0).l2 0x50).any (fun x => bit x.sectors 1)) = true ∧
    nextIs (exec (.hostWrite 0x5000 [0x11, 0x22]) mm) (fun t => t.mem == Memory.writeN mm.mem 0x5000 0x2211 2) = true := by decide +kernel

/-! ### The device -/

theorem test_boot :
    nextIs (exec (.boot true [] []) State.reset) (fun t => t.failed && !t.booted) = true ∧
    nextIs (exec (.boot false [3] [7, 1, 2, 3, 4, 5, 6, 8, 9, 10, 11, 12, 13]) State.reset) (fun t => t.booted && (t.dieAt 0).started &&
      !(t.dieAt 3).started && (t.dieAt 8).started && t.port.record == some ⟨[3], [], []⟩ && t.attest == [7, 1, 2, 3, 5, 6, 8, 9, 11, 12, 13]) = true ∧
    nextIs (exec (.boot true [] []) mm) (fun t => t.booted && !t.failed) = true := by decide +kernel

theorem test_device :
    nextIs (exec (.powerThrottle [0, 13]) mm) (fun t => (t.dieAt 0).lowered && !(t.dieAt 1).lowered) = true ∧
    nextIs (exec (.clusterQuarantine 0 0) (gang2 .running 0 id)) (fun t => (t.clusterAt 0).quarantined && (t.work 1).map (·.st) == some .moving) = true ∧
    (runs [.laneSpareSwap 16, .laneSpareSwap 16, .laneSpareSwap 16, .laneSpareSwap 16] mm).map (fun t =>
      ((tgetD t.culverts 16 Culvert.reset).spares, (tgetD t.culverts 16 Culvert.reset).half)) = some (0, false) ∧
    (runs [.laneSpareSwap 2, .laneSpareSwap 2, .laneSpareSwap 2, .laneSpareSwap 2, .laneSpareSwap 2] mm).map (fun t =>
      (tgetD t.culverts 2 Culvert.reset).half) = some true ∧
    (runs [.keyLoad 1 0xAA, .keyLoad 1 0xBB, .flitReplay 1 3] mm).map (fun t => tgetD t.culverts 1 Culvert.reset) =
      some ⟨4, false, 1, [(0, 0xAA), (1, 0xBB)], 1⟩ ∧
    (runs [.keyLoad 1 0xAA, .keyLoad 1 0xBB, .keyLoad 1 0xCC] mm).map (fun t => (tgetD t.culverts 1 Culvert.reset).keys) =
      some [(0, 0xAA), (1, 0xBB)] ∧
    (runs [.keyLoad 1 0xAA, .keyLoad 1 0xBB, .keyRetire 1] mm).map (fun t => (tgetD t.culverts 1 Culvert.reset).keys) = some [(1, 0xBB)] := by
  decide +kernel

/-- Channel 8 of stack 1 is failing. -/
def failing : State := { mm with channels := [(40, 1)], port := { mm.port with record := some ⟨[], [], []⟩ } }

theorem witness_DeviceEvents : State.reset.booted = false ∧ State.reset.failed = false ∧ mm.booted = true ∧
    ((gang2 .running 0 id).work 1).map (fun w => (w.st, w.members)) = some (.running, [p0]) ∧
    (tgetD mm.culverts 1 Culvert.reset).keys = [] ∧ (tgetD mm.culverts 1 Culvert.reset).spares = 4 ∧
    Config.clusterPresent 0 0 = true ∧ Config.culvertEnds 0 = some (0, 1) ∧ Config.culvertEnds 16 = some (11, 7) ∧
    Config.culvertEnds 17 = none ∧ Config.neighbours 3 11 = true ∧ Config.neighbours 11 3 = true ∧ Config.neighbours 3 7 = false ∧
    tget mm.channels 40 = none ∧ mm.retired 1 = 0 ∧ (tget failing.channels 40).isSome = true := by
  and_intros <;> decide +kernel

/-! ### The host: the command ring of eight records at 0x8000, the queue table at 0x6000 -/

/-- A command at the head of the ring. -/
def cmd (op queue : Nat) (a0 a1 : Nat) (s : State) : State :=
  let s : State := (s.writePa 0x8000 8 (op + queue * 2 ^ 16)).writePa 0x8008 8 a0
  let s : State := s.writePa 0x8010 8 a1
  { s with port := ⟨s.port.cfgrec, s.port.record, 0xB000, true, 1, 0, false, [0x1000, 0x2000, 0, 0, 0x6000, 0x7000, 0x8000 + 3 * 2 ^ 56, 0]⟩ }

/-- STATUS of the record and CMDHEAD. -/
def ended (o : Host.Outcome State Fault Refusal) (st : Nat) (f : State → Bool) : Bool :=
  nextIs o (fun t => (Memory.read t.mem 0x8001).toNat == st && t.port.cmdhead == 1 && f t)

theorem witness_HostCommands : (cmd 1 3 0 0 mm).cmdPlace = some 0x8000 ∧ (cmd 1 3 5 6 mm).cmdHead = some ⟨1, 3, 5, 6⟩ ∧
    (cmd 1 3 0 0 mm).queue 3 = none ∧ ((cmd 1 0 0 0 (que 0 0 0 id [])).queue 0).isSome = true ∧ State.reset.booted = false ∧
    mm.booted = true ∧ State.reset.port.enable = false := by
  and_intros <;> decide +kernel

theorem test_port :
    nextIs (exec .hostCtrlEnable State.reset) (fun t => !t.port.enable) = true ∧
    (let s : State := { mm with port := { mm.port with enable := false } }
     ((runs [.hostRegisterWrite 0x008 0xB000, .hostRegisterWrite 0x010 1, .hostRegisterWrite 0x008 5, .hostRegisterWrite 0x018 0x100000002]
       (s.writePa 0xB010 8 0x1234)).map (fun t => (t.port.enable, t.port.pcb, t.port.cmdtail, nth t.port.block 2 0)) =
       some (true, 0xB000, 2, 0x1234))) := by decide +kernel

/-- Queue 1 registered from its entry at 0x6040, which owns d2. -/
def entry1 (s : State) : State := (s.writePa 0x6048 8 (2 ^ 14)).writePa 0x6068 8 0x77

theorem test_queues :
    ended (exec .qcreate (cmd 1 1 0 0 (entry1 mm))) 1 (fun t => (t.queue 1).any (fun q => q.wdog == 0x77 && q.current && !q.stopped)) = true ∧
    ended (exec .qcreate (cmd 1 0 0 0 (que 0 0 0 id []))) 2 (fun t => (t.queue 0).isSome) = true ∧
    ended (exec .qresume (cmd 3 0 0 0 (stopping [] id id))) 1 (fun t => (t.queue 0).any (fun q => !q.stopped && q.changing.isEmpty)) = true ∧
    ended (exec .qresume (cmd 3 9 0 0 mm)) 2 (fun _ => true) = true ∧
    nextIs (exec .qkill (cmd 4 0 0 0 (que 0 0 0 id []))) (fun t => (t.work 1).all (fun w => w.st == .dead) && t.port.cmdhead == 1) = true ∧
    ended (exec .qdestroy (cmd 5 0 0 0 (que 0 0 0 id []))) 2 (fun t => (t.queue 0).isSome) = true ∧
    ended (exec .qdestroy (cmd 5 0 0 0 { que 0 0 0 id [] with units := [], threads := [] })) 1 (fun t => (t.queue 0).isNone) = true ∧
    ended (exec .qwdog (cmd 13 0 0x5 0 (que 0 0 0 id []))) 1 (fun t => (t.queue 0).any (fun q => q.wdog == 5)) = true := by decide +kernel

/-- QSTOP begins, waits for the slot, and ends. -/
theorem test_qstop :
    nextIs (exec .qstop (cmd 2 0 0 0 (que 0 0 0 id []))) (fun t => t.port.begun && t.port.cmdhead == 0 &&
      (t.queue 0).any (fun q => q.stopped && q.changing == [p0])) = true ∧
    (let s := cmd 2 0 0 0 (stopping [] id id)
     let s : State := { s with port := { s.port with begun := true } }
     nextIs (exec .qstop s) (fun t => t.port.cmdhead == 0)) = true ∧
    (let s := cmd 2 0 0 0 (stopping [] (fun q => { q with saveFailed := true }) id)
     let s : State := { s.changed 0 p0 false with port := { s.port with begun := true } }
     ended (exec .qstop s) 2 (fun _ => true)) = true ∧
    (let s := cmd 2 0 0 0 (stopping [] id id)
     let s : State := { s.changed 0 p0 false with port := { s.port with begun := true } }
     ended (exec .qstop s) 1 (fun _ => true)) = true := by decide +kernel

/-- Nodes of d3: its 256-core node is 3, the 128-core nodes 19 and 147. -/
theorem test_nodes :
    ended (exec .split (cmd 6 0 3 0 mm)) 1 (fun t => t.nodes == [3]) = true ∧
    ended (exec .split (cmd 6 0 (3 + 5 * 16) 0 mm)) 2 (fun t => t.nodes == []) = true ∧
    ended (exec .split (cmd 6 0 0 0 (que 0 0 0 id []))) 2 (fun t => t.nodes == []) = true ∧
    ended (exec .merge (cmd 7 0 (3 + 16) 0 { mm with nodes := [3] })) 1 (fun t => t.nodes == []) = true ∧
    ended (exec .merge (cmd 7 0 3 0 { mm with nodes := [3] })) 2 (fun t => t.nodes == [3]) = true := by decide +kernel

/-- A halted slot in d0. -/
def haltedS : State := let s := que 0 0 0 id []
  s.setDie 0 { s.dieAt 0 with halted := true }

/-- An image at 0xA000 that names the pc 0x20000. -/
def imaged (w37 : Nat) : State := ((haltedS.writePa 0xA0F8 8 0x20000).writePa (0xA000 + 8 * 37) 8 w37).writePa 0xA008 8 0x33

theorem witness_HostCommands_slots : ((cmd 10 0 0 0xA000 haltedS).haltedSlot ⟨10, 0, 0, 0xA000⟩).map (·.1) = some p0 ∧
    ((cmd 10 0 0 0xA000 (que 0 0 0 id [])).haltedSlot ⟨10, 0, 0, 0xA000⟩).isNone = true ∧
    imageOk (wordsOf ((cmd 11 0 0 0xA000 (imaged 0x400)).readPa 0xA000 384) 48) = true ∧
    imageOk (wordsOf ((cmd 11 0 0 0xA000 (imaged 0x401)).readPa 0xA000 384) 48) = false := by
  and_intros <;> decide +kernel

theorem test_halt :
    nextIs (exec .halt (cmd 8 0 0x9 0 mm)) (fun t => (t.dieAt 0).halted && !(t.dieAt 1).halted && (t.dieAt 3).halted &&
      t.port.cmdhead == 1) = true ∧
    ended (exec .run (cmd 9 0 0x1 0 haltedS)) 1 (fun t => !(t.dieAt 0).halted) = true ∧
    nextIs (exec .snap (cmd 10 0 0 0xA000 haltedS)) (fun t => t.port.cmdhead == 1 && (t.thread? p0).isSome) = true ∧
    ended (exec .snap (cmd 10 0 0 0xA000 (que 0 0 0 id []))) 2 (fun _ => true) = true ∧
    ended (exec .patch (cmd 11 0 0 0xA000 (imaged 0x400))) 1 (fun t => t.me.pc == 0x20000 && vget t.me.g 2 (.val 0) == .val 0x33) = true ∧
    ended (exec .patch (cmd 11 0 0 0xA000 (imaged 0x401))) 2 (fun t => t.me.pc == 0x100) = true := by decide +kernel

theorem test_retire_channel :
    ended (exec .retire (cmd 14 0 1 8 failing)) 1 (fun t => tget t.channels 40 == some 2 && t.retired 1 == 1 &&
      t.port.record == some ⟨[], [40], [(1, (List.range 32).filter (· != 8))]⟩ && t.channelOf (2 ^ 36 + 0x800) == 17 &&
      !t.present (2 ^ 36 + 31 * 0x60000000) && t.present (2 ^ 36 + 31 * 0x60000000 - 1)) = true ∧
    ended (exec .retire (cmd 14 0 1 8 mm)) 2 (fun t => t.retired 1 == 0) = true ∧
    ended (exec .pcbload (cmd 12 0 0 0 (mm.writePa 0xB018 8 0x99))) 1 (fun t => nth t.port.block 3 0 == 0x99) = true ∧
    nextIs (exec (.hbmChannelFailure 1 8) mm) (fun t => tget t.channels 40 == some (if t.eventSeq == mm.eventSeq then 3 else 1)) = true ∧
    (let s : State := { mm with port := { mm.port with enable := false } }
     nextIs (exec (.hbmChannelFailure 1 8) s) (fun t => tget t.channels 40 == some 3 && t.eventSeq == s.eventSeq)) = true ∧
    ended (exec .retire (cmd 14 0 1 8 { mm with channels := [(40, 3)] })) 2 (fun t => tget t.channels 40 == some 3) = true := by decide +kernel

end Sys2Proof.Tests
end

section
/-! PROOFS. The events of the device that belong to no other unit, and the reset state (01 R18 to R24; 19 R287, R288; 23 R333,
Table 23.7). -/

namespace Sys2Proof.Machine

/-! ### What exec does at each event -/

section ExecEvents
variable (s : State)

theorem exec_boot (bad : Bool) (dies hashes : List Nat) :
    exec (.boot bad dies hashes) s = .next (s.boot bad dies hashes) := rfl

theorem exec_powerThrottle (dies : List Nat) : exec (.powerThrottle dies) s = .next (s.throttle dies) := rfl

theorem exec_voltageDroop (die : Nat) : exec (.voltageDroop die) s = .next s := rfl

theorem exec_clusterQuarantine (die cluster : Nat) :
    exec (.clusterQuarantine die cluster) s = .next (s.clusterOut die cluster) := rfl

theorem exec_laneSpareSwap (c : Nat) : exec (.laneSpareSwap c) s = .next (s.mapCulvert c Culvert.swapLane) := rfl

theorem exec_keyLoad (c key : Nat) : exec (.keyLoad c key) s = .next (s.mapCulvert c (·.loadKey key)) := rfl

theorem exec_keyRetire (c : Nat) : exec (.keyRetire c) s = .next (s.mapCulvert c Culvert.retireKey) := rfl

theorem exec_flitReplay (c : Nat) {ch : Nat} (h : ch < 4) :
    exec (.flitReplay c ch) s = .next (s.mapCulvert c (fun x => { x with resent := x.resent + 1 })) :=
  congrArg Host.Outcome.next (if_pos h)

theorem exec_hbmChannelFailure (stack channel : Nat) :
    exec (.hbmChannelFailure stack channel) s = .next (s.channelFails stack channel) := rfl

end ExecEvents

/-! ### Bytes that stay -/

theorem SameBytes.of_eq {s t : State} (hm : t.mem = s.mem) (hs : t.sram = s.sram) (hw : t.wmem = s.wmem) :
    SameBytes s t :=
  ⟨fun _ => by rw [hm], fun _ => by rw [hs], fun _ => by rw [hw]⟩

/-! ### Changes of several dies -/

/-- The dies after the change g of each one named. -/
def mapDies (g : DieSt → DieSt) (l : List Nat) (t : Table DieSt) : Table DieSt :=
  l.foldl (fun t d => tset t d (g (tgetD t d DieSt.reset))) t

/-- Dies that are changed one after another change nothing else of the state. -/
theorem foldl_setDie_eq_mapDies (g : DieSt → DieSt) (l : List Nat) (s : State) :
    l.foldl (fun s d => s.setDie d (g (s.dieAt d))) s = { s with dies := mapDies g l s.dies } := by
  induction l generalizing s with
  | nil => rfl
  | cons d l ih => exact ih _

/-- A change that repeats itself changes a die once, however often the list names it. -/
theorem tgetD_mapDies {g : DieSt → DieSt} (hg : ∀ x, g (g x) = g x) (l : List Nat) (t : Table DieSt) (d : Nat) :
    tgetD (mapDies g l t) d DieSt.reset =
      if d ∈ l then g (tgetD t d DieSt.reset) else tgetD t d DieSt.reset := by
  induction l generalizing t with
  | nil => rfl
  | cons e l ih =>
    have hstep : mapDies g (e :: l) t = mapDies g l (tset t e (g (tgetD t e DieSt.reset))) := rfl
    rw [hstep, ih]
    by_cases h : d = e
    · subst h; simp [hg]
    · simp [tgetD_tset_other _ _ _ h, h]

/-! ### Boot (01 R24) -/

/-- A die whose image has started. -/
def DieSt.start (x : DieSt) : DieSt := { x with started := true }

theorem DieSt.start_start (x : DieSt) : x.start.start = x.start := rfl

/-- The dies that a boot starts: d8, which holds the ROM, and those whose image verifies. -/
def startedDies (bad : List Nat) : List Nat := (List.range 12).filter (fun d => d == 8 || !bad.contains d)

theorem mem_startedDies {bad : List Nat} {d : Nat} : d ∈ startedDies bad ↔ d < 12 ∧ (d = 8 ∨ d ∉ bad) := by
  simp [startedDies]

/-- The dies that a boot reports absent. -/
def absentDies (bad : List Nat) : List Nat := (List.range 12).filter (fun d => !(startedDies bad).contains d)

theorem mem_absentDies {bad : List Nat} {d : Nat} : d ∈ absentDies bad ↔ d < 12 ∧ d ≠ 8 ∧ d ∈ bad := by
  simp only [absentDies, List.mem_filter, List.mem_range, Bool.not_eq_true', List.contains_eq_mem,
    decide_eq_false_iff_not, mem_startedDies]
  tauto

/-- The dies that log a hash of their own are the started ones but d8. -/
theorem startedDies_filter_ne (bad : List Nat) :
    (startedDies bad).filter (fun d => d != 8) = (List.range 12).filter (fun d => d != 8 && !bad.contains d) := by
  rw [startedDies, List.filter_filter]
  refine List.filter_congr fun d _ => ?_
  by_cases h : d = 8
  · simp [h]
  · simp [beq_false_of_ne h]

section Boot
variable {s : State}

theorem State.boot_of_over (h : s.booted = true ∨ s.failed = true) (bad : Bool) (dies hashes : List Nat) :
    s.boot bad dies hashes = s := by
  rcases h with h | h
  · simp [State.boot, h]
  · simp [State.boot, h]

theorem State.boot_of_badPackage (hb : s.booted = false) (hf : s.failed = false) (dies hashes : List Nat) :
    s.boot true dies hashes = { s with failed := true } := by
  simp [State.boot, hb, hf]

theorem State.boot_of_goodPackage (hb : s.booted = false) (hf : s.failed = false) (dies hashes : List Nat) :
    s.boot false dies hashes =
      { s with
        freeCount := s.freeCount + 1
        dies := mapDies DieSt.start (startedDies dies) s.dies
        booted := true
        attest := s.attest ++
          (nth hashes 0 0 :: ((startedDies dies).filter (fun d => d != 8)).map (fun d => nth hashes (d + 1) 0))
        port := { s.port with
          cfgrec := Config.freeValue s.freeCount
          record := some ⟨absentDies dies, [], []⟩ } } := by
  have hgo : (s.booted || s.failed) = false := by rw [hb, hf]; rfl
  have hdies : (startedDies dies).foldl (fun s d => s.setDie d { s.dieAt d with started := true }) s.fresh.2 =
      { s.fresh.2 with dies := mapDies DieSt.start (startedDies dies) s.dies } :=
    foldl_setDie_eq_mapDies DieSt.start (startedDies dies) s.fresh.2
  unfold startedDies at hdies
  simp only [State.boot, hgo, Bool.false_eq_true, if_false, hdies]
  rfl

/-- What a boot of a good package leaves of each die. -/
theorem State.dieAt_boot (hb : s.booted = false) (hf : s.failed = false) (dies hashes : List Nat) (d : Nat) :
    (s.boot false dies hashes).dieAt d = if d ∈ startedDies dies then (s.dieAt d).start else s.dieAt d := by
  rw [State.boot_of_goodPackage hb hf]
  exact tgetD_mapDies DieSt.start_start _ _ _

theorem State.boot_starts (hb : s.booted = false) (hf : s.failed = false) (dies hashes : List Nat) {d : Nat} (hd : d < 12)
    (h : d = 8 ∨ d ∉ dies) : ((s.boot false dies hashes).dieAt d).started = true := by
  rw [State.dieAt_boot hb hf, if_pos (mem_startedDies.mpr ⟨hd, h⟩)]
  rfl

theorem State.boot_leaves_bad (hb : s.booted = false) (hf : s.failed = false) (dies hashes : List Nat) {d : Nat} (h8 : d ≠ 8)
    (h : d ∈ dies) : (s.boot false dies hashes).dieAt d = s.dieAt d := by
  have hout : d ∉ startedDies dies := fun hin => (mem_startedDies.mp hin).2.elim h8 (· h)
  rw [State.dieAt_boot hb hf, if_neg hout]

end Boot

/-! ### Power (01 R18, R19) -/

/-- A die whose clocks are lowered. -/
def DieSt.lower (x : DieSt) : DieSt := { x with lowered := true }

theorem DieSt.lower_lower (x : DieSt) : x.lower.lower = x.lower := rfl

theorem State.throttle_eq (s : State) (dies : List Nat) :
    s.throttle dies = { s with dies := mapDies DieSt.lower (dies.filter (fun d => decide (d < 12))) s.dies } := by
  rw [← foldl_setDie_eq_mapDies, List.foldl_filter]
  simp only [decide_eq_true_eq]
  rfl

theorem State.dieAt_throttle (s : State) (dies : List Nat) (d : Nat) :
    (s.throttle dies).dieAt d = if d < 12 ∧ d ∈ dies then (s.dieAt d).lower else s.dieAt d := by
  rw [State.throttle_eq]
  refine (tgetD_mapDies DieSt.lower_lower _ _ _).trans ?_
  simp only [List.mem_filter, decide_eq_true_eq, and_comm, State.dieAt]

theorem State.lowered_throttle (s : State) (dies : List Nat) (d : Nat) :
    ((s.throttle dies).dieAt d).lowered = ((s.dieAt d).lowered || (decide (d < 12) && dies.contains d)) := by
  rw [State.dieAt_throttle]
  by_cases h : d < 12 ∧ d ∈ dies
  · simp [h, DieSt.lower]
  · have hout : (decide (d < 12) && dies.contains d) = false := by simpa using h
    rw [if_neg h, hout, Bool.or_false]

theorem State.dieAt_throttle_frame (s : State) (dies : List Nat) (d : Nat) :
    { (s.throttle dies).dieAt d with lowered := (s.dieAt d).lowered } = s.dieAt d := by
  rw [State.dieAt_throttle]
  split
  · rfl
  · rfl

/-! ### Quarantine of a cluster (01 R21) -/

/-- What becomes of a gang that is to migrate at once, to no die in particular: only a running one moves (23 R322). -/
def Work.leave (w : Work) : Work := if w.st = .running then { w with st := .moving, target := none } else w

theorem Work.leave_leave (w : Work) : w.leave.leave = w.leave := by
  by_cases h : w.st = .running
  · simp [Work.leave, h]
  · simp [Work.leave, h]

theorem Work.leave_running {w : Work} (h : w.st = .running) : w.leave = { w with st := .moving, target := none } :=
  if_pos h

theorem State.startMigration_units (s : State) (u need : Nat) (target : Option Nat) :
    ∃ x, s.startMigration u need target = { s with units := x } := by
  unfold State.startMigration
  split
  · exact ⟨s.units, rfl⟩
  · split
    · exact ⟨_, rfl⟩
    · exact ⟨s.units, rfl⟩

theorem State.work_startMigration (s : State) (u n : Nat) :
    (s.startMigration u 0 none).work n = if n = u then (s.work n).map Work.leave else s.work n := by
  unfold State.startMigration
  by_cases hn : n = u
  · subst hn
    rw [if_pos rfl]
    cases hw : s.work n with
    | none => simp [hw]
    | some w =>
      by_cases hrun : w.st = .running
      · simp [hrun, Work.leave]
      · simp [hrun, hw, Work.leave]
  · rw [if_neg hn]
    cases hw : s.work u with
    | none => rfl
    | some w =>
      simp only
      split
      · simp [State.work, tget_tset_other _ _ hn]
      · rfl

theorem State.foldl_startMigration_units (us : List Nat) (s : State) :
    ∃ x, us.foldl (fun s u => s.startMigration u 0 none) s = { s with units := x } := by
  induction us generalizing s with
  | nil => exact ⟨s.units, rfl⟩
  | cons u us ih =>
    obtain ⟨x, hx⟩ := s.startMigration_units u 0 none
    rw [List.foldl_cons, hx]
    exact ih _

theorem State.work_foldl_startMigration (us : List Nat) (s : State) (n : Nat) :
    (us.foldl (fun s u => s.startMigration u 0 none) s).work n =
      if n ∈ us then (s.work n).map Work.leave else s.work n := by
  induction us generalizing s with
  | nil => rfl
  | cons u us ih =>
    rw [List.foldl_cons, ih, State.work_startMigration]
    by_cases hu : n = u
    · simp [hu, Function.comp_def, Work.leave_leave]
    · simp [hu]

theorem mem_of_tget {α : Type} {t : Table α} {k : Nat} {a : α} (h : tget t k = some a) : (k, a) ∈ t := by
  induction t with
  | nil => simp at h
  | cons e r ih =>
    obtain ⟨j, b⟩ := e
    by_cases hj : j = k
    · obtain rfl : b = a := by simpa [tget, hj] using h
      exact hj ▸ List.mem_cons_self
    · exact List.mem_cons_of_mem _ (ih (by simpa [tget, hj] using h))

/-- The gangs with a member on a cluster. -/
def State.gangsOn (s : State) (ck : Nat) : List Nat :=
  (s.units.filter (fun e => e.2.members.any (fun p => Party.clusterKey p == ck))).map (·.1)

theorem State.mem_gangsOn {s : State} {ck n : Nat} {w : Work} (hw : s.work n = some w)
    (hp : ∃ p ∈ w.members, Party.clusterKey p = ck) : n ∈ s.gangsOn ck := by
  refine List.mem_map.mpr ⟨(n, w), List.mem_filter.mpr ⟨mem_of_tget hw, ?_⟩, rfl⟩
  simpa using hp

theorem State.clusterOut_eq (s : State) {die cluster : Nat} (h : Config.clusterPresent die cluster = true) :
    s.clusterOut die cluster =
      (s.gangsOn (die * 32 + cluster)).foldl (fun s u => s.startMigration u 0 none)
        (s.setClusterAt (die * 32 + cluster) { s.clusterAt (die * 32 + cluster) with quarantined := true }) := by
  simp only [State.clusterOut, h, Bool.not_true, Bool.false_eq_true, if_false]
  rfl

/-- A quarantine changes the cluster's mark and the gangs, nothing else. -/
theorem State.clusterOut_changes (s : State) {die cluster : Nat} (h : Config.clusterPresent die cluster = true) :
    ∃ x, s.clusterOut die cluster =
      { s.setClusterAt (die * 32 + cluster) { s.clusterAt (die * 32 + cluster) with quarantined := true } with
        units := x } := by
  rw [State.clusterOut_eq s h]
  exact State.foldl_startMigration_units _ _

theorem State.work_clusterOut (s : State) {die cluster n : Nat} (h : Config.clusterPresent die cluster = true) :
    (s.clusterOut die cluster).work n =
      if n ∈ s.gangsOn (die * 32 + cluster) then (s.work n).map Work.leave else s.work n := by
  rw [State.clusterOut_eq s h]
  exact State.work_foldl_startMigration _ _ _

theorem State.clusterOut_moves {s : State} {die cluster n : Nat} {w : Work}
    (h : Config.clusterPresent die cluster = true) (hw : s.work n = some w) (hrun : w.st = .running)
    (hp : ∃ p ∈ w.members, Party.clusterKey p = die * 32 + cluster) :
    (s.clusterOut die cluster).work n = some { w with st := .moving, target := none } := by
  rw [State.work_clusterOut s h, if_pos (State.mem_gangsOn hw hp), hw, Option.map_some, Work.leave_running hrun]

/-! ### Culverts (01 R8, R22; 19 R287, R288) -/

theorem State.mapCulvert_of_lt (s : State) {c : Nat} (h : c < 17) (f : Culvert → Culvert) :
    s.mapCulvert c f = { s with culverts := tset s.culverts c (f (tgetD s.culverts c Culvert.reset)) } := if_pos h

section Culvert
variable {c : Culvert}

theorem Culvert.swapLane_spare (h : 0 < c.spares) : c.swapLane = { c with spares := c.spares - 1 } := if_pos h

theorem Culvert.swapLane_none (h : c.spares = 0) : c.swapLane = { c with half := true } :=
  if_neg (by omega)

theorem Culvert.loadKey_first (key : Nat) (h : c.keys = []) : c.loadKey key = { c with keys := [(c.keyIndex, key)] } := by
  simp [Culvert.loadKey, h]

theorem Culvert.loadKey_second (key : Nat) {k : Nat × Nat} (h : c.keys = [k]) :
    c.loadKey key = { c with keyIndex := 1 - c.keyIndex, keys := [k, (1 - c.keyIndex, key)] } := by
  simp [Culvert.loadKey, h]

/-- While two keys are live there is no index for a third. -/
theorem Culvert.loadKey_full (key : Nat) (h : 2 ≤ c.keys.length) : c.loadKey key = c := by
  match hk : c.keys with
  | [] => simp [hk] at h
  | [_] => simp [hk] at h
  | _ :: _ :: _ => simp [Culvert.loadKey, hk]

end Culvert

theorem culvertEnds_lt {c : Nat} {e : Nat × Nat} (h : Config.culvertEnds c = some e) : c < 17 := by
  unfold Config.culvertEnds at h
  split at h
  · omega
  · split at h
    · assumption
    · cases h

theorem culvertEnds_neighbours {c a b : Nat} (h : Config.culvertEnds c = some (a, b)) : Config.neighbours a b = true := by
  have hall : ∀ c < 17, (Config.culvertEnds c).all (fun e => Config.neighbours e.1 e.2) = true := by decide
  simpa [h] using hall c (culvertEnds_lt h)

theorem neighbours_lt {a b : Nat} (h : Config.neighbours a b = true) : a < 12 ∧ b < 12 := by
  simp only [Config.neighbours, Bool.and_eq_true, decide_eq_true_eq] at h
  exact h.1

/-- The number of the culvert between two neighbours: within a row by the left die, between rows by the upper one. -/
def culvertBetween (a b : Nat) : Nat :=
  if Config.gridRow a = Config.gridRow b then 3 * Config.gridRow a + min (Config.gridCol a) (Config.gridCol b)
  else 9 + 4 * min (Config.gridRow a) (Config.gridRow b) + Config.gridCol a

/-- The culvert between two neighbours names the left or upper one first. -/
theorem culvertEnds_culvertBetween {a b : Nat} (h : Config.neighbours a b = true) :
    Config.culvertEnds (culvertBetween a b) =
      some (if Config.gridRow a + Config.gridCol a < Config.gridRow b + Config.gridCol b then (a, b) else (b, a)) := by
  have hall : ∀ a < 12, ∀ b < 12, Config.neighbours a b = true → Config.culvertEnds (culvertBetween a b) =
      some (if Config.gridRow a + Config.gridCol a < Config.gridRow b + Config.gridCol b then (a, b) else (b, a)) := by
    decide
  obtain ⟨ha, hb⟩ := neighbours_lt h
  exact hall a ha b hb h

theorem exists_culvertEnds {a b : Nat} (h : Config.neighbours a b = true) :
    ∃ c < 17, Config.culvertEnds c = some (a, b) ∨ Config.culvertEnds c = some (b, a) := by
  have hends := culvertEnds_culvertBetween h
  refine ⟨culvertBetween a b, culvertEnds_lt hends, ?_⟩
  rw [hends]
  split
  · exact .inl rfl
  · exact .inr rfl

/-! ### Channels (23 R333) -/

theorem State.topRange_eq (s : State) (stack : Nat) :
    s.topRange stack = stack * 2 ^ 36 + (31 - s.retired stack) * 0x60000000 := by
  have h : 32 - (s.retired stack + 1) = 31 - s.retired stack := by omega
  rw [State.topRange, h]
  rfl

section ChannelFails
variable {s : State} {stack channel : Nat}

theorem State.channelFails_again (h : (tget s.channels (stack * 32 + channel)).isSome = true) :
    s.channelFails stack channel = s := by
  simp [State.channelFails, h]

/-- A channel's first failure: the record of KIND 9 is offered to the host's queue, and the channel is held reported only
where the queue took it, which the arbiter's count shows. -/
theorem State.channelFails_first (hs : stack < 16) (hc : channel < 32) (h : tget s.channels (stack * 32 + channel) = none) :
    ∃ u w : State, ∃ cause dom, { u with freeCount := s.freeCount } = s ∧
      w = u.postHost cause 9 dom none none (some (s.topRange stack)) (some (stack + channel * 16)) ∧
      s.channelFails stack channel =
        { w with channels := tset s.channels (stack * 32 + channel) (if w.eventSeq = s.eventSeq then 3 else 1) } := by
  refine ⟨{ s with freeCount := s.freeCount + 2 }, _, (Config.freeValue s.freeCount).toNat % 256,
    (Config.freeValue (s.freeCount + 1)).toNat % 128, rfl, rfl, ?_⟩
  have hnew : (decide (16 ≤ stack) || decide (32 ≤ channel) || (tget s.channels (stack * 32 + channel)).isSome) = false := by
    simp [h, hs, hc]
  simp only [State.channelFails, hnew, Bool.false_eq_true, if_false, beq_iff_eq]
  rfl

end ChannelFails

/-! ### The first step after reset (01 R24) -/

/-- The counts of the barriers of a die. -/
def State.countDie (s : State) (e : Nat × DieSt) : State :=
  if e.2.bars.all (fun b => b.2.arrived.isEmpty) then s
  else
    s.setDie e.1 { s.dieAt e.1 with bars := (s.dieAt e.1).bars.map (fun b => (b.1, s.takeCounts b.2)) }

theorem State.countSweep_eq {s : State} (hb : s.bars = []) : s.countSweep = s.dies.foldl State.countDie s := by
  simp only [State.countSweep, hb, List.isEmpty_nil, if_true]
  rfl

theorem State.foldl_countDie_of_idle (s : State) {l : Table DieSt} (hl : ∀ e ∈ l, e.2.bars = []) :
    l.foldl State.countDie s = s := by
  induction l with
  | nil => rfl
  | cons e l ih =>
    obtain ⟨he, hl⟩ := List.forall_mem_cons.mp hl
    have hs : s.countDie e = s := if_pos (by simp [he])
    rw [List.foldl_cons, hs, ih hl]

/-- After a move there is nothing to do where no operation is in flight, no slot holds a context, no cluster has been used
and no die has a barrier. -/
theorem State.sweep_of_idle {s : State} (hf : s.flights = []) (ht : s.threads = []) (hc : s.clusters = [])
    (hb : s.bars = []) (hd : ∀ e ∈ s.dies, e.2.bars = []) : s.sweep = s := by
  have hcount : s.countSweep = s := (State.countSweep_eq hb).trans (s.foldl_countDie_of_idle hd)
  simp [State.sweep, State.pzeroSweep, State.killSweep, State.wfreeSweep, State.quitSweep, State.followSweep,
    State.settleAll, State.contexts, hf, ht, hc, hcount]

/-- The package boots in the first step, with the images of all its dies verified, and nothing else happens in it. -/
theorem step_reset : step State.reset = .next (State.reset.boot false [] []) := by
  have hbars : ∀ e ∈ (State.reset.boot false [] []).dies, e.2.bars = [] := by
    rw [State.boot_of_goodPackage rfl rfl]
    decide
  have hsweep : (State.reset.boot false [] []).sweep = State.reset.boot false [] [] := by
    refine State.sweep_of_idle ?_ ?_ ?_ ?_ hbars
    all_goals rw [State.boot_of_goodPackage rfl rfl]; rfl
  calc step State.reset
      = .next (State.reset.boot false [] []).sweep := rfl
    _ = .next (State.reset.boot false [] []) := by rw [hsweep]

end Sys2Proof.Machine

open Sys2Proof Sys2Proof.Machine

/-- Settles O59, one event after another: each is exec's equation for it and what its operation leaves. -/
theorem deviceEvents : Obligations.DeviceEvents := by
  unfold Obligations.DeviceEvents
  refine ⟨fun s bad dies hashes => ⟨fun h => ?_, fun hb hf => ⟨?_, ?_⟩⟩, fun s dies die => ⟨?_, exec_voltageDroop s die⟩,
    fun s die cluster h => ?_, fun s c key hc => ?_, fun c a b h => ⟨culvertEnds_lt h, culvertEnds_neighbours h⟩,
    fun a b => exists_culvertEnds, fun s stack channel hs hc => ⟨fun h => ?_, fun h => ?_⟩⟩
  · rw [exec_boot, State.boot_of_over h]
  · rw [exec_boot, State.boot_of_badPackage hb hf]
  · have hboot := State.boot_of_goodPackage hb hf dies hashes
    refine ⟨_, exec_boot s false dies hashes, by rw [hboot], ?_, by rw [hboot],
      fun d hd h => State.boot_starts hb hf dies hashes hd h,
      fun d h8 h => congrArg DieSt.started (State.boot_leaves_bad hb hf dies hashes h8 h), ?_, ?_⟩
    · rw [hboot]
      exact .of_eq rfl rfl rfl
    · rw [hboot]
      exact ⟨_, rfl, rfl, fun d => mem_absentDies⟩
    · rw [hboot, ← startedDies_filter_ne]
  · exact ⟨_, exec_powerThrottle s dies, by rw [State.throttle_eq],
      fun d => ⟨State.lowered_throttle s dies d, State.dieAt_throttle_frame s dies d⟩⟩
  · obtain ⟨x, hx⟩ := State.clusterOut_changes s h
    refine ⟨_, exec_clusterQuarantine s die cluster, ?_, ?_, by rw [hx]; rfl, fun n w hw hrun hp => ?_⟩
    · rw [hx]
      exact congrArg ClusterSt.quarantined (State.clusterAt_setClusterAt_same s _ _)
    · rw [hx]
      exact .of_eq rfl rfl rfl
    · exact ⟨_, State.clusterOut_moves h hw hrun hp, rfl, rfl⟩
  · intro old sets
    have hsets {i : Instr} {f : Culvert → Culvert} {y : Culvert} (hi : exec i s = .next (s.mapCulvert c f))
        (hf : f old = y) : sets i y := by
      rw [← hf]
      exact hi.trans (congrArg _ (State.mapCulvert_of_lt s hc f))
    have hswap := exec_laneSpareSwap s c
    have hload := exec_keyLoad s c key
    exact ⟨fun h => hsets hswap (Culvert.swapLane_spare h), fun h => hsets hswap (Culvert.swapLane_none h),
      fun ch h => hsets (exec_flitReplay s c h) rfl, fun h => hsets hload (Culvert.loadKey_first key h),
      fun k h => hsets hload (Culvert.loadKey_second key h), fun h => hsets hload (Culvert.loadKey_full key h),
      hsets (exec_keyRetire s c) rfl⟩
  · rw [exec_hbmChannelFailure, State.channelFails_again h]
  · obtain ⟨u, w, cause, dom, hu, hw, hfails⟩ := State.channelFails_first hs hc h
    rw [State.topRange_eq] at hw
    exact ⟨u, w, cause, dom, hu, hw, congrArg _ hfails⟩

/-- Settles O9: the first step is the boot of an untouched package, and the boot starts every die whose image is good. -/
theorem resetStateIsUnbooted : Obligations.ResetStateIsUnbooted := by
  unfold Obligations.ResetStateIsUnbooted
  refine ⟨State.reset_memoryWf, rfl, rfl, fun _ => rfl, rfl, rfl, rfl, rfl, State.reset.boot false [] [], step_reset, ?_, ?_⟩
  · rw [State.boot_of_goodPackage rfl rfl]
  · exact fun d hd => State.boot_starts rfl rfl [] [] hd (.inr List.not_mem_nil)

end

section
/-! PROOFS. Launches that wait for a word (03 R32; 17 R238). -/

namespace Sys2Proof.Machine

/-- A launch of domain 1 that waits for the word at 0x4000 to reach 1. -/
def waitingLaunch : Launch := ⟨0, 0, 0, [0, 0, 0, 2 ^ 56, 0, 0, 0x4000, 0, 0, 0, 1, 0], [], 0, 0, false⟩

/-- A store that has yet to be performed. -/
def pendingStore : Flight :=
  ⟨1, ⟨0, 0, 0⟩, 1, .store, [mkPart 0x5000 (.va 0x5000) 4 1], .rlx, .slot, 1, 0, false, 0, false⟩

/-- The word at 0x4000 reads 1: a release at die scope wrote it and was performed before the store that it follows, so that no
party of die 0 may see it yet. Virtual addresses below 2^36 are mapped to themselves, and domain 1 may read the lowest 64 KiB. -/
def veiledWait : State :=
  { State.reset with
    mem := [(1, 0x20), (7, 0x80), (17, 0x30), (24, 1), (0x2007, 0xC0), (0x3007, 0x80), (0x4000, 1)]
    launches := [(1, waitingLaunch)]
    queues := [(0, ⟨[], 0, 0, 0, none, false, [1], [0, 0, 0], [], [], 0, true, [], [], false, []⟩)]
    flights := [pendingStore]
    veils := [⟨⟨0, 0, 0⟩, .die, .pa 0x4000, 4, 0, [1]⟩] }

theorem veiledWait_schedRead : veiledWait.schedRead 0x4000 4 = .ok 1 := by decide +kernel

theorem veiledWait_regionRights : veiledWait.regionRights 1 false needR 2 0x4000 0x4004 = true := by decide +kernel

/-- The die of queue 0 may not see the word. -/
theorem veiledWait_schedVeiled : (veiledWait.queue waitingLaunch.queue).any
    (fun q => veiledWait.schedVeiled q.die (recWait waitingLaunch.words 0) 4) = true := by decide +kernel

/-- The scheduler's read of a wait word that is veiled from its die changes nothing. -/
theorem exec_waitWordRead_of_veiled {s : State} {id i : Nat} {l : Launch} (hl : tget s.launches id = some l)
    (hv : (s.queue l.queue).any (fun q => s.schedVeiled q.die (recWait l.words i) 4) = true) :
    exec (.waitWordRead id i) s = .next s := by
  have hread : s.readWait id i = s := by simp [State.readWait, hl, hv]
  exact congrArg Host.Outcome.next hread

end Sys2Proof.Machine

open Sys2Proof Sys2Proof.Machine

/-- Refutes O55: WAIT_WORD_READ does not mark an entry whose word has reached its value while a release at die scope that wrote it
is still veiled from the scheduler's die, which the clause on wait words leaves out. -/
theorem not_launchesAndGangs : ¬ Obligations.LaunchesAndGangs := by
  unfold Obligations.LaunchesAndGangs
  rintro ⟨-, -, -, -, hwait, -⟩
  obtain ⟨-, hread⟩ := hwait veiledWait 1 0 1 waitingLaunch rfl rfl (by decide) (by decide)
  obtain ⟨hmatch, -⟩ := hread (by decide) veiledWait_regionRights veiledWait_schedRead
  obtain ⟨-, hmarks⟩ := hmatch (by decide)
  have hsame := (exec_waitWordRead_of_veiled rfl veiledWait_schedVeiled).symm.trans (hmarks (by decide))
  have hlaunch := congrArg (fun s => (tget s.launches 1).map (·.matched)) (Host.Outcome.next.inj hsame)
  exact absurd hlaunch (by decide)

end

section
/-! PROOFS. Ready rings, codelets and the slices of tenants (03 R43 to R45, R48; 09 R126 to R129). -/

namespace Sys2Proof.Machine

/-! ### Vectors, fields and bytes -/

theorem vget_vset_same {α : Type} {n : Nat} (v : Vector α n) {i : Nat} (h : i < n) (a d : α) :
    vget (vset v i a) i d = a := by
  simp [vget, vset, h]

theorem vget_vset_other {α : Type} {n : Nat} (v : Vector α n) {i j : Nat} (h : j ≠ i) (a d : α) :
    vget (vset v i a) j d = vget v j d := by
  unfold vset
  split
  · simp [vget, h.symm]
  · rfl

theorem bits_lt (x hi lo : Nat) : bits x hi lo < 2 ^ (hi + 1 - lo) := Nat.mod_lt _ (Nat.two_pow_pos _)

/-- A field of at most 64 bits stands in a register as it is. -/
theorem toNat_w64_bits (x : Nat) {hi lo : Nat} (h : hi + 1 - lo ≤ 64) : (w64 (bits x hi lo)).toNat = bits x hi lo :=
  BitVec.toNat_ofNat .. ▸ Nat.mod_eq_of_lt ((bits_lt x hi lo).trans_le (Nat.pow_le_pow_right (by decide) h))

/-- Bits above those of a number are 0. -/
theorem bits_of_lt {x hi lo : Nat} (h : x < 2 ^ lo) : bits x hi lo = 0 := by
  rw [bits, Nat.div_eq_of_lt h, Nat.zero_mod]

/-! ### What reading a register leaves -/

section Reads
variable {s s1 : State}

theorem State.running_setMe (t : Thread) : (s.setMe t).running := by
  show ((s.setMe t).thread? s.cur).isSome = true
  simp [State.setMe]

/-- A pop changes contexts and operations alone. -/
theorem State.takeWord_frame (k : Nat) :
    ∃ th fl n, s.takeWord k = { s with threads := th, flights := fl, nextOp := n } ∧ (s.running → (s.takeWord k).running) := by
  rw [State.takeWord]
  split
  · dsimp only
    split
    · exact ⟨_, _, _, rfl, fun _ => State.running_setMe _⟩
    · exact ⟨_, _, _, rfl, fun _ => State.running_setMe _⟩
  · exact ⟨_, _, _, rfl, id⟩

/-- Reading a register changes contexts, operations and the record of pops alone. -/
theorem State.readG_frame {r : Reg} {v : Word} (h : s.readG r = .ok (v, s1)) :
    ∃ th fl n i, s1 = { s with threads := th, flights := fl, nextOp := n, issue := i } ∧ (s.running → s1.running) := by
  cases ha : s.aliasChan r with
  | none =>
    cases State.readG_state ha h
    exact ⟨_, _, _, _, rfl, id⟩
  | some e =>
    obtain ⟨k, c⟩ := e
    simp only [State.readG, ha] at h
    by_cases ho : c.out = true
    · simp [ho, chanTrap, trap] at h
    · rw [if_neg ho] at h
      cases hn : s.nextAhead with
      | some y =>
        obtain ⟨w, u⟩ := y
        simp only [hn, Except.ok.injEq, Prod.mk.injEq] at h
        obtain ⟨-, rfl⟩ := h
        rw [State.nextAhead] at hn
        split at hn
        · cases hn; exact ⟨_, _, _, _, rfl, id⟩
        · cases hn
      | none =>
        simp only [hn] at h
        generalize (if s.issue.pre.isSome then c else _) = c0 at h
        split at h
        · cases h
        · simp only [Except.ok.injEq, Prod.mk.injEq] at h
          obtain ⟨-, rfl⟩ := h
          obtain ⟨th, fl, n, htake, hrun⟩ := State.takeWord_frame (s := s.notePop k _) k
          exact ⟨th, fl, n, _, htake, hrun⟩

theorem Reads1.running {a : Reg} {x : Word} (h : Reads1 s a x s1) (hs : s.running) : s1.running := by
  obtain ⟨th, fl, n, i, -, hrun⟩ := State.readG_frame h.2
  exact hrun hs

theorem Reads1.cur {a : Reg} {x : Word} (h : Reads1 s a x s1) : s1.cur = s.cur := (State.readG_keeps h.2).2.2.2

theorem Reads1.clock {a : Reg} {x : Word} (h : Reads1 s a x s1) (d : Nat) : s1.clock d = s.clock d := by
  obtain ⟨th, fl, n, i, rfl, -⟩ := State.readG_frame h.2
  rfl

end Reads

/-! ### A word that starts one operation -/

theorem State.commit_eq {s : State} {t : Thread} (h : s.thread? s.cur = some t) :
    s.commit = { s with
      threads := tset s.threads (Party.key s.cur) { t with pc := s.issue.next }
      issue := { s.issue with last := .done } } := by
  rw [State.commit]
  rw [State.mapThread_some s _ h]
  rfl

/-- A word that only starts an operation leaves what Starts says, with no register emptied. -/
theorem State.starts_launchFlight {s : State} (hs : s.running) (k : FlightKind) (ps : List Part) (o : Ordering) (sc : Scope) :
    Starts s (s.launchFlight k ps o sc).commit none k ps o sc := by
  obtain ⟨m, hm⟩ := Option.isSome_iff_exists.mp hs
  have hm' : (s.launchFlight k ps o sc).thread? (s.launchFlight k ps o sc).cur = some m := hm
  have hme : s.me = m := by simp [State.me, State.thread, hm]
  have hnew : (s.launchFlight k ps o sc).commit.me = { m with pc := s.issue.next } := by
    rw [State.me, State.thread, State.commit_cur, State.commit_thread? _ hm']
    rfl
  refine ⟨rfl, ?_, ?_, fun r => ?_, ?_, ?_, ?_, ?_⟩
  · simp
  · rw [State.commit_flights, State.launchFlight_flights]
  · simp [hnew, hme]
  · rw [hnew, hme]
  · rw [hnew]
  · exact fun q h => State.commit_sameOthers (s.launchFlight k ps o sc) q h
  · rw [State.commit_eq hm']
    rfl

/-! ### Select (03 R33) -/

theorem select_lt {c : List Nat} {cand : Nat → Bool} {j : Nat} (h : select c cand = some j) : j < 4 := by
  unfold select at h
  split at h
  · cases h
  · next k hk =>
    have h4 : k < 4 := List.mem_range.mp (List.mem_of_find?_eq_some hk)
    split at h
    · next hnext =>
      have h3 : k < 3 := by simpa using (Bool.and_eq_true_iff.mp (Bool.and_eq_true_iff.mp hnext).1).1
      cases h; omega
    · cases h; exact h4

/-! ### Rings (03 R43, R44; 09 R129) -/

section Rings
variable {s t : State} {p : Party}

/-- Reading at the port draws free values at most. -/
theorem State.readPort_frame (f : Flight) (l : Loc) (n : Nat) : ∃ k, (s.readPort f l n).2 = { s with freeCount := k } := by
  unfold State.readPort
  split
  · split
    · exact ⟨_, rfl⟩
    · exact ⟨_, rfl⟩
  · exact ⟨_, rfl⟩

theorem State.core_ringMark (n : Nat) :
    (s.ringMark p n).core p = { s.core p with ringCycle := s.clock p.die, ringStep := n } :=
  State.coreAt_setCoreAt_same ..

theorem State.rings_setRing (ck : Nat) {i : Nat} (hi : i < 4) (r : Nat × Nat) :
    vget ((s.setRing ck i r).coreAt ck).rings i (0, 0) = r := by
  rw [State.setRing, State.coreAt_setCoreAt_same]
  exact vget_vset_same _ hi _ _

theorem State.ringLate_pop : s.ringLate p 2 = true ↔ (s.core p).ringCycle = s.clock p.die ∧ 2 ≤ (s.core p).ringStep := by
  simp [State.ringLate, b2n]

/-- A pop comes too late once one is served, any other operation once a later one is. -/
theorem State.ringLate_eq_false {n : Nat} (h : s.ringLate p n = false) (hc : (s.core p).ringCycle = s.clock p.die) :
    (s.core p).ringStep ≤ n ∧ (n = 2 → (s.core p).ringStep < 2) := by
  have hlt : (s.core p).ringStep < n + b2n (n != 2) := by simpa [State.ringLate, hc] using h
  by_cases h2 : n = 2
  · subst h2
    have hlt : (s.core p).ringStep < 2 := hlt
    exact ⟨hlt.le, fun _ => hlt⟩
  · have hone : b2n (n != 2) = 1 := by simp [h2, b2n]
    exact ⟨by omega, fun h => absurd h h2⟩

/-- An operation is served where none that follows it has been and the core owes no issue turn. -/
theorem State.ringServe_some {n : Nat} (h : s.ringServe p n = some t) :
    s.ringLate p n = false ∧ s.owesOffer p.die p.core = false ∧
      t = (s.ringMark p n).setCore p { (s.ringMark p n).core p with lastCycle := some (s.clock p.die) } := by
  rw [State.ringServe] at h
  split at h
  · cases h
  · next hno =>
    obtain ⟨hlate, howes⟩ : s.ringLate p n = false ∧ s.owesOffer p.die p.core = false := by simpa using hno
    exact ⟨hlate, howes, (Option.some.inj h).symm⟩

/-- What serving an operation leaves of its core. -/
theorem State.core_of_ringServe {n : Nat} (h : s.ringServe p n = some t) :
    t.core p = { s.core p with ringCycle := s.clock p.die, ringStep := n, lastCycle := some (s.clock p.die) } := by
  obtain ⟨-, -, rfl⟩ := State.ringServe_some h
  rw [State.core_ringMark]
  exact State.coreAt_setCoreAt_same ..

theorem State.ringServe_frame {n : Nat} (h : s.ringServe p n = some t) : ∃ cs, t = { s with cores := cs } := by
  obtain ⟨-, -, rfl⟩ := State.ringServe_some h
  exact ⟨_, rfl⟩

/-- The ring that a descriptor names. -/
def State.ringNamed (s : State) (p : Party) (off : Nat) : Nat := bits (s.readSram (homeByte p off) 8) 57 56

theorem State.ringNamed_lt (off : Nat) : s.ringNamed p off < 4 := bits_lt ..

/-- Head and tail of ring i of a core. -/
def State.ring (s : State) (ck i : Nat) : Nat × Nat := vget (s.coreAt ck).rings i (0, 0)

theorem State.ringPush_eq_none {off : Nat} : s.ringPush p off = none ↔
    64 ≤ (s.ring (Party.coreKey p) (s.ringNamed p off)).2 - (s.ring (Party.coreKey p) (s.ringNamed p off)).1 := by
  rw [State.ringPush]
  split
  · next h => exact iff_of_true rfl h
  · next h => exact iff_of_false (Option.some_ne_none _) h

/-- A push stores the offset at the tail and moves the tail on. -/
theorem State.ringPush_some {off : Nat} (h : s.ringPush p off = some t) :
    let i := s.ringNamed p off
    let r := s.ring (Party.coreKey p) i
    t = (s.writeSram (homeByte p (0x200 * i + 8 * (r.2 % 64))) 8 off).setRing (Party.coreKey p) i (r.1, r.2 + 1) := by
  rw [State.ringPush] at h
  split at h
  · cases h
  · exact (Option.some.inj h).symm

theorem State.readSram_writeSram {a v : Nat} (h : v < 2 ^ 64) : (s.writeSram a 8 v).readSram a 8 = v :=
  (Memory.readN_writeN_same 8 s.sram a v).trans (Nat.mod_eq_of_lt h)

/-- What a push leaves. -/
theorem State.ringPush_leaves {off : Nat} (h : s.ringPush p off = some t) :
    let i := s.ringNamed p off
    let r := s.ring (Party.coreKey p) i
    t.ring (Party.coreKey p) i = (r.1, r.2 + 1) ∧ t.mem = s.mem ∧
      (off < 2 ^ 64 → t.readSram (homeByte p (0x200 * i + 8 * (r.2 % 64))) 8 = off) := by
  intro i r
  obtain rfl := State.ringPush_some h
  exact ⟨State.rings_setRing _ (State.ringNamed_lt off) _, rfl, State.readSram_writeSram⟩

theorem State.ringPop_eq {i v : Nat} (h : s.readPort (s.portFlight p) (s.ringEntry p i) 2 = (v, t)) :
    s.ringPop p i =
      let r := s.ring (Party.coreKey p) i
      let u := t.setRing (Party.coreKey p) i (r.1 + 1, r.2)
      let c := u.coreAt (Party.coreKey p)
      (v, u.setCoreAt (Party.coreKey p) { c with ringC := dispatched c.ringC i }) := by
  rw [State.ringPop, h]
  rfl

/-- A pop changes its core, and draws free values at most. -/
theorem State.ringPop_frame (i : Nat) : ∃ cs k, (s.ringPop p i).2 = { s with cores := cs, freeCount := k } := by
  obtain ⟨k, hk⟩ := State.readPort_frame (s := s) (s.portFlight p) (s.ringEntry p i) 2
  cases hr : s.readPort (s.portFlight p) (s.ringEntry p i) 2 with
  | mk v t =>
    obtain rfl : t = { s with freeCount := k } := by rw [← hk, hr]
    rw [State.ringPop_eq hr]
    exact ⟨_, _, rfl⟩

/-- A pop moves the head of its ring on, and counts for Select. -/
theorem State.coreAt_ringPop (i : Nat) : (s.ringPop p i).2.coreAt (Party.coreKey p) =
    { s.coreAt (Party.coreKey p) with
      rings := vset (s.coreAt (Party.coreKey p)).rings i
        ((s.ring (Party.coreKey p) i).1 + 1, (s.ring (Party.coreKey p) i).2)
      ringC := dispatched (s.coreAt (Party.coreKey p)).ringC i } := by
  obtain ⟨k, hk⟩ := State.readPort_frame (s := s) (s.portFlight p) (s.ringEntry p i) 2
  cases hr : s.readPort (s.portFlight p) (s.ringEntry p i) 2 with
  | mk v t =>
    have hcore : t.coreAt (Party.coreKey p) = s.coreAt (Party.coreKey p) := by
      obtain rfl : t = { s with freeCount := k } := by rw [← hk, hr]
      rfl
    rw [State.ringPop_eq hr]
    simp only [State.coreAt_setCoreAt_same, State.setRing, hcore]

end Rings

/-! ### Codelets (03 R45) -/

section Codelets
variable {s t : State} {p : Party} {qn : Nat} {q : LQueue}

theorem State.loadContext_frame (u : Thread) : ∃ cs th, s.loadContext p u = { s with cores := cs, threads := th } := by
  unfold State.loadContext
  dsimp only
  split
  · exact ⟨_, _, rfl⟩
  · split
    · exact ⟨_, _, rfl⟩
    · exact ⟨_, _, rfl⟩

theorem Thread.setStatus_frame (u : Thread) (n : Nat) (b : Bool) : ∃ st, u.setStatus n b = { u with status := st } :=
  ⟨_, rfl⟩

/-- A context that is loaded stands in its slot, with the events that were raised for the slot. -/
theorem State.thread?_loadContext (u : Thread) :
    ∃ st me, (s.loadContext p u).thread? p = some { u with status := st, memEvent := me } := by
  cases he : tget (s.core p).slotEvents p.slot with
  | none =>
    simp only [State.loadContext, he]
    exact ⟨u.status, u.memEvent, State.thread?_setThread_same ..⟩
  | some e =>
    have htimer : ∃ st, (if e.timer then u.setStatus stTpend true else u) = { u with status := st } := by
      split
      · exact u.setStatus_frame _ _
      · exact ⟨u.status, rfl⟩
    obtain ⟨st, hst⟩ := htimer
    simp only [State.loadContext, he, hst]
    cases e.mem with
    | none => exact ⟨st, u.memEvent, State.thread?_setThread_same ..⟩
    | some m =>
      obtain ⟨st', hst'⟩ := Thread.setStatus_frame { u with status := st } stEpend true
      simp only [hst']
      exact ⟨st', m, State.thread?_setThread_same ..⟩

/-- The unit of the codelet of a descriptor. -/
def codeletWork (p : Party) (qn off : Nat) (w : List Nat) : Work :=
  ⟨some qn, none, some off, 0, bits (nth w 2 0) 38 32, [p], 1, 0, 0, 0, .running, none, none, false, none⟩

/-- The state with the unit of a codelet, before its context is loaded. -/
def State.withCodelet (s : State) (p : Party) (qn off : Nat) (w : List Nat) : State :=
  { s.setWork s.nextUnit (codeletWork p qn off w) with nextUnit := s.nextUnit + 1, nextCtx := s.nextCtx + 1 }

/-- The context of a codelet as it is loaded. -/
def State.codeletContext (s : State) (p : Party) (q : LQueue) (off : Nat) (w : List Nat) : Thread :=
  { codeletThread p s.nextCtx s.nextUnit q off w (s.codeletOk q w) with readyAt := s.clock p.die + 1 }

/-- A codelet starts with a unit of its own, from its descriptor as the port reads it. -/
theorem State.loadCodelet_eq {off v : Nat} (h : s.readPort (s.portFlight p) (.sram (homeByte p off)) 32 = (v, t)) :
    s.loadCodelet p qn q off =
      (t.withCodelet p qn off (wordsOf v 4)).loadContext p (t.codeletContext p q off (wordsOf v 4)) := by
  rw [State.loadCodelet]
  rw [h]
  rfl

theorem State.loadCodelet_frame (off : Nat) : ∃ cs th k w n c, s.loadCodelet p qn q off =
    { s with cores := cs, threads := th, freeCount := k, units := w, nextUnit := n, nextCtx := c } := by
  obtain ⟨k, hk⟩ := State.readPort_frame (s := s) (s.portFlight p) (.sram (homeByte p off)) 32
  cases hr : s.readPort (s.portFlight p) (.sram (homeByte p off)) 32 with
  | mk v t =>
    obtain rfl : t = { s with freeCount := k } := by rw [← hk, hr]
    rw [State.loadCodelet_eq hr]
    obtain ⟨cs, th, hload⟩ := State.loadContext_frame (s := ({ s with freeCount := k } : State).withCodelet p qn off (wordsOf v 4))
      (p := p) (({ s with freeCount := k } : State).codeletContext p q off (wordsOf v 4))
    rw [hload]
    exact ⟨cs, th, k, _, _, _, rfl⟩

/-- The first trap of a codelet's context: due where its descriptor is malformed. -/
theorem State.codeletContext_firstTrap (off : Nat) (w : List Nat) :
    (s.codeletOk q w = true → (s.codeletContext p q off w).firstTrap = none) ∧
    (s.codeletOk q w = false → (s.codeletContext p q off w).firstTrap = some ⟨0x06, w64 (2 ^ 63 + off), 4⟩) :=
  ⟨fun h => if_pos h, fun h => if_neg (by simp [h])⟩

/-- g2, g3 and g4 of a codelet: its stack, the argument and the descriptor. -/
theorem State.codeletContext_registers (off : Nat) (w : List Nat) :
    let u := s.codeletContext p q off w
    vget u.g 2 (.val 0) = .val (stackTop p.slot) ∧ vget u.g 3 (.val 0) = .val (w64 (nth w 1 0)) ∧
      vget u.g 4 (.val 0) = .val (w64 (2 ^ 63 + off)) := by
  simp [State.codeletContext, codeletThread, startThread, vget_vset_same, vget_vset_other]

/-! ### The pop for an idle slot (03 R45; 09 R129) -/

theorem State.popPlan_noRing {die core : Nat}
    (hsel : select (s.core ⟨die, core, 0⟩).ringC (s.ringHas (Party.coreKey ⟨die, core, 0⟩)) = none) :
    s.popPlan die core = none := by
  rw [State.popPlan]
  rw [hsel]
  split
  · rfl
  · split
    · next h => cases h
    · rfl

theorem State.popPlan_stopped {die core : Nat} (hqo : s.queueOf die core = some qn) (hq : s.queue qn = some q)
    (hstop : q.stopped = true) : s.popPlan die core = none := by
  rw [State.popPlan]
  rw [hqo]
  split
  · rfl
  · split
    · next h _ =>
      cases h
      simp [hq, hstop]
    · rfl

/-- An idle slot of a running core pops the ring that Select names, where nothing that the core has issued is to change what
the pop reads. -/
theorem State.popPlan_some {die core k i off : Nat} (hpres : s.corePresent die core = true) (hrun : (s.dieAt die).halted = false)
    (hidle : s.idleSlot die core = some k) (hqo : s.queueOf die core = some qn) (hq : s.queue qn = some q)
    (hstop : q.stopped = false)
    (hsel : select (s.core ⟨die, core, 0⟩).ringC (s.ringHas (Party.coreKey ⟨die, core, 0⟩)) = some i)
    (hentry : s.portBusy ⟨die, core, 0⟩ (s.ringEntry ⟨die, core, 0⟩ i) 2 false s.nextOp = false)
    (hpop : s.ringPop ⟨die, core, 0⟩ i = (off, t))
    (hdesc : s.portBusy ⟨die, core, 0⟩ (.sram (homeByte ⟨die, core, 0⟩ off)) 32 false s.nextOp = false) :
    s.popPlan die core = some (⟨die, core, k⟩, qn, q, off, t) := by
  rw [State.popPlan]
  simp only [hpres, hrun, hidle, hqo, hsel, hq, hstop, hentry, hpop, hdesc, Bool.not_true, Bool.or_self, Bool.false_eq_true,
    if_false]

/-- A planned pop changes its core, and draws free values at most. -/
theorem State.popPlan_frame {die core off : Nat} (h : s.popPlan die core = some (p, qn, q, off, t)) :
    ∃ cs k, t = { s with cores := cs, freeCount := k } := by
  rw [State.popPlan] at h
  split at h
  · cases h
  · split at h
    · split at h
      · cases h
      · split at h
        · cases h
        · split at h
          next off' u hpop =>
            split at h
            · cases h
            · cases h
              have ht : (s.ringPop ⟨die, core, 0⟩ _).2 = t := congrArg Prod.snd hpop
              rw [← ht]
              exact State.ringPop_frame _
    · cases h

/-- The pop before a push moves neither the place whose bundle runs nor a clock. -/
theorem State.popFirst_keeps (s : State) : s.popFirst.cur = s.cur ∧ s.popFirst.dies = s.dies := by
  rw [State.popFirst]
  split
  · exact ⟨rfl, rfl⟩
  · split
    · next p qn x off s1 hplan =>
      obtain ⟨cs, k, rfl⟩ := State.popPlan_frame hplan
      obtain ⟨_, _, _, _, _, _, hload⟩ := State.loadCodelet_frame (p := p) (qn := qn) (q := x)
        (s := State.ringMark { s with cores := cs, freeCount := k } p 2) off
      rw [hload]
      exact ⟨rfl, rfl⟩
    · exact ⟨rfl, rfl⟩

theorem State.popFirst_none (h : s.ringLate s.cur 2 = true ∨ s.popPlan s.cur.die s.cur.core = none) : s.popFirst = s := by
  rw [State.popFirst]
  split
  · rfl
  · next hlate =>
    rw [h.resolve_left hlate]

theorem State.popFirst_some {off : Nat} (hlate : ¬ s.ringLate s.cur 2 = true)
    (h : s.popPlan s.cur.die s.cur.core = some (p, qn, q, off, t)) :
    s.popFirst = (t.ringMark p 2).loadCodelet p qn q off := by
  rw [State.popFirst]
  rw [if_neg hlate, h]

end Codelets

/-! ### RPUSH, RPOP and CDEC (09 R126 to R128) -/

section RingWords
variable {s s1 : State} {a d : Reg} {x : Word}

/-- The state after an RPUSH has put an offset in ring i. -/
def State.pushed (s : State) (i off : Nat) : State :=
  let r := s.ring (Party.coreKey s.cur) i
  ((s.ringMark s.cur 4).setRing (Party.coreKey s.cur) i (r.1, r.2 + 1)).pushAccesses i r.2 off

theorem State.coreAt_pushed (i off : Nat) : (s.pushed i off).coreAt (Party.coreKey s.cur) =
    { s.core s.cur with
      rings := vset (s.core s.cur).rings i
        ((s.ring (Party.coreKey s.cur) i).1, (s.ring (Party.coreKey s.cur) i).2 + 1)
      ringCycle := s.clock s.cur.die
      ringStep := 4 } := by
  have hcore : (s.pushed i off).coreAt (Party.coreKey s.cur) = ((s.ringMark s.cur 4).setRing (Party.coreKey s.cur) i
      ((s.ring (Party.coreKey s.cur) i).1, (s.ring (Party.coreKey s.cur) i).2 + 1)).coreAt (Party.coreKey s.cur) := rfl
  have hmark : (s.ringMark s.cur 4).coreAt (Party.coreKey s.cur) =
      { s.core s.cur with ringCycle := s.clock s.cur.die, ringStep := 4 } := State.core_ringMark 4
  rw [hcore, State.setRing, State.coreAt_setCoreAt_same, hmark]

theorem State.launchFlight_appends (k : FlightKind) (ps : List Part) (o : Ordering) (sc : Scope) :
    ∃ f : Flight, (s.launchFlight k ps o sc).flights = s.flights ++ [f] ∧ f.id = s.nextOp ∧ f.kind = k ∧ f.parts = ps :=
  ⟨_, State.launchFlight_flights .., rfl, rfl, rfl⟩

theorem State.launchFlight_twice (k l : FlightKind) (ps qs : List Part) (o : Ordering) (sc : Scope) :
    ∃ f g : Flight, ((s.launchFlight k ps o sc).launchFlight l qs o sc).flights = s.flights ++ [f, g] ∧
      f.id < g.id ∧ f.kind = k ∧ f.parts = ps ∧ g.kind = l ∧ g.parts = qs := by
  obtain ⟨f, hf, hfid, hfkind⟩ := s.launchFlight_appends k ps o sc
  obtain ⟨g, hg, hgid, hgkind, hgparts⟩ := (s.launchFlight k ps o sc).launchFlight_appends l qs o sc
  have hlt : f.id < g.id := by
    rw [hfid, hgid]
    exact Nat.lt_succ_self _
  exact ⟨f, g, by rw [hg, hf, List.append_assoc]; rfl, hlt, hfkind.1, hfkind.2, hgkind, hgparts⟩

/-- The accesses of a push, in their order: the entry, and OVF of the descriptor. -/
theorem State.flights_pushed (i off : Nat) :
    let e := 0x200 * i + 8 * ((s.ring (Party.coreKey s.cur) i).2 % 64)
    ∃ f g : Flight, (s.pushed i off).flights = s.flights ++ [f, g] ∧ f.id < g.id ∧
      f.kind = .store ∧ f.parts = [mkPart (2 ^ 63 + e) (.sram (homeByte s.cur e)) 8 off] ∧
      g.kind = .atomic .and 0xFB 0 0 ∧ g.parts = [mkPart (2 ^ 63 + off + 7) (.sram (homeByte s.cur (off + 7))) 1 0] :=
  State.launchFlight_twice ..

theorem effRpush_eq {w : Nat} {s2 : State} (hread : Reads1 s a x s1) (hdest : s1.checkDest d = .ok ())
    (hlt : x.toNat < 65536) (halign : x.toNat % 32 = 0) (hlow : 0x4000 ≤ x.toNat)
    (hport : s1.checkPort (.sram (homeByte s1.cur x.toNat)) 8 false = .ok ())
    (hnow : s1.readNow (.sram (homeByte s1.cur x.toNat)) 8 = (w, s2)) :
    effRpush d a s = .ok (
      let t := s2.popFirst
      let r := t.ring (Party.coreKey t.cur) (bits w 57 56)
      if 64 ≤ r.2 - r.1 then t.writeG d 0 else (t.pushed (bits w 57 56) x.toNat).writeG d 1) := by
  have hbits : bits x.toNat 63 16 = 0 := bits_of_lt hlt
  have hok : (bits x.toNat 63 16 != 0 || x.toNat % 32 != 0 || decide (x.toNat < 0x4000)) = false := by
    simp [hbits, halign, hlow]
  obtain ⟨hpoison, hread⟩ := hread
  rw [effRpush]
  simp only [hpoison, hread, hdest, hport, hnow, hok, bind, Except.bind, pure, Except.pure, Bool.false_eq_true, if_false]
  split
  · next h => exact congrArg Except.ok (if_pos h).symm
  · next h => exact congrArg Except.ok (if_neg h).symm

/-- The ring that RPOP pops: one that it names, or that Select names (09 R128). -/
def State.ringToPop (s : State) (ck : Nat) (x : Word) : Option Nat :=
  if bit x.toNat 2 then select (s.coreAt ck).ringC (s.ringHas ck)
  else if s.ringHas ck (x.toNat % 4) then some (x.toNat % 4) else none

theorem State.ringToPop_lt {ck i : Nat} (h : s.ringToPop ck x = some i) : i < 4 := by
  rw [State.ringToPop] at h
  split at h
  · exact select_lt h
  · split at h
    · cases h; exact Nat.mod_lt _ (by decide)
    · cases h

theorem effRpop_none (hread : Reads1 s a x s1) (hdest : s1.checkDest d = .ok ())
    (hring : s1.ringToPop (Party.coreKey s1.cur) x = none) : effRpop d a s = .ok (s1.writeG d 0) := by
  obtain ⟨hpoison, hread⟩ := hread
  rw [State.ringToPop] at hring
  rw [effRpop]
  simp only [hpoison, hread, hdest, hring, bind, Except.bind, pure, Except.pure]

theorem effRpop_some {i : Nat} (hread : Reads1 s a x s1) (hdest : s1.checkDest d = .ok ())
    (hring : s1.ringToPop (Party.coreKey s1.cur) x = some i)
    (hport : s1.checkPort (s1.ringEntry s1.cur i) 2 false = .ok ()) :
    effRpop d a s = .ok ((s1.ringPop s1.cur i).2.writeG d (w64 (s1.ringPop s1.cur i).1)) := by
  obtain ⟨hpoison, hread⟩ := hread
  rw [State.ringToPop] at hring
  rw [effRpop]
  simp only [hpoison, hread, hdest, hring, hport, bind, Except.bind, pure, Except.pure]

theorem effCdec_eq (hrel : s.checkRelease = .ok ()) (hread : Reads1 s a x s1) (hdie : x.toNat / 2 ^ 24 < 12)
    (halign : x.toNat % 2 ^ 16 % 32 = 0) (hlow : 0x4000 ≤ x.toNat % 2 ^ 16)
    (hpres : s1.corePresent (x.toNat / 2 ^ 24) (x.toNat / 2 ^ 16 % 256) = true)
    (hpart : s1.inPartition s1.cur s1.src (x.toNat / 2 ^ 24) (x.toNat / 2 ^ 16 % 256) = true) :
    effCdec a s = .ok (s1.launchFlight (.cdec (x.toNat / 2 ^ 24) (x.toNat / 2 ^ 16 % 256) (x.toNat % 2 ^ 16))
      [mkPart (2 ^ 63 + x.toNat % 2 ^ 16 + 16)
        (.sram (homeByte ⟨x.toNat / 2 ^ 24, x.toNat / 2 ^ 16 % 256, 0⟩ (x.toNat % 2 ^ 16 + 16))) 4 0] .rlx .pkg) := by
  have hoff : bits x.toNat 15 0 = x.toNat % 2 ^ 16 := by simp [bits]
  have hcore : bits x.toNat 23 16 = x.toNat / 2 ^ 16 % 256 := rfl
  have hdie' : bits x.toNat 27 24 = x.toNat / 2 ^ 24 := Nat.mod_eq_of_lt (hdie.trans (by decide))
  have hhigh : bits x.toNat 63 28 = 0 := bits_of_lt (by omega)
  have hok : (bits x.toNat 63 28 != 0 || decide (11 < x.toNat / 2 ^ 24) || x.toNat % 2 ^ 16 % 32 != 0 ||
      decide (x.toNat % 2 ^ 16 < 0x4000) || !s1.corePresent (x.toNat / 2 ^ 24) (x.toNat / 2 ^ 16 % 256) ||
      !s1.inPartition s1.cur s1.src (x.toNat / 2 ^ 24) (x.toNat / 2 ^ 16 % 256)) = false := by
    rw [hhigh, halign, hpres, hpart, decide_eq_false (show ¬ 11 < x.toNat / 2 ^ 24 by omega), decide_eq_false hlow.not_gt]
    rfl
  rw [effCdec]
  simp only [hrel, hread.2, hoff, hcore, hdie', hok, bind, Except.bind, pure, Except.pure, Bool.false_eq_true, if_false]

end RingWords

/-! ### CODELET_START (03 R45) -/

section CodeletStart
variable {s s0 t : State} {p : Party} {qn : Nat} {q : LQueue}

theorem State.codeletStart_unserved (h : s.ringServe p 2 = none) : s.codeletStart p = s := by
  rw [State.codeletStart, h]

theorem State.codeletStart_noPlan (h : ∀ u, s.ringServe p 2 = some u → u.popPlan p.die p.core = none) :
    s.codeletStart p = s := by
  cases hs : s.ringServe p 2 with
  | none => exact State.codeletStart_unserved hs
  | some u =>
    rw [State.codeletStart]
    simp only [hs, h u hs]

theorem State.codeletStart_plan {off : Nat} (hs : s.ringServe p 2 = some s0)
    (hplan : s0.popPlan p.die p.core = some (p, qn, q, off, t)) : s.codeletStart p = t.loadCodelet p qn q off := by
  rw [State.codeletStart]
  simp only [hs, hplan, if_true]

theorem State.ringHas_congr {ck : Nat} (h : (t.coreAt ck).rings = (s.coreAt ck).rings) : t.ringHas ck = s.ringHas ck := by
  funext i
  simp only [State.ringHas, h]

/-- Select names the same ring once the operation is served. -/
theorem State.select_of_ringServe {n : Nat} (h : s.ringServe p n = some t) :
    select (t.core ⟨p.die, p.core, 0⟩).ringC (t.ringHas (Party.coreKey ⟨p.die, p.core, 0⟩)) =
      select (s.core p).ringC (s.ringHas (Party.coreKey p)) := by
  have hcore := State.core_of_ringServe h
  have hringC : (t.core p).ringC = (s.core p).ringC := by rw [hcore]
  have hrings : (t.core p).rings = (s.core p).rings := by rw [hcore]
  have hhas : t.ringHas (Party.coreKey p) = s.ringHas (Party.coreKey p) := State.ringHas_congr hrings
  show select (t.core p).ringC (t.ringHas (Party.coreKey p)) = _
  rw [hringC, hhas]

theorem State.popPlan_stopped_of_ringServe {n : Nat} (h : s.ringServe p n = some t) (hqo : s.queueOf p.die p.core = some qn)
    (hq : s.queue qn = some q) (hstop : q.stopped = true) : t.popPlan p.die p.core = none := by
  obtain ⟨cs, rfl⟩ := State.ringServe_frame h
  exact State.popPlan_stopped hqo hq hstop

theorem State.popPlan_of_ringServe {n i off : Nat} (h : s.ringServe p n = some s0)
    (hpres : s.corePresent p.die p.core = true) (hrun : (s.dieAt p.die).halted = false)
    (hidle : s.idleSlot p.die p.core = some p.slot) (hqo : s.queueOf p.die p.core = some qn) (hq : s.queue qn = some q)
    (hstop : q.stopped = false) (hsel : select (s.core p).ringC (s.ringHas (Party.coreKey p)) = some i)
    (hentry : s0.portBusy ⟨p.die, p.core, 0⟩ (s0.ringEntry ⟨p.die, p.core, 0⟩ i) 2 false s0.nextOp = false)
    (hpop : s0.ringPop ⟨p.die, p.core, 0⟩ i = (off, t))
    (hdesc : s0.portBusy ⟨p.die, p.core, 0⟩ (.sram (homeByte ⟨p.die, p.core, 0⟩ off)) 32 false s0.nextOp = false) :
    s0.popPlan p.die p.core = some (p, qn, q, off, t) := by
  have hsel0 := (State.select_of_ringServe h).trans hsel
  obtain ⟨cs, rfl⟩ := State.ringServe_frame h
  exact State.popPlan_some hpres hrun hidle hqo hq hstop hsel0 hentry hpop hdesc

/-- What the start of a codelet leaves (03 R45). -/
theorem State.loadCodelet_leaves {off v : Nat}
    (h : s.readPort (s.portFlight p) (.sram (homeByte p off)) 32 = (v, t)) :
    let w := wordsOf v 4
    ∃ u y, SameBytes t (s.loadCodelet p qn q off) ∧ (s.loadCodelet p qn q off).thread? p = some u ∧
      u.pc.toNat = bits (nth w 0 0) 55 0 ∧ vget u.g 2 (.val 0) = .val (stackTop p.slot) ∧
      vget u.g 3 (.val 0) = .val (w64 (nth w 1 0)) ∧ vget u.g 4 (.val 0) = .val (w64 (2 ^ 63 + off)) ∧
      u.domain.toNat = bits (nth w 2 0) 38 32 ∧ u.rev.toNat = bits (nth w 2 0) 50 39 ∧ u.tvec = q.tvec ∧
      u.unit = s.nextUnit ∧ (t.codeletOk q w = true → u.firstTrap = none) ∧
      (t.codeletOk q w = false → u.firstTrap = some ⟨0x06, w64 (2 ^ 63 + off), 4⟩) ∧
      (s.loadCodelet p qn q off).work s.nextUnit = some y ∧ y.codelet = some off ∧ y.members = [p] ∧ y.queue = some qn := by
  intro w
  have hunit : t.nextUnit = s.nextUnit := by
    obtain ⟨k, hk⟩ := State.readPort_frame (s := s) (s.portFlight p) (.sram (homeByte p off)) 32
    rw [h] at hk
    rw [show t = _ from hk]
  rw [← hunit, State.loadCodelet_eq h]
  obtain ⟨hg2, hg3, hg4⟩ := t.codeletContext_registers (p := p) (q := q) off w
  obtain ⟨hgood, hbad⟩ := t.codeletContext_firstTrap (p := p) (q := q) off w
  obtain ⟨st, me, hthread⟩ := (t.withCodelet p qn off w).thread?_loadContext (p := p) (t.codeletContext p q off w)
  obtain ⟨cs, th, hload⟩ := (t.withCodelet p qn off w).loadContext_frame (p := p) (t.codeletContext p q off w)
  have hwork : ((t.withCodelet p qn off w).loadContext p (t.codeletContext p q off w)).work t.nextUnit =
      some (codeletWork p qn off w) := by
    rw [hload]
    exact State.work_setWork_same t t.nextUnit (codeletWork p qn off w)
  refine ⟨_, codeletWork p qn off w, ?_, hthread, toNat_w64_bits _ (by decide), hg2, hg3, hg4, toNat_w64_bits _ (by decide),
    toNat_w64_bits _ (by decide), rfl, rfl, hgood, hbad, hwork, rfl, rfl, rfl⟩
  rw [hload]
  exact .of_eq rfl rfl rfl

end CodeletStart

/-! ### CDEC_PERFORM (09 R126) -/

section CdecPerform
variable {s s1 : State} {f : Flight} {die core off n : Nat}

theorem State.cdecPerform_waits (hf : s.flight? f.id = some f) (hk : f.kind = .cdec die core off)
    (h : s.mayPerform f 0 = false ∨ s.clearing ⟨die, core, 15⟩ off = true) : s.cdecPerform f.id = s := by
  have hwait : (f.moved || !s.mayPerform f 0 || s.clearing ⟨die, core, 15⟩ off) = true := by
    rcases h with h | h
    · simp [h]
    · simp [h]
  rw [State.cdecPerform]
  split
  · rfl
  · next g hg =>
    obtain rfl : f = g := Option.some.inj (hf.symm.trans hg)
    split
    · next hk' =>
      cases hk.symm.trans hk'
      exact if_pos hwait
    · rfl

/-- The state after the decrement. -/
def State.decremented (s : State) (op : Nat) (p : Party) (off n : Nat) : State :=
  (s.dropFlight op).writeSram (homeByte p (off + 16)) 4 ((n + 2 ^ 32 - 1) % 2 ^ 32)

/-- The push of a descriptor, or what a full ring leaves: OVF, an event and a message (03 R44). -/
def State.pushOrReport (s : State) (p : Party) (off : Nat) : State :=
  (s.ringPush p off).getD (((s.setOvf p off).addEv (Party.coreKey p) evRingovf 1).message p 1 (w64 off))

section Counted
variable (hf : s.flight? f.id = some f) (hk : f.kind = .cdec die core off) (hm : f.moved = false)
  (hperf : s.mayPerform f 0 = true) (hclear : s.clearing ⟨die, core, 15⟩ off = false)
include hf hk hm hperf hclear

theorem State.cdecPerform_counts (hcount : s.countOf ⟨die, core, 15⟩ off = (n, s1)) (hn : n ≠ 1) :
    s.cdecPerform f.id = s1.decremented f.id ⟨die, core, 15⟩ off n := by
  have hgo : (f.moved || !s.mayPerform f 0 || s.clearing ⟨die, core, 15⟩ off) = false := by simp [hm, hperf, hclear]
  rw [State.cdecPerform]
  simp only [hf, hk, hgo, hcount, Bool.false_eq_true, if_false, bne_iff_ne.mpr hn, if_true, State.decremented]

/-- The decrement that completes the count is made only where the core serves its push. -/
theorem State.cdecPerform_completes (hcount : s.countOf ⟨die, core, 15⟩ off = (1, s1)) :
    s.cdecPerform f.id = (((s1.decremented f.id ⟨die, core, 15⟩ off 1).ringServe ⟨die, core, 15⟩ 3).map
      (fun u => u.pushOrReport ⟨die, core, 15⟩ off)).getD s := by
  have hgo : (f.moved || !s.mayPerform f 0 || s.clearing ⟨die, core, 15⟩ off) = false := by simp [hm, hperf, hclear]
  rw [State.cdecPerform]
  simp only [hf, hk, hgo, hcount, Bool.false_eq_true, if_false, bne_self_eq_false]
  cases h : (s1.decremented f.id ⟨die, core, 15⟩ off 1).ringServe ⟨die, core, 15⟩ 3 with
  | none =>
    rw [State.decremented] at h
    simp only [h]
    rfl
  | some u =>
    rw [State.decremented] at h
    simp only [h, Option.map_some, Option.getD_some, State.pushOrReport]
    cases u.ringPush ⟨die, core, 15⟩ off with
    | none => rfl
    | some v => rfl

end Counted

end CdecPerform

/-! ### The end of a slice (03 R48) -/

theorem mem_foldl_insert {α : Type} (before : α → α → Bool) (x : α) (ps l : List α) :
    x ∈ ps.foldl (fun l p => l.takeWhile (before p) ++ [p] ++ l.dropWhile (before p)) l ↔ x ∈ l ∨ x ∈ ps := by
  induction ps generalizing l with
  | nil => simp
  | cons p ps ih =>
    have hl : x ∈ l ↔ x ∈ l.takeWhile (before p) ∨ x ∈ l.dropWhile (before p) := by
      rw [← List.mem_append, List.takeWhile_append_dropWhile]
    rw [List.foldl_cons, ih, hl]
    simp only [List.mem_append, List.mem_cons]
    tauto

section SliceEnd
variable {s : State} {qn rn : Nat} {q r : LQueue}

/-- The order in which slots change has each of them. -/
theorem State.mem_changeOrder (ps : List Party) (p : Party) : p ∈ s.changeOrder ps ↔ p ∈ ps := by
  have h := mem_foldl_insert (fun p x => decide (s.changeRank x ≤ s.changeRank p)) p ps []
  exact h.trans (by simp)

/-- The slots that change at the end of a slice: those of the outgoing tenant's contexts, and those of the contexts of the
incoming one that are saved. -/
def State.slotsToChange (s : State) (qn rn : Nat) : List Party :=
  let coming := (s.saved.filter (fun x => x.queue == rn && x.cause != 0x09)).map (·.party)
  let going := s.placesOfQueue qn
  s.changeOrder (going ++ coming.filter (fun p => !going.contains p))

theorem State.mem_slotsToChange (p : Party) : p ∈ s.slotsToChange qn rn ↔
    p ∈ s.placesOfQueue qn ∨ ∃ y ∈ s.saved, y.queue = rn ∧ y.cause ≠ 0x09 ∧ y.party = p := by
  have hcoming : p ∈ (s.saved.filter (fun x => x.queue == rn && x.cause != 0x09)).map (·.party) ↔
      ∃ y ∈ s.saved, y.queue = rn ∧ y.cause ≠ 0x09 ∧ y.party = p := by
    simp [and_assoc]
  rw [← hcoming, State.slotsToChange, State.mem_changeOrder, List.mem_append, List.mem_filter]
  by_cases h : p ∈ s.placesOfQueue qn
  · simp [h]
  · simp [h]

theorem State.sliceEnd_early (hq : s.queue qn = some q)
    (hr : s.queues.find? (fun e => e.1 != qn && e.2.sharesWith q && e.2.slice != 0) = some (rn, r))
    (hearly : s.clock q.die < q.sliceAt + q.slice) : s.sliceEnd qn = s := by
  simp [State.sliceEnd, hq, hr, hearly]

theorem State.sliceEnd_over (hq : s.queue qn = some q)
    (hr : s.queues.find? (fun e => e.1 != qn && e.2.sharesWith q && e.2.slice != 0) = some (rn, r))
    (hcur : q.current = true) (hslice : q.slice ≠ 0) (hqc : q.changing = []) (hrc : r.changing = [])
    (hover : q.sliceAt + q.slice ≤ s.clock q.die) :
    s.sliceEnd qn =
      (s.setQueue qn { q with current := false, changing := s.slotsToChange qn rn, reached := [], saveFailed := false }).setQueue rn
        { r with current := true, sliceAt := s.clock q.die } := by
  rw [State.sliceEnd]
  simp only [hq, hr]
  have hgo : (!q.current || q.slice == 0 || decide (s.clock q.die < q.sliceAt + q.slice) || !q.changing.isEmpty ||
      !r.changing.isEmpty) = false := by
    simp [hcur, hslice, hqc, hrc, hover]
  rw [hgo]
  rfl

end SliceEnd

/-! ### A slot that changes (03 R48) -/

section SlotChange
variable {s s1 : State} {p : Party} {qn : Nat} {q : LQueue}

theorem State.queue_changed (h : s.queue qn = some q) (failed : Bool) :
    (s.changed qn p failed).queue qn = some { q with
      changing := q.changing.filter (fun x => x != p)
      reached := q.reached.filter (fun x => x != p)
      saveFailed := q.saveFailed || failed } := by
  simp [State.changed, h]

/-- A slot that has changed is no longer to change. -/
theorem State.not_changing_changed (failed : Bool) :
    ((s.changed qn p failed).queue qn).any (fun x => x.changing.contains p) = false := by
  cases h : s.queue qn with
  | none =>
    have hsame : s.changed qn p failed = s := by simp [State.changed, h]
    rw [hsame, h]
    rfl
  | some q =>
    rw [State.queue_changed h]
    simp

theorem State.changeSlot_changed {u : State} (h : s.preempt qn q p = u.changed qn p false) :
    s.changeSlot qn q p = (u.changed qn p false).contextResume p := by
  rw [State.changeSlot]
  simp only [h, State.not_changing_changed, Bool.false_eq_true, if_false]

theorem State.changeSlot_waits (h : s.preempt qn q p = s) (hq : s.queue qn = some q) (hp : p ∈ q.changing) :
    s.changeSlot qn q p = s := by
  rw [State.changeSlot]
  simp [h, hq, hp]

theorem State.preempt_empty (h : s.thread? p = none) : s.preempt qn q p = s.changed qn p false := by
  simp [State.preempt, h]

section Holds
variable {t : Thread} (ht : s.thread? p = some t) (hquit : t.quitting = false) (hqt : s.queueOfThread p t = some qn)
include ht hquit hqt

theorem State.preempt_waits (h : s.canSave p t false = false) : s.preempt qn q p = s := by
  simp [State.preempt, ht, hquit, hqt, h]

theorem State.preempt_saves (h : s.canSave p t false = true) (hsave : s.saveContext p t q.saveCause false = some s1) :
    s.preempt qn q p = s1.changed qn p false := by
  simp [State.preempt, ht, hquit, hqt, h, hsave]

end Holds

theorem State.slotChange_reached (h : s.queues.find? (fun e => !e.2.stopped && e.2.reached.contains p) = some (qn, q)) :
    s.slotChange p = s.changeSlot qn q p := by
  rw [State.slotChange]
  rw [h]

/-- A slot that the rotation has reached is not ready. -/
theorem State.not_ready_of_reached (h : s.queues.find? (fun e => !e.2.stopped && e.2.reached.contains p) = some (qn, q)) :
    s.ready p = false := by
  have hback : q.keepsBack p = true := by
    have hq := List.find?_some h
    obtain ⟨hrun, hreached⟩ : q.stopped = false ∧ p ∈ q.reached := by simpa using hq
    simp [LQueue.keepsBack, hrun, hreached]
  have hmem := List.mem_of_find?_eq_some h
  have hall : s.queues.all (fun e => !e.2.keepsBack p) = false :=
    List.all_eq_false.mpr ⟨_, hmem, by simp [hback]⟩
  simp [State.ready, hall]

section NotReached
variable (h : ∀ e ∈ s.queues, e.2.stopped = false → p ∉ e.2.reached)
include h

theorem State.find?_reached_eq_none : s.queues.find? (fun e => !e.2.stopped && e.2.reached.contains p) = none := by
  simpa using h

theorem State.slotChange_passes (hno : s.reaches p = false ∨ s.comesTo p = false) : s.slotChange p = s := by
  rw [State.slotChange]
  rw [State.find?_reached_eq_none h]
  rcases hno with hno | hno
  · simp [hno]
  · simp [hno]

theorem State.slotChange_reaches (hr : s.reaches p = true) (hc : s.comesTo p = true)
    (hq : s.queues.find? (fun e => !e.2.stopped && e.2.changing.contains p) = some (qn, q)) :
    s.slotChange p =
      let q1 : LQueue := { q with reached := q.reached ++ [p] }
      let u := (s.setQueue qn q1).changeSlot qn q1 p
      if s.offerable p then u.setCore p { u.core p with lastCycle := some (u.clock p.die), lastSlot := p.slot } else u := by
  rw [State.slotChange]
  simp only [State.find?_reached_eq_none h, hr, hc, Bool.and_self, if_true, State.reachSlot, hq]

end NotReached

end SlotChange

/-! ### What exec does at each word -/

section ExecWords
variable {s s1 s2 s3 : State} {a d : Reg} {x : Word}

/-- What an RPUSH does before it reads its ring moves neither the place whose bundle runs nor a clock. -/
theorem Reads1.popFirst_keeps {l : Loc} {n w : Nat} (hread : Reads1 s a x s1) (hnow : s1.readNow l n = (w, s2))
    (hfirst : s2.popFirst = s3) : s3.cur = s.cur ∧ s3.clock s.cur.die = s.clock s.cur.die := by
  obtain ⟨k, hk⟩ := State.readPort_frame (s := s1) s1.issueFlight l n
  obtain rfl : s2 = { s1 with freeCount := k } := (congrArg Prod.snd hnow).symm.trans hk
  obtain ⟨hcur, hdies⟩ := State.popFirst_keeps { s1 with freeCount := k }
  rw [hfirst] at hcur hdies
  refine ⟨hcur.trans hread.cur, Eq.trans ?_ (hread.clock s.cur.die)⟩
  simp only [State.clock, State.dieAt, hdies]

theorem exec_rpush {w : Nat} {t : State} (hs : s.running) (hread : Reads1 s a x s1) (hdest : s1.checkDest d = .ok ())
    (hlt : x.toNat < 65536) (halign : x.toNat % 32 = 0) (hlow : 0x4000 ≤ x.toNat)
    (hport : s1.checkPort (.sram (homeByte s.cur x.toNat)) 8 false = .ok ())
    (hnow : s1.readNow (.sram (homeByte s.cur x.toNat)) 8 = (w, s2)) (hfirst : s2.popFirst = s3)
    (ht : (let r := s3.ring (Party.coreKey s.cur) (bits w 57 56)
      if 64 ≤ r.2 - r.1 then s3.writeG d 0 else (s3.pushed (bits w 57 56) x.toNat).writeG d 1) = t) :
    exec (.rpush d a) s = .next t.commit := by
  obtain ⟨hcur, -⟩ := hread.popFirst_keeps hnow hfirst
  rw [← hread.cur] at hport hnow
  have heff := effRpush_eq hread hdest hlt halign hlow hport hnow
  simp only [hfirst, hcur] at heff
  exact run_ok hs (heff.trans (congrArg Except.ok ht))

/-- What the push of an RPUSH leaves (09 R127, R129). -/
theorem State.pushed_leaves {p : Party} (hcur : s3.cur = p) {i : Nat} (hi : i < 4) (off : Nat) :
    let r := s3.ring (Party.coreKey p) i
    let e := 0x200 * i + 8 * (r.2 % 64)
    let u := s3.pushed i off
    ∃ f g : Flight, u.me.g = s3.me.g ∧ SameBytes s3 u ∧ u.ring (Party.coreKey p) i = (r.1, r.2 + 1) ∧
      u.flights = s3.flights ++ [f, g] ∧ (u.core p).ringCycle = s3.clock p.die ∧ (u.core p).ringStep = 4 ∧ f.id < g.id ∧
      f.kind = .store ∧ f.parts = [mkPart (2 ^ 63 + e) (.sram (homeByte p e)) 8 off] ∧ g.kind = .atomic .and 0xFB 0 0 ∧
      g.parts = [mkPart (2 ^ 63 + off + 7) (.sram (homeByte p (off + 7))) 1 0] := by
  subst hcur
  intro r e u
  have hcore := s3.coreAt_pushed i off
  obtain ⟨f, g, hflights, hfg⟩ := s3.flights_pushed i off
  refine ⟨f, g, rfl, .of_eq rfl rfl rfl, ?_, hflights, ?_, ?_, hfg⟩
  · rw [State.ring, hcore]
    exact vget_vset_same _ hi _ _
  · rw [State.core, hcore]
  · rw [State.core, hcore]

/-- What a pop by RPOP leaves (09 R128). -/
theorem State.ringPop_leaves {p : Party} {i : Nat} (hi : i < 4) :
    let r := s.ring (Party.coreKey p) i
    let u := (s.ringPop p i).2
    SameBytes s u ∧ u.me.g = s.me.g ∧ u.ring (Party.coreKey p) i = (r.1 + 1, r.2) ∧
      (u.coreAt (Party.coreKey p)).ringC = dispatched (s.coreAt (Party.coreKey p)).ringC i := by
  intro r u
  have hcore := s.coreAt_ringPop (p := p) i
  obtain ⟨cs, k, hpop⟩ := s.ringPop_frame (p := p) i
  refine ⟨?_, ?_, ?_, ?_⟩
  · show SameBytes s (s.ringPop p i).2
    rw [hpop]
    exact .of_eq rfl rfl rfl
  · show (s.ringPop p i).2.me.g = _
    rw [hpop]
    rfl
  · show (s.ringPop p i).2.ring (Party.coreKey p) i = _
    rw [State.ring, hcore]
    exact vget_vset_same _ hi _ _
  · show ((s.ringPop p i).2.coreAt (Party.coreKey p)).ringC = _
    rw [hcore]

end ExecWords

section ExecEvents
variable (s : State)

theorem exec_cdecPerform (op : Nat) : exec (.cdecPerform op) s = .next (s.cdecPerform op) := rfl

theorem exec_codeletStart (p : Party) : exec (.codeletStart p) s = .next (s.codeletStart p) := rfl

theorem exec_tenantSliceEnd (qn : Nat) : exec (.tenantSliceEnd qn) s = .next (s.sliceEnd qn) := rfl

theorem exec_tenantSlotChange (p : Party) : exec (.tenantSlotChange p) s = .next (s.slotChange p) := rfl

end ExecEvents

end Sys2Proof.Machine

open Sys2Proof Sys2Proof.Machine

/-- Settles O56, one word or event after another: each is its meaning's equation and what its operations leave. -/
theorem ringsCodeletsTenants : Obligations.RingsCodeletsTenants := by
  unfold Obligations.RingsCodeletsTenants
  refine ⟨fun s s1 d a x hs hread hdest =>
      ⟨fun hlt halign hlow hport w s2 s3 hnow hfirst => ⟨fun hfull => ?_, fun hroom => ?_⟩,
        fun ring hring => ⟨fun hnone => ?_, fun i v s2 hsome hport hv => ?_⟩⟩,
    fun s s1 a x hs hrel hread hdie halign hlow hpres hpart => ?_,
    fun s s1 f die core off n hf hk hm => ⟨fun h => ?_, fun hperf hclear hcount =>
      ⟨fun hn => ?_, fun hn h => ?_, fun s3 hn h => ⟨fun s4 hpush => ?_, fun hpush => ?_⟩⟩⟩,
    fun s t p off n => ⟨?_, fun h => ?_, fun h => ?_⟩,
    fun s => ⟨fun h => ?_, fun p qn x off s1 hlate hplan => ?_⟩,
    fun s s1 s2 p qn i off v q hpres hrun hidle hqo => ⟨fun hsel => ?_, fun hq hstop => ?_, fun h => ?_,
      fun s0 hsel hq hstop hserve hentry hpop hdesc hv => ?_⟩,
    fun s qn rn q r hq hr hcur hslice hqc hrc => ⟨fun h => ?_, fun h => ?_⟩,
    fun s s1 p qn q => ⟨fun h => ⟨fun hno => ?_, fun hr hc hq => ?_⟩, fun hfind hq hp => ⟨?_, fun ht => ?_,
      fun t ht hquit hqt => ⟨fun h => ?_, fun h hsave => ?_⟩⟩⟩⟩
  -- RPUSH and RPOP
  · exact exec_rpush hs hread hdest hlt halign hlow hport hnow hfirst (if_pos hfull)
  · obtain ⟨hcur, hclock⟩ := hread.popFirst_keeps hnow hfirst
    obtain ⟨f, g, hg, hbytes, hring, hflights, hcycle, hleaves⟩ :=
      State.pushed_leaves hcur (bits_lt w 57 56) x.toNat
    exact ⟨s3.pushed (bits w 57 56) x.toNat, f, g,
      exec_rpush hs hread hdest hlt halign hlow hport hnow hfirst (if_neg (Nat.not_le.mpr hroom)),
      hg, hbytes, hring, hflights, hcycle.trans hclock, hleaves⟩
  · rw [← hread.cur] at hring
    exact run_ok hs (effRpop_none hread hdest (hring.symm.trans hnone))
  · rw [← hread.cur] at hring hport hv ⊢
    have hring : s1.ringToPop (Party.coreKey s1.cur) x = some i := hring.symm.trans hsome
    have hv : (s1.ringPop s1.cur i).1 = v := congrArg Prod.fst (State.ringPop_eq hv)
    have heff := effRpop_some hread hdest hring hport
    rw [hv] at heff
    exact ⟨_, run_ok hs heff, State.ringPop_leaves (State.ringToPop_lt hring)⟩
  -- CDEC and CDEC_PERFORM
  · exact ⟨_, run_ok hs (effCdec_eq hrel hread hdie halign hlow hpres hpart),
      State.starts_launchFlight (hread.running hs) ..⟩
  · rw [exec_cdecPerform, State.cdecPerform_waits hf hk h]
  · exact congrArg Host.Outcome.next (State.cdecPerform_counts hf hk hm hperf hclear hcount hn)
  · obtain rfl := hn
    have h : (s1.decremented f.id ⟨die, core, 15⟩ off 1).ringServe ⟨die, core, 15⟩ 3 = none := h
    rw [exec_cdecPerform, State.cdecPerform_completes hf hk hm hperf hclear hcount, h, Option.map_none, Option.getD_none]
  · obtain rfl := hn
    have h : (s1.decremented f.id ⟨die, core, 15⟩ off 1).ringServe ⟨die, core, 15⟩ 3 = some s3 := h
    rw [exec_cdecPerform, State.cdecPerform_completes hf hk hm hperf hclear hcount, h, Option.map_some, Option.getD_some,
      State.pushOrReport, hpush, Option.getD_some]
  · obtain rfl := hn
    have h : (s1.decremented f.id ⟨die, core, 15⟩ off 1).ringServe ⟨die, core, 15⟩ 3 = some s3 := h
    rw [exec_cdecPerform, State.cdecPerform_completes hf hk hm hperf hclear hcount, h, Option.map_some, Option.getD_some,
      State.pushOrReport, hpush, Option.getD_none]
    rfl
  -- a push, and the place of an operation in its cycle
  · exact State.ringPush_eq_none
  · exact State.ringPush_leaves h
  · obtain ⟨hlate, howes, -⟩ := State.ringServe_some h
    have hcore := State.core_of_ringServe h
    exact ⟨howes, by rw [hcore], by rw [hcore], State.ringLate_eq_false hlate⟩
  · exact State.popFirst_none (h.imp_left State.ringLate_pop.mpr)
  · exact State.popFirst_some (mt State.ringLate_pop.mp hlate) hplan
  -- CODELET_START
  · rw [exec_codeletStart, State.codeletStart_noPlan fun u hu =>
      State.popPlan_noRing ((State.select_of_ringServe hu).trans hsel)]
  · rw [exec_codeletStart, State.codeletStart_noPlan fun u hu => State.popPlan_stopped_of_ringServe hu hqo hq hstop]
  · rw [exec_codeletStart, State.codeletStart_unserved h]
  · have hplan := State.popPlan_of_ringServe hserve hpres hrun hidle hqo hq hstop hsel hentry hpop hdesc
    obtain ⟨cs, k, hs1⟩ := State.popPlan_frame hplan
    obtain ⟨cs0, hs0⟩ := State.ringServe_frame hserve
    have hunit : s1.nextUnit = s.nextUnit := by rw [hs1, hs0]
    obtain ⟨u, y, hleaves⟩ := State.loadCodelet_leaves (qn := qn) (q := q) hv
    rw [hunit] at hleaves
    exact ⟨_, u, y, congrArg Host.Outcome.next (State.codeletStart_plan hserve hplan), hleaves⟩
  -- TENANT_SLICE_END and TENANT_SLOT_CHANGE
  · rw [exec_tenantSliceEnd, State.sliceEnd_early hq hr h]
  · have hne : qn ≠ rn := by
      have hfound := List.find?_some hr
      simp only [Bool.and_eq_true, bne_iff_ne] at hfound
      exact hfound.1.1.symm
    exact ⟨_, _, congrArg Host.Outcome.next (State.sliceEnd_over hq hr hcur hslice hqc hrc h), rfl, .of_eq rfl rfl rfl,
      (tget_tset_other _ _ hne).trans (tget_tset_same ..), rfl, State.queue_setQueue_same .., State.mem_slotsToChange⟩
  · rw [exec_tenantSlotChange, State.slotChange_passes h hno]
  · rw [exec_tenantSlotChange, State.slotChange_reaches h hr hc hq]
  · exact State.not_ready_of_reached hfind
  · rw [exec_tenantSlotChange, State.slotChange_reached hfind, State.changeSlot_changed (State.preempt_empty ht)]
  · rw [exec_tenantSlotChange, State.slotChange_reached hfind,
      State.changeSlot_waits (State.preempt_waits ht hquit hqt h) hq hp]
  · rw [exec_tenantSlotChange, State.slotChange_reached hfind,
      State.changeSlot_changed (State.preempt_saves ht hquit hqt h hsave)]

end
